-- ==== Sys2Proof/Word.lean ====
section
/-! DEFINITION. Word sizes of the Onirop 6240 (spec 00_scope.md R4) and their plainest arithmetic. -/

namespace Sys2Proof

/-- 8 bits (R4). -/
abbrev Byte := BitVec 8
/-- 32 bits (R4): a vector register of one lane. -/
abbrev Word := BitVec 32
/-- 64 bits (R4): a scalar, constant or special register. -/
abbrev DWord := BitVec 64
/-- A mask over the at most 64 lanes of a wave; bit i is lane i. -/
abbrev Mask := BitVec 64
/-- A 7-bit vector register field (R156). -/
abbrev VR := BitVec 7
/-- A 6-bit scalar register field (R156). -/
abbrev SR := BitVec 6
/-- The second-source fields b8 and ss8 (R158), and imm8. -/
abbrev B8 := BitVec 8
/-- The lane-selecting pr field (R157), and a predicate number. -/
abbrev PR := BitVec 3
/-- A buffer-record register number, a barrier object or a queue register number (R156). -/
abbrev BX := BitVec 4

/-- Bits hi..lo of a natural number as an unsigned number (R5). -/
def bits (x hi lo : Nat) : Nat := x / 2 ^ lo % 2 ^ (hi + 1 - lo)

/-- Little-endian value of a byte list (R4): the first byte is least significant. -/
def ofBytes : List Byte → Nat
  | [] => 0
  | b :: bs => b.toNat + 256 * ofBytes bs

/-- The n little-endian bytes of a number (R4). -/
def toBytes : Nat → Nat → List Byte
  | 0, _ => []
  | n + 1, x => BitVec.ofNat 8 x :: toBytes n (x / 256)

/-- The bit of lane i in a mask. -/
def laneBit (m : Mask) (i : Nat) : Bool := m.getLsbD i

/-- The mask holding lane i alone. -/
def oneLane (i : Nat) : Mask := BitVec.ofNat 64 (2 ^ i)

/-- The lanes of a mask, ascending, among 0..63. -/
def lanesOf (m : Mask) : List Nat := (List.range 64).filter (laneBit m)

/-- The mask of the lanes of a list. -/
def maskOf (l : List Nat) : Mask := l.foldl (fun m i => m ||| oneLane i) 0

end Sys2Proof
end

