-- ==== Sys2Proof/Syntax.lean ====
section
/-! DEFINITION. The instruction words and the events of the Onirop 6240: one constructor for each row of
the table of operations and events (spec 07_encoding.md Tables 7-5 to 7-9; 95_what_each_step_holds.md).
A word carries its fields; an event carries what names its place in the device (which wave, request,
ashlar, die). -/

namespace Sys2Proof

/-- What patrol scrub finds in a line (R307, R345, R349). -/
inductive ScrubResult where
  | clean | corrected | uncorrectable
  deriving DecidableEq, Repr

/-- A host access through BAR2 (R297): an offset in the window and the bytes. -/
inductive HostAccess where
  | read (off len : Nat)
  | write (off : Nat) (data : List Byte)
  deriving DecidableEq, Repr

/-- One constructor per row of spec/opcode_table.json. -/
inductive Instr where
  /-- CLAUSE_HEADER (R148). Issues a clause as one unit once its WAIT scoreboards are zero and its room conditions hold, under its engine class, VT, RM, FZ, Y and D bits. -/
  | clauseHeader (n : BX) (e : PR) (w : SR) (s : PR) (v : PR) (r : BitVec 2) (f : BitVec 1) (y : BitVec 1) (d : BitVec 1)
  /-- FADD (R193). Adds va and the second source per element under VT and RM. -/
  | fadd (d : VR) (a : VR) (b : B8) (p : PR)
  /-- FSUB (R193). Subtracts the second source from va per element. -/
  | fsub (d : VR) (a : VR) (b : B8) (p : PR)
  /-- FMUL (R193). Multiplies va by the second source per element. -/
  | fmul (d : VR) (a : VR) (b : B8) (p : PR)
  /-- FFMA (R133). Fused multiply-add into vd with one rounding. -/
  | ffma (d : VR) (a : VR) (b : B8) (p : PR)
  /-- FFNMA (R133). Computes vd minus va times b with one rounding. -/
  | ffnma (d : VR) (a : VR) (b : B8) (p : PR)
  /-- FMIN (R132). minimumNumber of va and the second source per element. -/
  | fmin (d : VR) (a : VR) (b : B8) (p : PR)
  /-- FMAX (R132). maximumNumber of va and the second source per element. -/
  | fmax (d : VR) (a : VR) (b : B8) (p : PR)
  /-- FDOT2 (R133). Two-term pair dot product added to an F32 accumulator with two roundings. -/
  | fdot2 (d : VR) (a : VR) (b : B8) (p : PR)
  /-- FSCALE (R193). Multiplies each element by two to the integer in the second source, rounded once. -/
  | fscale (d : VR) (a : VR) (b : B8) (p : PR)
  /-- RCP (R194). Correctly rounded reciprocal, variable latency. -/
  | rcp (d : VR) (a : VR) (p : PR)
  /-- RSQ (R194). Correctly rounded reciprocal square root. -/
  | rsq (d : VR) (a : VR) (p : PR)
  /-- SQRT (R194). Square root rounded under RM. -/
  | sqrt (d : VR) (a : VR) (p : PR)
  /-- EXP2 (R194). Correctly rounded base-2 exponential. -/
  | exp2 (d : VR) (a : VR) (p : PR)
  /-- LOG2 (R194). Correctly rounded base-2 logarithm. -/
  | log2 (d : VR) (a : VR) (p : PR)
  /-- SIN (R194). Correctly rounded sine of radians. -/
  | sin (d : VR) (a : VR) (p : PR)
  /-- COS (R194). Correctly rounded cosine of radians. -/
  | cos (d : VR) (a : VR) (p : PR)
  /-- TANH (R194). Correctly rounded hyperbolic tangent. -/
  | tanh (d : VR) (a : VR) (p : PR)
  /-- FLOOR (R195). Rounds each element down to an integral value. -/
  | floor (d : VR) (a : VR) (p : PR)
  /-- CEIL (R195). Rounds each element up to an integral value. -/
  | ceil (d : VR) (a : VR) (p : PR)
  /-- TRUNC (R195). Rounds each element towards zero to an integral value. -/
  | trunc (d : VR) (a : VR) (p : PR)
  /-- RINT (R195). Rounds each element to an integral value under RM. -/
  | rint (d : VR) (a : VR) (p : PR)
  /-- FRACT (R195). Fractional part a minus FLOOR(a), rounded towards zero. -/
  | fract (d : VR) (a : VR) (p : PR)
  /-- FCMP (R197). Float compare under cond4 writing predicate pd. -/
  | fcmp (d : PR) (c : BX) (a : VR) (b : B8) (p : PR)
  /-- FABS (R196). Clears the sign bit of each element. -/
  | fabs (d : VR) (a : VR) (p : PR)
  /-- FNEG (R196). Inverts the sign bit of each element. -/
  | fneg (d : VR) (a : VR) (p : PR)
  /-- FCLASS (R196). Writes the class mask of each element. -/
  | fclass (d : VR) (a : VR) (p : PR)
  /-- FSAT (R196). Clamps each element to [+0, 1.0]. -/
  | fsat (d : VR) (a : VR) (p : PR)
  /-- FCOPYSIGN (R193). Replaces the sign bit of va with that of the second source. -/
  | fcopysign (d : VR) (a : VR) (b : B8) (p : PR)
  /-- CVT (R198). Converts one field of va by conversion code into one field of vd. -/
  | cvt (d : VR) (a : VR) (c : BitVec 5) (x : PR) (p : PR)
  /-- CVTPK (R199). Packs two F32 values into the clause's pair type. -/
  | cvtpk (d : VR) (a : VR) (b : B8) (p : PR)
  /-- IADD (R200). 32-bit wrapping add. -/
  | iadd (d : VR) (a : VR) (b : B8) (p : PR)
  /-- ISUB (R200). 32-bit wrapping subtract. -/
  | isub (d : VR) (a : VR) (b : B8) (p : PR)
  /-- IMUL (R200). Low 32 bits of the product. -/
  | imul (d : VR) (a : VR) (b : B8) (p : PR)
  /-- IMULHI (R200). High 32 bits of the signed product. -/
  | imulhi (d : VR) (a : VR) (b : B8) (p : PR)
  /-- UMULHI (R200). High 32 bits of the unsigned product. -/
  | umulhi (d : VR) (a : VR) (b : B8) (p : PR)
  /-- IMAD (R200). Multiply-add into vd, wrapping. -/
  | imad (d : VR) (a : VR) (b : B8) (p : PR)
  /-- IMIN (R200). Signed minimum. -/
  | imin (d : VR) (a : VR) (b : B8) (p : PR)
  /-- IMAX (R200). Signed maximum. -/
  | imax (d : VR) (a : VR) (b : B8) (p : PR)
  /-- UMIN (R200). Unsigned minimum. -/
  | umin (d : VR) (a : VR) (b : B8) (p : PR)
  /-- UMAX (R200). Unsigned maximum. -/
  | umax (d : VR) (a : VR) (b : B8) (p : PR)
  /-- AND (R200). Bitwise AND. -/
  | vand (d : VR) (a : VR) (b : B8) (p : PR)
  /-- OR (R200). Bitwise OR. -/
  | vor (d : VR) (a : VR) (b : B8) (p : PR)
  /-- XOR (R200). Bitwise XOR. -/
  | vxor (d : VR) (a : VR) (b : B8) (p : PR)
  /-- ANDN (R200). a AND NOT c. -/
  | andn (d : VR) (a : VR) (b : B8) (p : PR)
  /-- SHL (R200). Shift left by c[4:0]. -/
  | shl (d : VR) (a : VR) (b : B8) (p : PR)
  /-- SHR (R200). Logical shift right by c[4:0]. -/
  | shr (d : VR) (a : VR) (b : B8) (p : PR)
  /-- SAR (R200). Arithmetic shift right by c[4:0]. -/
  | sar (d : VR) (a : VR) (b : B8) (p : PR)
  /-- IADDI (R201). Adds the sign-extended imm8. -/
  | iaddi (d : VR) (a : VR) (imm : B8) (p : PR)
  /-- ANDI (R201). ANDs with the zero-extended imm8. -/
  | andi (d : VR) (a : VR) (imm : B8) (p : PR)
  /-- SHLI (R201). Shift left by an immediate amount. -/
  | shli (d : VR) (a : VR) (n : BitVec 5) (p : PR)
  /-- SHRI (R201). Logical shift right by an immediate amount. -/
  | shri (d : VR) (a : VR) (n : BitVec 5) (p : PR)
  /-- SARI (R201). Arithmetic shift right by an immediate amount. -/
  | sari (d : VR) (a : VR) (n : BitVec 5) (p : PR)
  /-- ROTRI (R201). Rotate right by an immediate amount. -/
  | rotri (d : VR) (a : VR) (n : BitVec 5) (p : PR)
  /-- POPC (R201). Counts set bits. -/
  | popc (d : VR) (a : VR) (p : PR)
  /-- CLZ (R201). Counts leading zeros. -/
  | clz (d : VR) (a : VR) (p : PR)
  /-- CTZ (R201). Counts trailing zeros. -/
  | ctz (d : VR) (a : VR) (p : PR)
  /-- BREV (R201). Reverses bit order. -/
  | brev (d : VR) (a : VR) (p : PR)
  /-- IABS (R201). Wrapping absolute value. -/
  | iabs (d : VR) (a : VR) (p : PR)
  /-- INEG (R201). Wrapping negation. -/
  | ineg (d : VR) (a : VR) (p : PR)
  /-- BSWAP (R201). Reverses byte order. -/
  | bswap (d : VR) (a : VR) (p : PR)
  /-- BFE (R200). Extracts a bit field, zero- or sign-extended. -/
  | bfe (d : VR) (a : VR) (b : B8) (p : PR)
  /-- BFI (R200). Inserts a bit field into vd. -/
  | bfi (d : VR) (a : VR) (b : B8) (p : PR)
  /-- IDOT4 (R200). Four-way signed byte dot product added to vd. -/
  | idot4 (d : VR) (a : VR) (b : B8) (p : PR)
  /-- VWRI (R206). Writes vd into the register named by a per-lane index. -/
  | vwri (d : VR) (a : VR) (imm : B8) (p : PR)
  /-- ICMP (R197). Integer compare under cond4 writing predicate pd. -/
  | icmp (d : PR) (c : BX) (a : VR) (b : B8) (p : PR)
  /-- SEL (R202). Selects va or the second source per lane by the pr predicate. -/
  | sel (d : VR) (a : VR) (b : B8) (p : PR)
  /-- PAND (R203). Predicate AND. -/
  | pand (d : PR) (a : PR) (b : PR) (p : PR)
  /-- POR (R203). Predicate OR. -/
  | por (d : PR) (a : PR) (b : PR) (p : PR)
  /-- PXOR (R203). Predicate XOR. -/
  | pxor (d : PR) (a : PR) (b : PR) (p : PR)
  /-- PNOT (R203). Predicate NOT. -/
  | pnot (d : PR) (a : PR) (p : PR)
  /-- PMOV (R203). Predicate copy. -/
  | pmov (d : PR) (a : PR) (p : PR)
  /-- PSET (R203). Sets a predicate true. -/
  | pset (d : PR) (p : PR)
  /-- PCLR (R203). Sets a predicate false. -/
  | pclr (d : PR) (p : PR)
  /-- PLEADER (R203). Sets pd only in the lowest lane of Active where pa holds. -/
  | pleader (d : PR) (a : PR) (p : PR)
  /-- VMOV (R204). Moves the second source into vd. -/
  | vmov (d : VR) (b : B8) (p : PR)
  /-- VSHFL (R204). Reads va from another lane selected per lane. -/
  | vshfl (d : VR) (a : VR) (b : B8) (p : PR)
  /-- LANEID (R205). Writes the lane index. -/
  | laneid (d : VR) (p : PR)
  /-- RED_ADD (R205). Integer sum of va over Active. -/
  | redAdd (d : VR) (a : VR) (p : PR)
  /-- RED_FADD (R141). Float sum of va over Active in the fixed pairwise tree. -/
  | redFadd (d : VR) (a : VR) (p : PR)
  /-- RED_MIN (R205). Minimum of va over Active, signed, unsigned or float by aux3. -/
  | redMin (d : VR) (a : VR) (x : PR) (p : PR)
  /-- RED_MAX (R205). Maximum of va over Active, signed, unsigned or float by aux3. -/
  | redMax (d : VR) (a : VR) (x : PR) (p : PR)
  /-- SCAN_ADD (R205). Inclusive or exclusive prefix sum over Active. -/
  | scanAdd (d : VR) (a : VR) (x : PR) (p : PR)
  /-- BALLOT (R205). Mask of Active lanes with non-zero va, low or high half. -/
  | ballot (d : VR) (a : VR) (x : PR) (p : PR)
  /-- BCAST (R205). Broadcasts the leader lane's va. -/
  | bcast (d : VR) (a : VR) (p : PR)
  /-- VRDI (R206). Reads the register named by a per-lane index into vd. -/
  | vrdi (d : VR) (a : VR) (imm : B8) (p : PR)
  /-- LDB (R208). Weak byte load, zero-extended. -/
  | ldb (t : VR) (b : BX) (imm : VR) (o : BX) (p : PR)
  /-- LDSB (R208). Weak byte load, sign-extended. -/
  | ldsb (t : VR) (b : BX) (imm : VR) (o : BX) (p : PR)
  /-- LDH (R208). Weak half load, zero-extended. -/
  | ldh (t : VR) (b : BX) (imm : VR) (o : BX) (p : PR)
  /-- LDSH (R208). Weak half load, sign-extended. -/
  | ldsh (t : VR) (b : BX) (imm : VR) (o : BX) (p : PR)
  /-- LDW (R208). Weak word load. -/
  | ldw (t : VR) (b : BX) (imm : VR) (o : BX) (p : PR)
  /-- LDW2 (R208). Weak 8-byte load into two registers. -/
  | ldw2 (t : VR) (b : BX) (imm : VR) (o : BX) (p : PR)
  /-- LDW4 (R208). Weak 16-byte load into four registers. -/
  | ldw4 (t : VR) (b : BX) (imm : VR) (o : BX) (p : PR)
  /-- STB (R208). Weak byte store. -/
  | stb (t : VR) (b : BX) (imm : VR) (o : BX) (p : PR)
  /-- STH (R208). Weak half store. -/
  | sth (t : VR) (b : BX) (imm : VR) (o : BX) (p : PR)
  /-- STW (R208). Weak word store. -/
  | stw (t : VR) (b : BX) (imm : VR) (o : BX) (p : PR)
  /-- STW2 (R208). Weak 8-byte store from two registers. -/
  | stw2 (t : VR) (b : BX) (imm : VR) (o : BX) (p : PR)
  /-- STW4 (R208). Weak 16-byte store from four registers. -/
  | stw4 (t : VR) (b : BX) (imm : VR) (o : BX) (p : PR)
  /-- AADD (R211). Strong atomic add at the home. -/
  | aadd (t : VR) (b : BX) (imm : VR) (s : PR) (x : BitVec 1) (p : PR)
  /-- AIMIN (R211). Strong atomic signed minimum. -/
  | aimin (t : VR) (b : BX) (imm : VR) (s : PR) (x : BitVec 1) (p : PR)
  /-- AIMAX (R211). Strong atomic signed maximum. -/
  | aimax (t : VR) (b : BX) (imm : VR) (s : PR) (x : BitVec 1) (p : PR)
  /-- AUMIN (R211). Strong atomic unsigned minimum. -/
  | aumin (t : VR) (b : BX) (imm : VR) (s : PR) (x : BitVec 1) (p : PR)
  /-- AUMAX (R211). Strong atomic unsigned maximum. -/
  | aumax (t : VR) (b : BX) (imm : VR) (s : PR) (x : BitVec 1) (p : PR)
  /-- AAND (R211). Strong atomic AND. -/
  | aand (t : VR) (b : BX) (imm : VR) (s : PR) (x : BitVec 1) (p : PR)
  /-- AOR (R211). Strong atomic OR. -/
  | aor (t : VR) (b : BX) (imm : VR) (s : PR) (x : BitVec 1) (p : PR)
  /-- AXOR (R211). Strong atomic XOR. -/
  | axor (t : VR) (b : BX) (imm : VR) (s : PR) (x : BitVec 1) (p : PR)
  /-- AXCH (R211). Strong atomic exchange. -/
  | axch (t : VR) (b : BX) (imm : VR) (s : PR) (x : BitVec 1) (p : PR)
  /-- ACAS (R211). Strong atomic compare-and-swap. -/
  | acas (t : VR) (b : BX) (imm : VR) (s : PR) (x : BitVec 1) (p : PR)
  /-- AFADD (R211). Strong atomic F32 add under RNE. -/
  | afadd (t : VR) (b : BX) (imm : VR) (s : PR) (x : BitVec 1) (p : PR)
  /-- AOR8W (R211). Strong atomic OR of a 32-byte block. -/
  | aor8w (t : VR) (b : BX) (imm : VR) (s : PR) (x : BitVec 1) (p : PR)
  /-- SLD (R213). Strong word load, acquire when x1 is set. -/
  | sld (t : VR) (b : BX) (imm : VR) (s : PR) (x : BitVec 1) (p : PR)
  /-- SST (R213). Strong word store, release when x1 is set. -/
  | sst (t : VR) (b : BX) (imm : VR) (s : PR) (x : BitVec 1) (p : PR)
  /-- FENCE (R214). Orders source-path accesses before destination-path accesses at a scope. -/
  | fence (s : PR) (a : SR) (b : SR) (k : BitVec 2)
  /-- MONITOR (R216). Arms the wave's watch entry on a doubleword with a comparison. -/
  | monitor (d : SR) (a : SR) (b : BX) (c : BitVec 5)
  /-- MWAIT (R217). Waits for the watch entry to be flagged or another wake-up and writes the reason. -/
  | mwait (d : SR) (a : SR)
  /-- MCANCEL (R218). Disarms the job's watch entries on a line, waking waiters with CANCELLED. -/
  | mcancel (a : SR) (b : BX)
  /-- OTAKE (R219). Takes a ticket on a keystone key. -/
  | otake (t : VR) (k : VR) (p : PR)
  /-- OENTER (R219). Requests entry to an ordered section with a sequence number. -/
  | oenter (t : VR) (k : VR) (p : PR)
  /-- OLEAVE (R219). Leaves an ordered section, releasing it to the next number. -/
  | oleave (k : VR) (p : PR)
  /-- OTRY (R219). Enters a section only if the number is due and it is free, writing p7. -/
  | otry (t : VR) (k : VR) (p : PR)
  /-- OBASE (R219). Sets NEXTSEQ, NEXTTKT and BASE of a keystone entry. -/
  | obase (t : VR) (k : VR) (p : PR)
  /-- OCLOSE (R219). Frees a keystone entry once it has no holder or waiters. -/
  | oclose (k : VR) (p : PR)
  /-- BINIT (R222). Arms a barrier object with EXPECT and AUTO. -/
  | binit (a : VR) (x : BX) (p : PR)
  /-- BARRIVE (R222). Makes arrivals on a barrier object, optionally writing a phase token. -/
  | barrive (a : VR) (x : BX) (imm : VR) (p : PR)
  /-- BWAIT (R222). Completes when the barrier phase differs from a token. -/
  | bwait (a : VR) (x : BX) (p : PR)
  /-- BSYNC (R222). Arrives once and waits for the phase to complete. -/
  | bsync (x : BX) (p : PR)
  /-- BRARRIVE (R222). Arrives on a barrier object of another ashlar of the die. -/
  | brarrive (a : VR) (x : BX) (imm : SR) (p : PR)
  /-- BTEST (R222). Writes whether the phase passed a token, and the phase and state. -/
  | btest (a : VR) (x : BX) (p : PR)
  /-- ROPEN (R226). Opens a gathering reduction object at the result's home. -/
  | ropen (a : VR) (o : PR) (p : PR)
  /-- RCONTRIB (R226). Contributes the leader's value to a reduction object. -/
  | rcontrib (a : VR) (p : PR)
  /-- RCLOSE (R226). Completes a reduction object early. -/
  | rclose (a : VR) (p : PR)
  /-- SADD (R173). Scalar 64-bit add. -/
  | sadd (d : SR) (a : SR) (b : B8)
  /-- SSUB (R173). Scalar subtract. -/
  | ssub (d : SR) (a : SR) (b : B8)
  /-- SMUL (R173). Scalar multiply, low 64 bits. -/
  | smul (d : SR) (a : SR) (b : B8)
  /-- SMULHI (R173). Scalar signed multiply, high 64 bits. -/
  | smulhi (d : SR) (a : SR) (b : B8)
  /-- SUMULHI (R173). Scalar unsigned multiply, high 64 bits. -/
  | sumulhi (d : SR) (a : SR) (b : B8)
  /-- SAND (R173). Scalar AND. -/
  | sand (d : SR) (a : SR) (b : B8)
  /-- SOR (R173). Scalar OR. -/
  | sor (d : SR) (a : SR) (b : B8)
  /-- SXOR (R173). Scalar XOR. -/
  | sxor (d : SR) (a : SR) (b : B8)
  /-- SANDN (R173). Scalar a AND NOT b. -/
  | sandn (d : SR) (a : SR) (b : B8)
  /-- SSHL (R173). Scalar shift left. -/
  | sshl (d : SR) (a : SR) (b : B8)
  /-- SSHR (R173). Scalar logical shift right. -/
  | sshr (d : SR) (a : SR) (b : B8)
  /-- SSAR (R173). Scalar arithmetic shift right. -/
  | ssar (d : SR) (a : SR) (b : B8)
  /-- SMIN (R173). Scalar signed minimum. -/
  | smin (d : SR) (a : SR) (b : B8)
  /-- SMAX (R173). Scalar signed maximum. -/
  | smax (d : SR) (a : SR) (b : B8)
  /-- SUMIN (R173). Scalar unsigned minimum. -/
  | sumin (d : SR) (a : SR) (b : B8)
  /-- SUMAX (R173). Scalar unsigned maximum. -/
  | sumax (d : SR) (a : SR) (b : B8)
  /-- SMOV (R173). Scalar move of SS. -/
  | smov (d : SR) (b : B8)
  /-- SNOT (R173). Scalar NOT of SS. -/
  | snot (d : SR) (b : B8)
  /-- SCLZ (R173). Scalar count of leading zeros. -/
  | sclz (d : SR) (b : B8)
  /-- SCTZ (R173). Scalar count of trailing zeros. -/
  | sctz (d : SR) (b : B8)
  /-- SPOPC (R173). Scalar count of set bits. -/
  | spopc (d : SR) (b : B8)
  /-- SBFE (R173). Scalar bit-field extract. -/
  | sbfe (d : SR) (a : SR) (b : B8)
  /-- SSEXT32 (R173). Sign-extends the low 32 bits of SS. -/
  | ssext32 (d : SR) (b : B8)
  /-- SZEXT32 (R173). Zero-extends the low 32 bits of SS. -/
  | szext32 (d : SR) (b : B8)
  /-- SDIV (R174). Signed 64-bit division, variable latency. -/
  | sdiv (d : SR) (a : SR) (b : B8)
  /-- SDIVU (R174). Unsigned 64-bit division. -/
  | sdivu (d : SR) (a : SR) (b : B8)
  /-- SREM (R174). Signed 64-bit remainder. -/
  | srem (d : SR) (a : SR) (b : B8)
  /-- SREMU (R174). Unsigned 64-bit remainder. -/
  | sremu (d : SR) (a : SR) (b : B8)
  /-- SEQ (R173). Scalar equality test. -/
  | sseq (d : SR) (a : SR) (b : B8)
  /-- SNE (R173). Scalar inequality test. -/
  | sne (d : SR) (a : SR) (b : B8)
  /-- SLT (R173). Scalar signed less-than. -/
  | slt (d : SR) (a : SR) (b : B8)
  /-- SLE (R173). Scalar signed less-or-equal. -/
  | sle (d : SR) (a : SR) (b : B8)
  /-- SLTU (R173). Scalar unsigned less-than. -/
  | sltu (d : SR) (a : SR) (b : B8)
  /-- SLEU (R173). Scalar unsigned less-or-equal. -/
  | sleu (d : SR) (a : SR) (b : B8)
  /-- SSEL (R173). Scalar select by the old value of sd. -/
  | ssel (d : SR) (a : SR) (b : B8)
  /-- SLDW (R178). Weak scalar word load. -/
  | sldw (d : SR) (a : SR) (b : BX) (imm : BitVec 5)
  /-- SLDD (R178). Weak scalar doubleword load. -/
  | sldd (d : SR) (a : SR) (b : BX) (imm : BitVec 5)
  /-- SSTW (R178). Weak scalar word store. -/
  | sstw (d : SR) (a : SR) (b : BX) (imm : BitVec 5)
  /-- SSTD (R178). Weak scalar doubleword store. -/
  | sstd (d : SR) (a : SR) (b : BX) (imm : BitVec 5)
  /-- SLDWA (R179). Strong scalar word load, acquire at device scope. -/
  | sldwa (d : SR) (a : SR) (b : BX) (imm : BitVec 5)
  /-- SSTDR (R179). Strong scalar doubleword store, release at device scope. -/
  | sstdr (d : SR) (a : SR) (b : BX) (imm : BitVec 5)
  /-- SGET (R177). Reads a special register into a scalar. -/
  | sget (d : SR) (n : B8)
  /-- SSET (R177). Writes a scalar to a special register at clause end. -/
  | sset (a : SR) (n : B8)
  /-- SREADV (R177). Reads one lane of a vector register into a scalar. -/
  | sreadv (d : SR) (a : SR) (v : B8)
  /-- SREADP (R177). Reads a predicate of every lane as a mask. -/
  | sreadp (d : SR) (n : B8)
  /-- SFADD (R175). Scalar F32 add. -/
  | sfadd (d : SR) (a : SR) (b : B8)
  /-- SFSUB (R175). Scalar F32 subtract. -/
  | sfsub (d : SR) (a : SR) (b : B8)
  /-- SFMUL (R175). Scalar F32 multiply. -/
  | sfmul (d : SR) (a : SR) (b : B8)
  /-- SFFMA (R175). Scalar F32 fused multiply-add into sd. -/
  | sffma (d : SR) (a : SR) (b : B8)
  /-- SFMIN (R175). Scalar F32 minimumNumber. -/
  | sfmin (d : SR) (a : SR) (b : B8)
  /-- SFMAX (R175). Scalar F32 maximumNumber. -/
  | sfmax (d : SR) (a : SR) (b : B8)
  /-- SFCVTFI (R175). Scalar F32 to I32 conversion. -/
  | sfcvtfi (d : SR) (b : B8)
  /-- SFCVTIF (R175). Scalar I32 to F32 conversion. -/
  | sfcvtif (d : SR) (b : B8)
  /-- SFLT (R175). Scalar F32 less-than test. -/
  | sflt (d : SR) (a : SR) (b : B8)
  /-- SFEQ (R175). Scalar F32 equality test. -/
  | sfeq (d : SR) (a : SR) (b : B8)
  /-- SFRCP (R175). Scalar F32 reciprocal. -/
  | sfrcp (d : SR) (b : B8)
  /-- SBYTE (R176). Shifts sd left 8 and ORs in a byte. -/
  | sbyte (d : SR) (b : B8)
  /-- MLDW (R233). Queues a plane image load into the shadow plane. -/
  | mldw (a : VR) (p : PR)
  /-- MSWAP (R236). Queues an exchange of the active and shadow planes. -/
  | mswap (p : PR)
  /-- MSTREAM (R237). Queues a matrix stream described by a parameter block. -/
  | mstream (a : VR) (p : PR)
  /-- MDRAIN (R238). Completes when every earlier matrix command of the wave has completed. -/
  | mdrain (p : PR)
  /-- CPLOAD (R241). Async copy of a tensor box from global memory to scratch. -/
  | cpload (a : VR) (p : PR)
  /-- CPLOADM (R244). Multicast async copy of a box to several ashlars' scratch. -/
  | cploadm (a : VR) (p : PR)
  /-- CPSTORE (R241). Async copy of a box from scratch to global memory. -/
  | cpstore (a : VR) (p : PR)
  /-- CPGATH (R241). Async gather of indexed rows into scratch. -/
  | cpgath (a : VR) (p : PR)
  /-- CPSCAT (R241). Async scatter of scratch rows to indexed rows. -/
  | cpscat (a : VR) (p : PR)
  /-- CPCOMMIT (R243). Closes the open copy batch. -/
  | cpcommit (p : PR)
  /-- CPWAIT (R243). Closes the batch and waits until at most n closed batches are outstanding. -/
  | cpwait (n : VR) (p : PR)
  /-- QAPPEND (R249). Each active lane appends records on an output edge. -/
  | qappend (a : VR) (e : PR) (c : BX) (p : PR)
  /-- QAPPENDL (R249). The leader appends records read from scratch. -/
  | qappendl (a : VR) (e : PR) (c : BX) (p : PR)
  /-- QRSV (R250). Asks all-or-nothing for more reserved slots on an edge. -/
  | qrsv (a : VR) (e : PR) (n : B8) (p : PR)
  /-- QFLUSH (R250). Returns the remaining reservation on an edge. -/
  | qflush (e : PR) (p : PR)
  /-- QLEFT (R250). Writes the remaining reservation on an edge. -/
  | qleft (a : VR) (e : PR) (p : PR)
  /-- GLAUNCH (R251). Launches a graph run of a run descriptor into the current phase. -/
  | glaunch (a : VR) (p : PR)
  /-- GCANCEL (R251). Cancels the live run of a run descriptor. -/
  | gcancel (a : VR) (p : PR)
  /-- GSTATUS (R251). Writes the state and completion counter of a descriptor's run. -/
  | gstatus (a : VR) (p : PR)
  /-- BRA (R181). Branches the active lanes by displacement under their predicate. -/
  | bra (d : B8) (p : PR)
  /-- BRA_Z (R181). Branches when the scalar is zero. -/
  | braZ (d : B8) (s : SR) (p : PR)
  /-- BRA_NZ (R181). Branches when the scalar is non-zero. -/
  | braNz (d : B8) (s : SR) (p : PR)
  /-- BRA_LT (R181). Branches when the scalar is negative. -/
  | braLt (d : B8) (s : SR) (p : PR)
  /-- BRA_GE (R181). Branches when the scalar is not negative. -/
  | braGe (d : B8) (s : SR) (p : PR)
  /-- BRK (R182). Moves the active lanes to the target in a k register. -/
  | brk (k : SR) (p : PR)
  /-- JMPV (R182). Moves each active lane to its own per-lane target. -/
  | jmpv (a : VR) (p : PR)
  /-- CALL (R183). Calls by displacement, linking into a vector register after the budget check. -/
  | callDisp (d : B8) (a : VR) (p : PR)
  /-- CALLK (R183). Calls the target in a k register. -/
  | callk (k : SR) (a : VR) (p : PR)
  /-- ICALL (R183). Calls a per-lane target, requiring FDECL. -/
  | icall (a : VR) (p : PR)
  /-- RET (R183). Returns each lane to its link address. -/
  | retLink (a : VR) (p : PR)
  /-- MARK (R186). Pushes a divergence stack entry with a rejoin address. -/
  | markPush (d : B8)
  /-- ENROL (R187). Adds the subgroup's lanes to a rejoin mask. -/
  | enrol (j : PR)
  /-- REJOIN (R187). Parks arriving lanes until the rejoin mask's release. -/
  | rejoin (j : PR)
  /-- STRIKE (R187). Removes the issuing lanes from a rejoin mask. -/
  | strike (j : PR)
  /-- JCLR (R187). Clears a rejoin mask without releasing anyone. -/
  | jclr (j : PR)
  /-- SBWAIT (R188). Parks the subgroup until the named scoreboards are zero. -/
  | sbwait (m : SR)
  /-- FDECL (R185). Declares a function's register count; no effect when executed. -/
  | fdecl (n : B8)
  /-- VFPUSH (R252). Pushes 64 bytes of a vector register into the vertical FIFO. -/
  | vfpush (a : VR) (x : BX) (p : PR)
  /-- VFPOP (R252). Waits for and pops the oldest available FIFO entry into eight scalars. -/
  | vfpop (d : SR)
  /-- VFFREE (R252). Writes the FIFO's free-slot count. -/
  | vffree (d : SR)
  /-- QPUSH (R246). Appends a 256-byte scratch row to a queue register. -/
  | qpush (a : VR) (q : BX) (p : PR)
  /-- QPOP (R246). Waits for and removes a queue-register row into lanes. -/
  | qpop (a : VR) (q : BX) (x : BitVec 2) (p : PR)
  /-- QPEEK (R246). Reads a queue-register row into lanes, leaving it. -/
  | qpeek (a : VR) (q : BX) (x : BitVec 2) (p : PR)
  /-- QLEVEL (R246). Writes the number of rows held. -/
  | qlevel (a : VR) (q : BX) (p : PR)
  /-- TREQ (R255). Requests or withdraws a die-to-die link split. -/
  | treq (d : SR) (a : SR)
  /-- TSTAT (R255). Writes %linkstat into a scalar. -/
  | tstat (d : SR)
  /-- PHINT (R258). Sets the energy class the wave counts. -/
  | phint (c : BitVec 2)
  /-- PGATE (R259). Requests gating of a die layer and writes the result. -/
  | pgate (d : SR) (a : SR)
  /-- PUNGATE (R259). Requests ungating of a die layer and writes the result. -/
  | pungate (d : SR) (a : SR)
  /-- PVF (R261). Queues a course V/F point request to Plumb. -/
  | pvf (d : SR) (a : SR)
  /-- TRAPI (R320). Raises TRAP with a code in every lane of the subgroup. -/
  | trapi (c : B8)
  /-- TPRED (R320). Writes the latest delivery's fault lane mask into a predicate. -/
  | tpred (d : PR) (p : PR)
  /-- PREF (R166). Prefetches a line into L1 or the home's cache ways, never faulting. -/
  | pref (l : BitVec 2) (n : SR)
  /-- CLOCK (R166). Writes %clock or %time into a scalar. -/
  | clock (s : BitVec 2) (n : SR)
  /-- SLEEP (R166). Parks the subgroup for imm8 times 64 cycles. -/
  | sleep (c : B8)
  /-- BRKPT (R166). Parks the wave and reports a code through Plumb when debugging is enabled. -/
  | brkpt (c : B8)
  /-- JOIN (R186). Parks lanes until the top entry's mask is complete, then releases them. -/
  | joinLanes
  /-- REFORM (R42). Files the subgroup's lanes into REFORM bins keyed by the next clause. -/
  | reform
  /-- EXIT (R45). Retires the issuing lanes, or a control thread. -/
  | exitLanes
  /-- YIELD (R188). Ranks the wave as though its clause had Y set. -/
  | yield
  /-- RETRY (R320). Returns from a handler, re-issuing the faulting word. -/
  | tretRetry
  /-- ADVANCE (R320). Returns from a handler at the resume point. -/
  | tretAdvance
  /-- SKIPLANES (R320). Returns from a handler, fault lanes at the resume point and others retrying. -/
  | tretSkiplanes
  /-- NOP (R166). No effect. -/
  | nop
  /-- SLEEP_END (R166). The SLEEP count expires and the subgroup becomes runnable. Operands in State.evt: w : Nat; lanes : Mask; -/
  | sleepEnd
  /-- RESULT_ARRIVAL (R153). A variable-latency result or completion arrives, writing registers and decrementing the scoreboard. Operands in State.evt: w op : Nat; lanes : Mask; -/
  | resultArrival
  /-- FAULT_ROUTING (R314). A parked fault set is routed to the handler, system service or unserviced. Operands in State.evt: w : Nat; -/
  | faultRouting
  /-- WATCHDOG (R319). A lane's wait reaches 100 ms and it raises WATCHDOG. Operands in State.evt: w : Nat; lanes : Mask; -/
  | watchdog
  /-- FSVCREPLY_RESUME (R321). System software answers a service ticket with resume; the wave becomes eligible and retries. Operands in State.evt: slot ticket : Nat; -/
  | fsvcreplyResume
  /-- FSVCREPLY_KILL (R321). System software answers a service ticket with kill; the fault becomes unserviced. Operands in State.evt: slot ticket : Nat; -/
  | fsvcreplyKill
  /-- RECORD_ARRIVAL (R249). Appended records are performed into their reserved queue instance. Operands in State.evt: r : Nat; -/
  | recordArrival
  /-- BATCHAGE_EXPIRY (R33). The oldest record has waited BATCHAGE µs and a partial wave is formed. Operands in State.evt: run node die : Nat; -/
  | batchageExpiry
  /-- PLACEMENT (R58). A die's scheduler decision places one eligible wave or thread on an ashlar with its reservations. Operands in State.evt: die : Nat; -/
  | placement
  /-- RT_WINDOW_START (R58). A new 100 µs real-time window begins on both dies. -/
  | rtWindowStart
  /-- REFORM_BIN_CLOSE (R43). A REFORM bin reaching its age closes into a new wave. Operands in State.evt: ashlar bin : Nat; -/
  | reformBinClose
  /-- WAVE_RETIREMENT (R45). A draining wave's copies, stores and matrix commands are done and it frees its resources. Operands in State.evt: w : Nat; -/
  | waveRetirement
  /-- DRAINING_STREAM_TIMEOUT (R45). A draining wave's stream held 100 ms is stopped and the run ends as WATCHDOG. Operands in State.evt: w : Nat; -/
  | drainingStreamTimeout
  /-- RUN_COMPLETION (R46). A run's counter reaches zero with roots fed; the device writes back L1 and posts its event record. Operands in State.evt: run : Nat; -/
  | runCompletion
  /-- PHASE_START (R289). The next phase reads its phase-list entry and launches its runs. Operands in State.evt: slot : Nat; -/
  | phaseStart
  /-- RUN_LAUNCH (R251). The scheduler reads and checks a run descriptor and starts the run. Operands in State.evt: launch : Nat; dies : Mask; -/
  | runLaunch
  /-- LANE_KILL (R49). A cancelled run's lanes are killed at their wave's next clause boundary. Operands in State.evt: w : Nat; -/
  | laneKill
  /-- ROOT_QUEUE_BIND (R53). The root node reads the next job record and binds it to a slot. -/
  | rootQueueBind
  /-- SPILL_TIMEOUT (R64). A run stalled for its spill timeout spills batches to its spill area. Operands in State.evt: run : Nat; -/
  | spillTimeout
  /-- SPLIT_CHANGE (R71). A marked scratch/L1 split change completes and the new split is set. Operands in State.evt: ashlar : Nat; -/
  | splitChange
  /-- WAIT_SAVE_TIMEOUT (R73). An MWAIT or OENTER wait passes 50 µs and the wave's save is requested or retried. Operands in State.evt: w : Nat; -/
  | waitSaveTimeout
  /-- CONTEXT_SAVE (R73). A wave's context is saved to the queue ways and its ashlar resources freed. Operands in State.evt: w : Nat; -/
  | contextSave
  /-- CONTEXT_RESTORE (R52). A saved wave is restored on an ashlar of its die. Operands in State.evt: w ashlar : Nat; -/
  | contextRestore
  /-- MEMORY_PACKET (R21). A home slice receives a memory packet and performs accesses in sequence order. Operands in State.evt: r : Nat; -/
  | memoryPacket
  /-- PAGE_WALK (R81). The die's walker translates a page, setting A and D by compare-and-set. Operands in State.evt: r : Nat; -/
  | pageWalk
  /-- SHORT_STORE_WAIT_END (R97). A short-lived store waiting for a full set proceeds when a line expires. Operands in State.evt: r : Nat; -/
  | shortStoreWaitEnd
  /-- PROMOTION_REQUEST (R107). A marked ashlar writes back its L1, awaits its stores and replies. Operands in State.evt: line kind : Nat; -/
  | promotionRequest
  /-- PROMOTION_REPLY (R107). The home clears the mark and performs the waiting acquire read. Operands in State.evt: line kind : Nat; -/
  | promotionReply
  /-- MWAIT_TIMEOUT (R114). An MWAIT deadline passes and it returns TIMEOUT. Operands in State.evt: w : Nat; -/
  | mwaitTimeout
  /-- KEYSTONE_REQUEST (R116). The key's home performs an ordered-section request and grants waiters. Operands in State.evt: r : Nat; -/
  | keystoneRequest
  /-- SECTION_STALL (R357). A keystone entry unchanged for 1 ms with waiters posts KIND 4. Operands in State.evt: run : Nat; key : DWord; -/
  | sectionStall
  /-- BARRIER_REQUEST (R221). An ashlar performs a request or arrival at a barrier object. Operands in State.evt: r : Nat; -/
  | barrierRequest
  /-- REDUCTION_REQUEST (R226). The result's home performs a reduction request and completes the object. Operands in State.evt: r : Nat; -/
  | reductionRequest
  /-- ENGINE_COMMAND_ARRIVAL (R228). A command reaches its engine queue 4 cycles after issue. Operands in State.evt: r : Nat; -/
  | engineCommandArrival
  /-- MLDW_FINISH (R236). An MLDW finishes writing the shadow plane. Operands in State.evt: ashlar : Nat; -/
  | mldwFinish
  /-- MSWAP_EFFECT (R236). A pending MSWAP takes effect at a stream boundary. Operands in State.evt: ashlar : Nat; -/
  | mswapEffect
  /-- STREAM_START (R236). An MSTREAM begins its first pass once earlier commands allow. Operands in State.evt: ashlar : Nat; -/
  | streamStart
  /-- MATRIX_ROW_FINISH (R237). A stream row is finished and written or pushed; the last completes the stream. Operands in State.evt: ashlar : Nat; -/
  | matrixRowFinish
  /-- COPY_COMPLETION (R242). An async copy ends and posts its completion record and barrier arrival. Operands in State.evt: r : Nat; -/
  | copyCompletion
  /-- MULTICAST_DELIVERY (R244). A multicast tile reaches a receiver, which accepts or refuses it. Operands in State.evt: r receiver : Nat; -/
  | multicastDelivery
  /-- VFIFO_ENTRY_AVAILABLE (R252). A pushed entry becomes available at the C-layer. Operands in State.evt: ashlar : Nat; -/
  | vfifoEntryAvailable
  /-- VFIFO_BEAT_FAIL (R361). A FIFO beat fails its check and the bus stops for repair. Operands in State.evt: ashlar wire : Nat; -/
  | vfifoBeatFail
  /-- VFIFO_REPAIR_COMPLETE (R361). The failing wire is mapped to a spare and beats are replayed. Operands in State.evt: ashlar : Nat; -/
  | vfifoRepairComplete
  /-- LINK_TURN_END (R257). A lane group finishes its turn and the next turn begins. Operands in State.evt: retrained : Bool; -/
  | linkTurnEnd
  /-- LEASE_TIMEOUT (R256). A link lease reaches 1 ms and ends. -/
  | leaseTimeout
  /-- FLIT_RECEIVE (R359). A flit arrives, is CRC-checked and its messages delivered once in order. Operands in State.evt: group : Nat; crcOk : Bool; -/
  | flitReceive
  /-- LINK_RECALIBRATION (R307). Plumb starts recalibrating a lane group every 10 ms. Operands in State.evt: group : Nat; -/
  | linkRecalibration
  /-- RECALIBRATION_END (R307). A group's 180 ns recalibration ends. Operands in State.evt: retrained : Bool; -/
  | recalibrationEnd
  /-- DIE_PARK_COMPLETE (R259). A gated die's saves and write-back are done and %parkcount rises. Operands in State.evt: die : Nat; -/
  | dieParkComplete
  /-- RAIL_OFF (R306). A gated rail switches off 60 ns after the park completes. Operands in State.evt: die layer : Nat; -/
  | railOff
  /-- RAIL_READY (R306). An ungated rail is ready 500 ns after PUNGATE and restores begin. Operands in State.evt: die layer : Nat; -/
  | railReady
  /-- SLICE_LEAVE (R351). A slice finishes moving its work and leaves the live set. Operands in State.evt: slice : Nat; -/
  | sliceLeave
  /-- SLICE_JOIN (R351). A slice rejoins the live set with lines moving back. Operands in State.evt: slice : Nat; -/
  | sliceJoin
  /-- BANK_RETIREMENT (R349). Plumb retires a bank for errors or temperature. Operands in State.evt: slice bank : Nat; thermal : Bool; -/
  | bankRetirement
  /-- GAIN_CELL_REFRESH (R307). A refreshed way's lines are refreshed on schedule. Operands in State.evt: slice : Nat; -/
  | gainCellRefresh
  /-- PATROL_SCRUB (R307). Patrol scrub checks and rewrites corrected lines. Operands in State.evt: line : Nat; result : ScrubResult; -/
  | patrolScrub
  /-- PLUMB_TICK (R303). Every 10 µs Plumb publishes budgets, senses temperature and applies point changes and limits. -/
  | plumbTick
  /-- VF_CHANGE_COMPLETE (R303). A course point change finishes its ramp and clock switch. Operands in State.evt: course : Nat; -/
  | vfChangeComplete
  /-- RETENTION_ENTRY (R305). An ashlar idle 20 µs at a low point enters retention. Operands in State.evt: ashlar : Nat; -/
  | retentionEntry
  /-- HARDWARE_TRIP (R368). Junction at 125 °C or undervoltage switches the core rails off without save. -/
  | hardwareTrip
  /-- HEARTBEAT_MISS (R368). Plumb misses its heartbeat for 100 ms and a warm reset follows. -/
  | heartbeatMiss
  /-- WARM_RESET (R369). Ends every job, keeps cornerstone records and HBM, and boots. -/
  | warmReset
  /-- POWER_ON_RESET (R369). Resets everything including the cornerstone records. -/
  | powerOnReset
  /-- BOOT (R300). The ROM verifies and loads the flash image, setting STATE 2 or 3. -/
  | bootImage
  /-- FLASH_READ_TIMEOUT (R365). A boot flash read over 100 ms fails the boot. -/
  | flashReadTimeout
  /-- SETVF (R301). Mailbox command queuing a course point request. -/
  | setvf
  /-- SETCAP (R301). Mailbox command setting the power cap. -/
  | setcap
  /-- MEASURE (R302). Mailbox command extending M with the SM3 of a job's bytes. -/
  | measure
  /-- QUOTE (R302). Mailbox command writing a signed quote of the measurements. -/
  | quote
  /-- TELEMETRY (R301). Mailbox command writing power, temperature and error counters. -/
  | telemetry
  /-- FLASH_READ (R366). Copies a flash range to the flash window. -/
  | flashRead
  /-- FLASH_PROGRAM (R366). Erases and programs a flash range from the window. -/
  | flashProgram
  /-- FLASH_REBOOT (R366). Warm resets and reboots the device. -/
  | flashReboot
  /-- CORNERREAD (R373). Copies cornerstone entries of a die to a host buffer. -/
  | cornerread
  /-- MAILBOX_COMPLETION (R301). Plumb writes RESULT, clears DOORBELL and sends vector 65. -/
  | mailboxCompletion
  /-- RQTAIL_WRITE (R297). Host write of the root tail releasing records, or overrun or withdrawal. Operands in State.evt: v : DWord; -/
  | rqtailWrite
  /-- RQBASE_WRITE (R297). Sets the root queue base, zeroing HEAD and TAIL and clearing ERR. Operands in State.evt: v : DWord; -/
  | rqbaseWrite
  /-- RQSIZE_WRITE (R297). Sets the root queue size unless busy or out of range. Operands in State.evt: v : DWord; -/
  | rqsizeWrite
  /-- HOST_BAR2_ACCESS (R297). A host access through BAR2 performed at the home slices. Operands in State.evt: acc : HostAccess; -/
  | hostBar2Access
  /-- REGISTER_WRITE (R296). A write to a register with no behaviour of its own. Operands in State.evt: off : Nat; v : DWord; management : Bool; -/
  | registerWrite
  /-- SLOTCMD_PHASE (R49). Cancels the slot's current phase. Operands in State.evt: slot : Nat; -/
  | slotcmdPhase
  /-- SLOTCMD_JOB (R49). Cancels the slot's job. Operands in State.evt: slot : Nat; -/
  | slotcmdJob
  /-- INVCTL_GO (R86). Starts a TLB invalidation of an identifier or range on both dies. Operands in State.evt: v : DWord; -/
  | invctlGo
  /-- INVALIDATION_COMPLETE (R347). Every TLB has dropped the entries and holding copies have released; GO clears. -/
  | invalidationComplete
  /-- L1MODE_WRITE (R72). Starts a course L1 mode change. Operands in State.evt: course : Nat; v : DWord; -/
  | l1modeWrite
  /-- L1MODE_CHANGE_COMPLETE (R72). The course L1 shares are written back and invalidated; BUSY clears. Operands in State.evt: course : Nat; -/
  | l1modeChangeComplete
  /-- PMCSEL_WRITE (R308). Selects a counter's event and job filter. Operands in State.evt: ashlar n : Nat; v : DWord; -/
  | pmcselWrite
  /-- PMC_CLEAR (R308). Zeroes a performance counter. Operands in State.evt: ashlar n : Nat; -/
  | pmcClear
  /-- MLPART_WRITE (R93). Accepts or ignores a slice partition write and starts role changes. Operands in State.evt: die slice : Nat; v : DWord; -/
  | mlpartWrite
  /-- PARTITION_CHANGE_COMPLETE (R93). Role changes finish and BUSY clears. Operands in State.evt: die slice : Nat; -/
  | partitionChangeComplete
  /-- MLREMAP_WRITE (R95). Writing START begins a stacked-scratch remap. Operands in State.evt: die : Nat; v : DWord; -/
  | mlremapWrite
  /-- REMAP_COMPLETE (R95). The window is rebuilt and zero-filled; START clears. Operands in State.evt: die : Nat; -/
  | remapComplete
  /-- CMCFG_WRITE (R231). Configures a completion ring and zeroes its head and tail. Operands in State.evt: w m : Nat; v : DWord; -/
  | cmcfgWrite
  /-- CMHEAD_WRITE (R231). Advances a completion ring's consumer index, freeing held records. Operands in State.evt: w m : Nat; v : DWord; -/
  | cmheadWrite
  /-- LAYERGATE_REQ_WRITE (R260). A system write of REQ acts as PGATE or PUNGATE per changed bit. Operands in State.evt: die : Nat; v : DWord; -/
  | layergateReqWrite
  /-- BIN_GROUP (R268). The binning unit takes the next closed mesh group and bins it. Operands in State.evt: run node : Nat; -/
  | binGroup
  /-- VIEWPORT_CLOSE (R269). After the last group the binning unit emits one record per tile. Operands in State.evt: run node : Nat; -/
  | viewportClose
  /-- TILE_FILL (R274). A resolver takes a free tile slot and fills it. Operands in State.evt: course : Nat; -/
  | tileFill
  /-- TILE_VISIBILITY (R272). A tile's primitives are rasterised and its visibility becomes final. Operands in State.evt: course slot : Nat; -/
  | tileVisibility
  /-- CLASSIFIER_EMIT (R275). The classifier reserves slots and emits a tile's pixel records. Operands in State.evt: course slot : Nat; -/
  | classifierEmit
  /-- TILE_WRITEBACK (R274). With no record outstanding the resolver writes back WB targets and frees the slot. Operands in State.evt: course slot : Nat; -/
  | tileWriteback
  /-- RAY_BATCH (R278). A traversal unit reserves slots and takes a batch of rays. Operands in State.evt: run node die ashlar : Nat; -/
  | rayBatch
  /-- RAY_RESULT (R281). A ray's traversal ends and its hit or miss record is appended. Operands in State.evt: ashlar : Nat; -/
  | rayResult
  /-- MATRIX_NODE_BATCH (R282). A matrix node reserves slots and takes a batch of records. Operands in State.evt: run node die ashlar : Nat; -/
  | matrixNodeBatch
  /-- MATRIX_NODE_RESULT (R284). The perceptron result record for an input is appended. Operands in State.evt: ashlar : Nat; -/
  | matrixNodeResult
  /-- PACKET_ACKNOWLEDGEMENT (R21). An acknowledgement from a home slice arrives at the source, freeing one of its 64 outstanding slots to that slice and letting a held packet go. Operands in State.evt: r : Nat; -/
  | packetAcknowledgement
  /-- TURN_WAIT_END (R257). The 10 µs since a lane group's previous turn runs out, and a turn that was due and waiting for it begins. -/
  | turnWaitEnd
  /-- VOLTAGE_RAMP_END (R303). A raised course voltage finishes its ramp of up to 4 µs, and issue on the course stops for the 1 µs clock switch. Operands in State.evt: course : Nat; -/
  | voltageRampEnd
  deriving DecidableEq, Repr

end Sys2Proof
end

