-- ==== Sys2Proof/WellFormed.lean ====
section
/-! DEFINITION. The operand values a word may hold (spec 17_isa_faults.md Table 17-3, R326; 07_encoding.md
R155, R160, R165), as far as the word alone decides them. What depends on the clause (FDOT2 and CVTPK
need VT 1 or 2), on the node (VFPUSH, QPOP, QAPPEND's run) or on being executed (FDECL) is checked where
the word issues. -/

namespace Sys2Proof

/-- A destination predicate is p1 to p7 (R156). -/
def pdOk (d : PR) : Bool := d != 0

/-- A scope field names one of the six scopes (R160). -/
def scOk (s : PR) : Bool := s.toNat ≤ 5

/-- The run of n registers from r stays within v127 (R155). -/
def runOk (r : VR) (n : Nat) : Bool := r.toNat + n ≤ 128

/-- The positions and SAT values of Table 9-7 for a conversion code; aux bit 0 is SAT, bits 2..1 the
position. -/
def cvtOk (code : BitVec 5) (aux : PR) : Bool :=
  let sat := aux.getLsbD 0
  let p := aux.toNat / 2
  match code.toNat with
  | 0 | 1 => p ≤ 1
  | 2 | 3 => p ≤ 1 && !sat
  | 4 | 5 | 8 | 14 | 15 => true
  | 6 | 7 | 9 | 16 | 17 | 18 | 19 => !sat
  | 10 | 11 => p == 0
  | 12 | 13 => p == 0 && !sat
  | _ => false

/-- A special-register number that Table 7-10 reserves. -/
def reservedSpecial (n : Nat) : Bool :=
  (0x1C ≤ n && n ≤ 0x1F) || (0x22 ≤ n && n ≤ 0x2F) || (0x47 ≤ n && n ≤ 0x4F) || (0x54 ≤ n && n ≤ 0x5F)
    || (0x64 ≤ n && n ≤ 0x6F) || 0xC0 ≤ n

/-- The operand ranges of a word; every event is well formed. -/
def Instr.wellFormed : Instr → Bool
  | .fcmp d c _ _ _ => pdOk d && c.toNat ≤ 7
  | .icmp d c _ _ _ => pdOk d && c.toNat ≤ 9
  | .pand d _ _ _ | .por d _ _ _ | .pxor d _ _ _ | .pnot d _ _ | .pmov d _ _ | .pset d _ | .pclr d _
  | .pleader d _ _ | .tpred d _ => pdOk d
  | .cvt _ _ c x _ => cvtOk c x
  | .redMin _ _ x _ | .redMax _ _ x _ => x.toNat ≤ 2
  | .scanAdd _ _ x _ | .ballot _ _ x _ => x.toNat ≤ 1
  | .ldw2 t _ _ _ _ | .stw2 t _ _ _ _ => runOk t 2
  | .ldw4 t _ _ _ _ | .stw4 t _ _ _ _ => runOk t 4
  | .acas t _ _ sc _ _ => runOk t 2 && scOk sc
  | .aor8w t _ _ sc _ _ => runOk t 8 && scOk sc
  | .aadd _ _ _ sc _ _ | .aimin _ _ _ sc _ _ | .aimax _ _ _ sc _ _ | .aumin _ _ _ sc _ _
  | .aumax _ _ _ sc _ _ | .aand _ _ _ sc _ _ | .aor _ _ _ sc _ _ | .axor _ _ _ sc _ _
  | .axch _ _ _ sc _ _ | .afadd _ _ _ sc _ _ | .sld _ _ _ sc _ _ | .sst _ _ _ sc _ _ => scOk sc
  | .fence sc _ _ _ => scOk sc
  | .monitor _ _ _ c => c.toNat ≤ 4
  | .otake _ k _ | .oenter _ k _ | .otry _ k _ | .obase _ k _ => runOk k 2
  | .oleave k _ | .oclose k _ => runOk k 2
  | .barrive a _ i _ => i.getLsbD 6 || a == 0
  | .ropen a o _ => runOk a 6 && o.toNat ≤ 5
  | .rcontrib a _ => runOk a 3
  | .rclose a _ => runOk a 2
  | .sset _ n => !reservedSpecial n.toNat
  | .sreadv _ _ v => v.toNat < 128
  | .sreadp _ n => n.toNat < 8
  | .cpload a _ | .cploadm a _ | .cpstore a _ | .cpgath a _ | .cpscat a _ => runOk a 5
  | .cpwait n _ => n.toNat ≤ 15
  | .qrsv _ _ n _ => n != 0
  | .glaunch a _ | .gcancel a _ | .gstatus a _ => runOk a 2
  | .vfpop d => d.toNat ≤ 56
  | .pref l _ => l.toNat ≤ 1
  | .clock l _ => l.toNat ≤ 1
  | _ => true

end Sys2Proof
end

