-- ==== Sys2Proof/Decode.lean ====
section
/-! DEFINITION. Decoding of instruction words and clause headers, total on any 32 bits and rejecting by
name (spec 07_encoding.md R148, R155, R164, R165; 17_isa_faults.md R326), and after it the encoder. -/

namespace Sys2Proof

/-- Why 32 bits are no instruction (R165, R326). -/
inductive DecodeError where
  | reservedPrimary   -- a primary marked reserved, not assigned, or 0x7F at an instruction index
  | unassignedValue   -- a sub-operation or condition not listed
  | mustBeZero        -- a field written 0 or unused that is not zero (R155)
  | operandRange      -- an operand value of Table 17-3
  deriving DecidableEq, Repr

/-- Field of n bits at bit lo of a word. -/
def fld (w lo n : Nat) : BitVec n := BitVec.ofNat n (w / 2 ^ lo)

/-- The clause header of a word whose OPC is 0x7F and bit 0 is 0 (Table 7-1). -/
def decodeHeader (w : Nat) : Instr :=
  .clauseHeader (fld w 21 4) (fld w 18 3) (fld w 12 6) (fld w 9 3) (fld w 6 3) (fld w 4 2) (fld w 3 1) (fld w 2 1) (fld w 1 1)

/-- Primary 0x09: the sub-operation of 5 bits at bit 6 (Tables 7-5 to 7-9). -/
def decode09 (w : Nat) : Except DecodeError Instr :=
  match w / 2 ^ 6 % 2 ^ 5 with
  | 0 => if w / 2 ^ 3 % 2 ^ 3 == 0 then .ok (.rcp (fld w 18 7) (fld w 11 7) (fld w 0 3)) else .error .mustBeZero
  | 1 => if w / 2 ^ 3 % 2 ^ 3 == 0 then .ok (.rsq (fld w 18 7) (fld w 11 7) (fld w 0 3)) else .error .mustBeZero
  | 2 => if w / 2 ^ 3 % 2 ^ 3 == 0 then .ok (.sqrt (fld w 18 7) (fld w 11 7) (fld w 0 3)) else .error .mustBeZero
  | 3 => if w / 2 ^ 3 % 2 ^ 3 == 0 then .ok (.exp2 (fld w 18 7) (fld w 11 7) (fld w 0 3)) else .error .mustBeZero
  | 4 => if w / 2 ^ 3 % 2 ^ 3 == 0 then .ok (.log2 (fld w 18 7) (fld w 11 7) (fld w 0 3)) else .error .mustBeZero
  | 5 => if w / 2 ^ 3 % 2 ^ 3 == 0 then .ok (.sin (fld w 18 7) (fld w 11 7) (fld w 0 3)) else .error .mustBeZero
  | 6 => if w / 2 ^ 3 % 2 ^ 3 == 0 then .ok (.cos (fld w 18 7) (fld w 11 7) (fld w 0 3)) else .error .mustBeZero
  | 7 => if w / 2 ^ 3 % 2 ^ 3 == 0 then .ok (.tanh (fld w 18 7) (fld w 11 7) (fld w 0 3)) else .error .mustBeZero
  | _ => .error .unassignedValue

/-- Primary 0x0A: the sub-operation of 5 bits at bit 6 (Tables 7-5 to 7-9). -/
def decode0A (w : Nat) : Except DecodeError Instr :=
  match w / 2 ^ 6 % 2 ^ 5 with
  | 0 => if w / 2 ^ 3 % 2 ^ 3 == 0 then .ok (.floor (fld w 18 7) (fld w 11 7) (fld w 0 3)) else .error .mustBeZero
  | 1 => if w / 2 ^ 3 % 2 ^ 3 == 0 then .ok (.ceil (fld w 18 7) (fld w 11 7) (fld w 0 3)) else .error .mustBeZero
  | 2 => if w / 2 ^ 3 % 2 ^ 3 == 0 then .ok (.trunc (fld w 18 7) (fld w 11 7) (fld w 0 3)) else .error .mustBeZero
  | 3 => if w / 2 ^ 3 % 2 ^ 3 == 0 then .ok (.rint (fld w 18 7) (fld w 11 7) (fld w 0 3)) else .error .mustBeZero
  | 4 => if w / 2 ^ 3 % 2 ^ 3 == 0 then .ok (.fract (fld w 18 7) (fld w 11 7) (fld w 0 3)) else .error .mustBeZero
  | _ => .error .unassignedValue

/-- Primary 0x0C: the sub-operation of 5 bits at bit 6 (Tables 7-5 to 7-9). -/
def decode0C (w : Nat) : Except DecodeError Instr :=
  match w / 2 ^ 6 % 2 ^ 5 with
  | 0 => if w / 2 ^ 3 % 2 ^ 3 == 0 then .ok (.fabs (fld w 18 7) (fld w 11 7) (fld w 0 3)) else .error .mustBeZero
  | 1 => if w / 2 ^ 3 % 2 ^ 3 == 0 then .ok (.fneg (fld w 18 7) (fld w 11 7) (fld w 0 3)) else .error .mustBeZero
  | 2 => if w / 2 ^ 3 % 2 ^ 3 == 0 then .ok (.fclass (fld w 18 7) (fld w 11 7) (fld w 0 3)) else .error .mustBeZero
  | 3 => if w / 2 ^ 3 % 2 ^ 3 == 0 then .ok (.fsat (fld w 18 7) (fld w 11 7) (fld w 0 3)) else .error .mustBeZero
  | _ => .error .unassignedValue

/-- Primary 0x23: the sub-operation of 3 bits at bit 3 (Tables 7-5 to 7-9). -/
def decode23 (w : Nat) : Except DecodeError Instr :=
  match w / 2 ^ 3 % 2 ^ 3 with
  | 0 => .ok (.shli (fld w 18 7) (fld w 11 7) (fld w 6 5) (fld w 0 3))
  | 1 => .ok (.shri (fld w 18 7) (fld w 11 7) (fld w 6 5) (fld w 0 3))
  | 2 => .ok (.sari (fld w 18 7) (fld w 11 7) (fld w 6 5) (fld w 0 3))
  | 3 => .ok (.rotri (fld w 18 7) (fld w 11 7) (fld w 6 5) (fld w 0 3))
  | _ => .error .unassignedValue

/-- Primary 0x24: the sub-operation of 5 bits at bit 6 (Tables 7-5 to 7-9). -/
def decode24 (w : Nat) : Except DecodeError Instr :=
  match w / 2 ^ 6 % 2 ^ 5 with
  | 0 => if w / 2 ^ 3 % 2 ^ 3 == 0 then .ok (.popc (fld w 18 7) (fld w 11 7) (fld w 0 3)) else .error .mustBeZero
  | 1 => if w / 2 ^ 3 % 2 ^ 3 == 0 then .ok (.clz (fld w 18 7) (fld w 11 7) (fld w 0 3)) else .error .mustBeZero
  | 2 => if w / 2 ^ 3 % 2 ^ 3 == 0 then .ok (.ctz (fld w 18 7) (fld w 11 7) (fld w 0 3)) else .error .mustBeZero
  | 3 => if w / 2 ^ 3 % 2 ^ 3 == 0 then .ok (.brev (fld w 18 7) (fld w 11 7) (fld w 0 3)) else .error .mustBeZero
  | 4 => if w / 2 ^ 3 % 2 ^ 3 == 0 then .ok (.iabs (fld w 18 7) (fld w 11 7) (fld w 0 3)) else .error .mustBeZero
  | 5 => if w / 2 ^ 3 % 2 ^ 3 == 0 then .ok (.ineg (fld w 18 7) (fld w 11 7) (fld w 0 3)) else .error .mustBeZero
  | 6 => if w / 2 ^ 3 % 2 ^ 3 == 0 then .ok (.bswap (fld w 18 7) (fld w 11 7) (fld w 0 3)) else .error .mustBeZero
  | _ => .error .unassignedValue

/-- Primary 0x2B: the sub-operation of 5 bits at bit 11 (Tables 7-5 to 7-9). -/
def decode2B (w : Nat) : Except DecodeError Instr :=
  match w / 2 ^ 11 % 2 ^ 5 with
  | 0 => if w / 2 ^ 3 % 2 ^ 8 == 0 then .ok (.pand (fld w 22 3) (fld w 19 3) (fld w 16 3) (fld w 0 3)) else .error .mustBeZero
  | 1 => if w / 2 ^ 3 % 2 ^ 8 == 0 then .ok (.por (fld w 22 3) (fld w 19 3) (fld w 16 3) (fld w 0 3)) else .error .mustBeZero
  | 2 => if w / 2 ^ 3 % 2 ^ 8 == 0 then .ok (.pxor (fld w 22 3) (fld w 19 3) (fld w 16 3) (fld w 0 3)) else .error .mustBeZero
  | 3 => if w / 2 ^ 3 % 2 ^ 8 == 0 && w / 2 ^ 16 % 2 ^ 3 == 0 then .ok (.pnot (fld w 22 3) (fld w 19 3) (fld w 0 3)) else .error .mustBeZero
  | 4 => if w / 2 ^ 3 % 2 ^ 8 == 0 && w / 2 ^ 16 % 2 ^ 3 == 0 then .ok (.pmov (fld w 22 3) (fld w 19 3) (fld w 0 3)) else .error .mustBeZero
  | 5 => if w / 2 ^ 3 % 2 ^ 8 == 0 && w / 2 ^ 16 % 2 ^ 6 == 0 then .ok (.pset (fld w 22 3) (fld w 0 3)) else .error .mustBeZero
  | 6 => if w / 2 ^ 3 % 2 ^ 8 == 0 && w / 2 ^ 16 % 2 ^ 6 == 0 then .ok (.pclr (fld w 22 3) (fld w 0 3)) else .error .mustBeZero
  | 7 => if w / 2 ^ 3 % 2 ^ 8 == 0 && w / 2 ^ 16 % 2 ^ 3 == 0 then .ok (.pleader (fld w 22 3) (fld w 19 3) (fld w 0 3)) else .error .mustBeZero
  | _ => .error .unassignedValue

/-- Primary 0x2E: the sub-operation of 5 bits at bit 6 (Tables 7-5 to 7-9). -/
def decode2E (w : Nat) : Except DecodeError Instr :=
  match w / 2 ^ 6 % 2 ^ 5 with
  | 0 => if w / 2 ^ 3 % 2 ^ 3 == 0 && w / 2 ^ 11 % 2 ^ 7 == 0 then .ok (.laneid (fld w 18 7) (fld w 0 3)) else .error .mustBeZero
  | 1 => if w / 2 ^ 3 % 2 ^ 3 == 0 then .ok (.redAdd (fld w 18 7) (fld w 11 7) (fld w 0 3)) else .error .mustBeZero
  | 2 => if w / 2 ^ 3 % 2 ^ 3 == 0 then .ok (.redFadd (fld w 18 7) (fld w 11 7) (fld w 0 3)) else .error .mustBeZero
  | 3 => .ok (.redMin (fld w 18 7) (fld w 11 7) (fld w 3 3) (fld w 0 3))
  | 4 => .ok (.redMax (fld w 18 7) (fld w 11 7) (fld w 3 3) (fld w 0 3))
  | 5 => .ok (.scanAdd (fld w 18 7) (fld w 11 7) (fld w 3 3) (fld w 0 3))
  | 6 => .ok (.ballot (fld w 18 7) (fld w 11 7) (fld w 3 3) (fld w 0 3))
  | 7 => if w / 2 ^ 3 % 2 ^ 3 == 0 then .ok (.bcast (fld w 18 7) (fld w 11 7) (fld w 0 3)) else .error .mustBeZero
  | _ => .error .unassignedValue

/-- Primary 0x4B: the sub-operation of 4 bits at bit 5 (Tables 7-5 to 7-9). -/
def decode4B (w : Nat) : Except DecodeError Instr :=
  match w / 2 ^ 5 % 2 ^ 4 with
  | 0 => .ok (.monitor (fld w 19 6) (fld w 13 6) (fld w 9 4) (fld w 0 5))
  | 1 => if w / 2 ^ 0 % 2 ^ 5 == 0 && w / 2 ^ 9 % 2 ^ 4 == 0 then .ok (.mwait (fld w 19 6) (fld w 13 6)) else .error .mustBeZero
  | 2 => if w / 2 ^ 0 % 2 ^ 5 == 0 && w / 2 ^ 19 % 2 ^ 6 == 0 then .ok (.mcancel (fld w 13 6) (fld w 9 4)) else .error .mustBeZero
  | _ => .error .unassignedValue

/-- Primary 0x4C: the sub-operation of 4 bits at bit 7 (Tables 7-5 to 7-9). -/
def decode4C (w : Nat) : Except DecodeError Instr :=
  match w / 2 ^ 7 % 2 ^ 4 with
  | 0 => if w / 2 ^ 3 % 2 ^ 4 == 0 then .ok (.otake (fld w 18 7) (fld w 11 7) (fld w 0 3)) else .error .mustBeZero
  | 1 => if w / 2 ^ 3 % 2 ^ 4 == 0 then .ok (.oenter (fld w 18 7) (fld w 11 7) (fld w 0 3)) else .error .mustBeZero
  | 2 => if w / 2 ^ 3 % 2 ^ 4 == 0 && w / 2 ^ 18 % 2 ^ 7 == 0 then .ok (.oleave (fld w 11 7) (fld w 0 3)) else .error .mustBeZero
  | 3 => if w / 2 ^ 3 % 2 ^ 4 == 0 then .ok (.otry (fld w 18 7) (fld w 11 7) (fld w 0 3)) else .error .mustBeZero
  | 4 => if w / 2 ^ 3 % 2 ^ 4 == 0 then .ok (.obase (fld w 18 7) (fld w 11 7) (fld w 0 3)) else .error .mustBeZero
  | 5 => if w / 2 ^ 3 % 2 ^ 4 == 0 && w / 2 ^ 18 % 2 ^ 7 == 0 then .ok (.oclose (fld w 11 7) (fld w 0 3)) else .error .mustBeZero
  | _ => .error .unassignedValue

/-- Primary 0x4D: the sub-operation of 4 bits at bit 21 (Tables 7-5 to 7-9). -/
def decode4D (w : Nat) : Except DecodeError Instr :=
  match w / 2 ^ 21 % 2 ^ 4 with
  | 0 => if w / 2 ^ 3 % 2 ^ 7 == 0 then .ok (.binit (fld w 14 7) (fld w 10 4) (fld w 0 3)) else .error .mustBeZero
  | 1 => .ok (.barrive (fld w 14 7) (fld w 10 4) (fld w 3 7) (fld w 0 3))
  | 2 => if w / 2 ^ 3 % 2 ^ 7 == 0 then .ok (.bwait (fld w 14 7) (fld w 10 4) (fld w 0 3)) else .error .mustBeZero
  | 3 => if w / 2 ^ 3 % 2 ^ 7 == 0 && w / 2 ^ 14 % 2 ^ 7 == 0 then .ok (.bsync (fld w 10 4) (fld w 0 3)) else .error .mustBeZero
  | 4 => if w / 2 ^ 9 % 2 ^ 1 == 0 then .ok (.brarrive (fld w 14 7) (fld w 10 4) (fld w 3 6) (fld w 0 3)) else .error .mustBeZero
  | 5 => if w / 2 ^ 3 % 2 ^ 7 == 0 then .ok (.btest (fld w 14 7) (fld w 10 4) (fld w 0 3)) else .error .mustBeZero
  | _ => .error .unassignedValue

/-- Primary 0x4E: the sub-operation of 4 bits at bit 21 (Tables 7-5 to 7-9). -/
def decode4E (w : Nat) : Except DecodeError Instr :=
  match w / 2 ^ 21 % 2 ^ 4 with
  | 0 => if w / 2 ^ 6 % 2 ^ 8 == 0 then .ok (.ropen (fld w 14 7) (fld w 3 3) (fld w 0 3)) else .error .mustBeZero
  | 1 => if w / 2 ^ 3 % 2 ^ 11 == 0 then .ok (.rcontrib (fld w 14 7) (fld w 0 3)) else .error .mustBeZero
  | 2 => if w / 2 ^ 3 % 2 ^ 11 == 0 then .ok (.rclose (fld w 14 7) (fld w 0 3)) else .error .mustBeZero
  | _ => .error .unassignedValue

/-- Primary 0x50: the sub-operation of 5 bits at bit 0 (Tables 7-5 to 7-9). -/
def decode50 (w : Nat) : Except DecodeError Instr :=
  match w / 2 ^ 0 % 2 ^ 5 with
  | 0 => .ok (.sadd (fld w 19 6) (fld w 13 6) (fld w 5 8))
  | 1 => .ok (.ssub (fld w 19 6) (fld w 13 6) (fld w 5 8))
  | 2 => .ok (.smul (fld w 19 6) (fld w 13 6) (fld w 5 8))
  | 3 => .ok (.smulhi (fld w 19 6) (fld w 13 6) (fld w 5 8))
  | 4 => .ok (.sumulhi (fld w 19 6) (fld w 13 6) (fld w 5 8))
  | 5 => .ok (.sand (fld w 19 6) (fld w 13 6) (fld w 5 8))
  | 6 => .ok (.sor (fld w 19 6) (fld w 13 6) (fld w 5 8))
  | 7 => .ok (.sxor (fld w 19 6) (fld w 13 6) (fld w 5 8))
  | 8 => .ok (.sandn (fld w 19 6) (fld w 13 6) (fld w 5 8))
  | 9 => .ok (.sshl (fld w 19 6) (fld w 13 6) (fld w 5 8))
  | 10 => .ok (.sshr (fld w 19 6) (fld w 13 6) (fld w 5 8))
  | 11 => .ok (.ssar (fld w 19 6) (fld w 13 6) (fld w 5 8))
  | 12 => .ok (.smin (fld w 19 6) (fld w 13 6) (fld w 5 8))
  | 13 => .ok (.smax (fld w 19 6) (fld w 13 6) (fld w 5 8))
  | 14 => .ok (.sumin (fld w 19 6) (fld w 13 6) (fld w 5 8))
  | 15 => .ok (.sumax (fld w 19 6) (fld w 13 6) (fld w 5 8))
  | 16 => if w / 2 ^ 13 % 2 ^ 6 == 0 then .ok (.smov (fld w 19 6) (fld w 5 8)) else .error .mustBeZero
  | 17 => if w / 2 ^ 13 % 2 ^ 6 == 0 then .ok (.snot (fld w 19 6) (fld w 5 8)) else .error .mustBeZero
  | 18 => if w / 2 ^ 13 % 2 ^ 6 == 0 then .ok (.sclz (fld w 19 6) (fld w 5 8)) else .error .mustBeZero
  | 19 => if w / 2 ^ 13 % 2 ^ 6 == 0 then .ok (.sctz (fld w 19 6) (fld w 5 8)) else .error .mustBeZero
  | 20 => if w / 2 ^ 13 % 2 ^ 6 == 0 then .ok (.spopc (fld w 19 6) (fld w 5 8)) else .error .mustBeZero
  | 21 => .ok (.sbfe (fld w 19 6) (fld w 13 6) (fld w 5 8))
  | 22 => if w / 2 ^ 13 % 2 ^ 6 == 0 then .ok (.ssext32 (fld w 19 6) (fld w 5 8)) else .error .mustBeZero
  | 23 => if w / 2 ^ 13 % 2 ^ 6 == 0 then .ok (.szext32 (fld w 19 6) (fld w 5 8)) else .error .mustBeZero
  | 24 => .ok (.sdiv (fld w 19 6) (fld w 13 6) (fld w 5 8))
  | 25 => .ok (.sdivu (fld w 19 6) (fld w 13 6) (fld w 5 8))
  | 26 => .ok (.srem (fld w 19 6) (fld w 13 6) (fld w 5 8))
  | 27 => .ok (.sremu (fld w 19 6) (fld w 13 6) (fld w 5 8))
  | _ => .error .unassignedValue

/-- Primary 0x51: the sub-operation of 5 bits at bit 0 (Tables 7-5 to 7-9). -/
def decode51 (w : Nat) : Except DecodeError Instr :=
  match w / 2 ^ 0 % 2 ^ 5 with
  | 0 => .ok (.sseq (fld w 19 6) (fld w 13 6) (fld w 5 8))
  | 1 => .ok (.sne (fld w 19 6) (fld w 13 6) (fld w 5 8))
  | 2 => .ok (.slt (fld w 19 6) (fld w 13 6) (fld w 5 8))
  | 3 => .ok (.sle (fld w 19 6) (fld w 13 6) (fld w 5 8))
  | 4 => .ok (.sltu (fld w 19 6) (fld w 13 6) (fld w 5 8))
  | 5 => .ok (.sleu (fld w 19 6) (fld w 13 6) (fld w 5 8))
  | 6 => .ok (.ssel (fld w 19 6) (fld w 13 6) (fld w 5 8))
  | _ => .error .unassignedValue

/-- Primary 0x52: the sub-operation of 4 bits at bit 5 (Tables 7-5 to 7-9). -/
def decode52 (w : Nat) : Except DecodeError Instr :=
  match w / 2 ^ 5 % 2 ^ 4 with
  | 0 => .ok (.sldw (fld w 19 6) (fld w 13 6) (fld w 9 4) (fld w 0 5))
  | 1 => .ok (.sldd (fld w 19 6) (fld w 13 6) (fld w 9 4) (fld w 0 5))
  | 2 => .ok (.sstw (fld w 19 6) (fld w 13 6) (fld w 9 4) (fld w 0 5))
  | 3 => .ok (.sstd (fld w 19 6) (fld w 13 6) (fld w 9 4) (fld w 0 5))
  | 4 => .ok (.sldwa (fld w 19 6) (fld w 13 6) (fld w 9 4) (fld w 0 5))
  | 5 => .ok (.sstdr (fld w 19 6) (fld w 13 6) (fld w 9 4) (fld w 0 5))
  | _ => .error .unassignedValue

/-- Primary 0x53: the sub-operation of 5 bits at bit 0 (Tables 7-5 to 7-9). -/
def decode53 (w : Nat) : Except DecodeError Instr :=
  match w / 2 ^ 0 % 2 ^ 5 with
  | 0 => if w / 2 ^ 13 % 2 ^ 6 == 0 then .ok (.sget (fld w 19 6) (fld w 5 8)) else .error .mustBeZero
  | 1 => if w / 2 ^ 19 % 2 ^ 6 == 0 then .ok (.sset (fld w 13 6) (fld w 5 8)) else .error .mustBeZero
  | 2 => .ok (.sreadv (fld w 19 6) (fld w 13 6) (fld w 5 8))
  | 3 => if w / 2 ^ 13 % 2 ^ 6 == 0 then .ok (.sreadp (fld w 19 6) (fld w 5 8)) else .error .mustBeZero
  | _ => .error .unassignedValue

/-- Primary 0x54: the sub-operation of 5 bits at bit 0 (Tables 7-5 to 7-9). -/
def decode54 (w : Nat) : Except DecodeError Instr :=
  match w / 2 ^ 0 % 2 ^ 5 with
  | 0 => .ok (.sfadd (fld w 19 6) (fld w 13 6) (fld w 5 8))
  | 1 => .ok (.sfsub (fld w 19 6) (fld w 13 6) (fld w 5 8))
  | 2 => .ok (.sfmul (fld w 19 6) (fld w 13 6) (fld w 5 8))
  | 3 => .ok (.sffma (fld w 19 6) (fld w 13 6) (fld w 5 8))
  | 4 => .ok (.sfmin (fld w 19 6) (fld w 13 6) (fld w 5 8))
  | 5 => .ok (.sfmax (fld w 19 6) (fld w 13 6) (fld w 5 8))
  | 6 => if w / 2 ^ 13 % 2 ^ 6 == 0 then .ok (.sfcvtfi (fld w 19 6) (fld w 5 8)) else .error .mustBeZero
  | 7 => if w / 2 ^ 13 % 2 ^ 6 == 0 then .ok (.sfcvtif (fld w 19 6) (fld w 5 8)) else .error .mustBeZero
  | 8 => .ok (.sflt (fld w 19 6) (fld w 13 6) (fld w 5 8))
  | 9 => .ok (.sfeq (fld w 19 6) (fld w 13 6) (fld w 5 8))
  | 10 => if w / 2 ^ 13 % 2 ^ 6 == 0 then .ok (.sfrcp (fld w 19 6) (fld w 5 8)) else .error .mustBeZero
  | _ => .error .unassignedValue

/-- Primary 0x5C: the sub-operation of 4 bits at bit 21 (Tables 7-5 to 7-9). -/
def decode5C (w : Nat) : Except DecodeError Instr :=
  match w / 2 ^ 21 % 2 ^ 4 with
  | 0 => if w / 2 ^ 3 % 2 ^ 11 == 0 then .ok (.mldw (fld w 14 7) (fld w 0 3)) else .error .mustBeZero
  | 1 => if w / 2 ^ 3 % 2 ^ 18 == 0 then .ok (.mswap (fld w 0 3)) else .error .mustBeZero
  | 2 => if w / 2 ^ 3 % 2 ^ 11 == 0 then .ok (.mstream (fld w 14 7) (fld w 0 3)) else .error .mustBeZero
  | 3 => if w / 2 ^ 3 % 2 ^ 18 == 0 then .ok (.mdrain (fld w 0 3)) else .error .mustBeZero
  | _ => .error .unassignedValue

/-- Primary 0x60: the sub-operation of 4 bits at bit 21 (Tables 7-5 to 7-9). -/
def decode60 (w : Nat) : Except DecodeError Instr :=
  match w / 2 ^ 21 % 2 ^ 4 with
  | 0 => if w / 2 ^ 3 % 2 ^ 11 == 0 then .ok (.cpload (fld w 14 7) (fld w 0 3)) else .error .mustBeZero
  | 1 => if w / 2 ^ 3 % 2 ^ 11 == 0 then .ok (.cploadm (fld w 14 7) (fld w 0 3)) else .error .mustBeZero
  | 2 => if w / 2 ^ 3 % 2 ^ 11 == 0 then .ok (.cpstore (fld w 14 7) (fld w 0 3)) else .error .mustBeZero
  | 3 => if w / 2 ^ 3 % 2 ^ 11 == 0 then .ok (.cpgath (fld w 14 7) (fld w 0 3)) else .error .mustBeZero
  | 4 => if w / 2 ^ 3 % 2 ^ 11 == 0 then .ok (.cpscat (fld w 14 7) (fld w 0 3)) else .error .mustBeZero
  | 5 => if w / 2 ^ 3 % 2 ^ 18 == 0 then .ok (.cpcommit (fld w 0 3)) else .error .mustBeZero
  | 6 => if w / 2 ^ 10 % 2 ^ 11 == 0 then .ok (.cpwait (fld w 3 7) (fld w 0 3)) else .error .mustBeZero
  | _ => .error .unassignedValue

/-- Primary 0x64: the sub-operation of 4 bits at bit 21 (Tables 7-5 to 7-9). -/
def decode64 (w : Nat) : Except DecodeError Instr :=
  match w / 2 ^ 21 % 2 ^ 4 with
  | 0 => if w / 2 ^ 7 % 2 ^ 4 == 0 then .ok (.qappend (fld w 14 7) (fld w 11 3) (fld w 3 4) (fld w 0 3)) else .error .mustBeZero
  | 1 => if w / 2 ^ 7 % 2 ^ 4 == 0 then .ok (.qappendl (fld w 14 7) (fld w 11 3) (fld w 3 4) (fld w 0 3)) else .error .mustBeZero
  | 2 => .ok (.qrsv (fld w 14 7) (fld w 11 3) (fld w 3 8) (fld w 0 3))
  | 3 => if w / 2 ^ 3 % 2 ^ 8 == 0 && w / 2 ^ 14 % 2 ^ 7 == 0 then .ok (.qflush (fld w 11 3) (fld w 0 3)) else .error .mustBeZero
  | 4 => if w / 2 ^ 3 % 2 ^ 8 == 0 then .ok (.qleft (fld w 14 7) (fld w 11 3) (fld w 0 3)) else .error .mustBeZero
  | _ => .error .unassignedValue

/-- Primary 0x65: the sub-operation of 4 bits at bit 21 (Tables 7-5 to 7-9). -/
def decode65 (w : Nat) : Except DecodeError Instr :=
  match w / 2 ^ 21 % 2 ^ 4 with
  | 0 => if w / 2 ^ 3 % 2 ^ 11 == 0 then .ok (.glaunch (fld w 14 7) (fld w 0 3)) else .error .mustBeZero
  | 1 => if w / 2 ^ 3 % 2 ^ 11 == 0 then .ok (.gcancel (fld w 14 7) (fld w 0 3)) else .error .mustBeZero
  | 2 => if w / 2 ^ 3 % 2 ^ 11 == 0 then .ok (.gstatus (fld w 14 7) (fld w 0 3)) else .error .mustBeZero
  | _ => .error .unassignedValue

/-- Primary 0x68: the sub-operation of 3 bits at bit 8 (Tables 7-5 to 7-9). -/
def decode68 (w : Nat) : Except DecodeError Instr :=
  match w / 2 ^ 8 % 2 ^ 3 with
  | 0 => if w / 2 ^ 3 % 2 ^ 5 == 0 && w / 2 ^ 11 % 2 ^ 6 == 0 then .ok (.bra (fld w 17 8) (fld w 0 3)) else .error .mustBeZero
  | 1 => if w / 2 ^ 3 % 2 ^ 5 == 0 then .ok (.braZ (fld w 17 8) (fld w 11 6) (fld w 0 3)) else .error .mustBeZero
  | 2 => if w / 2 ^ 3 % 2 ^ 5 == 0 then .ok (.braNz (fld w 17 8) (fld w 11 6) (fld w 0 3)) else .error .mustBeZero
  | 3 => if w / 2 ^ 3 % 2 ^ 5 == 0 then .ok (.braLt (fld w 17 8) (fld w 11 6) (fld w 0 3)) else .error .mustBeZero
  | 4 => if w / 2 ^ 3 % 2 ^ 5 == 0 then .ok (.braGe (fld w 17 8) (fld w 11 6) (fld w 0 3)) else .error .mustBeZero
  | _ => .error .unassignedValue

/-- Primary 0x6B: the sub-operation of 4 bits at bit 21 (Tables 7-5 to 7-9). -/
def decode6B (w : Nat) : Except DecodeError Instr :=
  match w / 2 ^ 21 % 2 ^ 4 with
  | 0 => if w / 2 ^ 3 % 2 ^ 3 == 0 then .ok (.callDisp (fld w 13 8) (fld w 6 7) (fld w 0 3)) else .error .mustBeZero
  | 1 => if w / 2 ^ 3 % 2 ^ 3 == 0 && w / 2 ^ 19 % 2 ^ 2 == 0 then .ok (.callk (fld w 13 6) (fld w 6 7) (fld w 0 3)) else .error .mustBeZero
  | 2 => if w / 2 ^ 3 % 2 ^ 3 == 0 && w / 2 ^ 13 % 2 ^ 8 == 0 then .ok (.icall (fld w 6 7) (fld w 0 3)) else .error .mustBeZero
  | 3 => if w / 2 ^ 3 % 2 ^ 3 == 0 && w / 2 ^ 13 % 2 ^ 8 == 0 then .ok (.retLink (fld w 6 7) (fld w 0 3)) else .error .mustBeZero
  | _ => .error .unassignedValue

/-- Primary 0x6C: the sub-operation of 4 bits at bit 21 (Tables 7-5 to 7-9). -/
def decode6C (w : Nat) : Except DecodeError Instr :=
  match w / 2 ^ 21 % 2 ^ 4 with
  | 0 => if w / 2 ^ 0 % 2 ^ 10 == 0 && w / 2 ^ 18 % 2 ^ 3 == 0 then .ok (.markPush (fld w 10 8)) else .error .mustBeZero
  | 1 => if w / 2 ^ 0 % 2 ^ 21 == 0 then .ok .joinLanes else .error .mustBeZero
  | _ => .error .unassignedValue

/-- Primary 0x6D: the sub-operation of 4 bits at bit 21 (Tables 7-5 to 7-9). -/
def decode6D (w : Nat) : Except DecodeError Instr :=
  match w / 2 ^ 21 % 2 ^ 4 with
  | 0 => if w / 2 ^ 0 % 2 ^ 18 == 0 then .ok (.enrol (fld w 18 3)) else .error .mustBeZero
  | 1 => if w / 2 ^ 0 % 2 ^ 18 == 0 then .ok (.rejoin (fld w 18 3)) else .error .mustBeZero
  | 2 => if w / 2 ^ 0 % 2 ^ 18 == 0 then .ok (.strike (fld w 18 3)) else .error .mustBeZero
  | 3 => if w / 2 ^ 0 % 2 ^ 18 == 0 then .ok (.jclr (fld w 18 3)) else .error .mustBeZero
  | _ => .error .unassignedValue

/-- Primary 0x6E: the sub-operation of 5 bits at bit 20 (Tables 7-5 to 7-9). -/
def decode6E (w : Nat) : Except DecodeError Instr :=
  match w / 2 ^ 20 % 2 ^ 5 with
  | 0 => if w / 2 ^ 0 % 2 ^ 20 == 0 then .ok .reform else .error .mustBeZero
  | 1 => if w / 2 ^ 0 % 2 ^ 20 == 0 then .ok .exitLanes else .error .mustBeZero
  | 2 => if w / 2 ^ 0 % 2 ^ 20 == 0 then .ok .yield else .error .mustBeZero
  | 3 => if w / 2 ^ 0 % 2 ^ 12 == 0 && w / 2 ^ 18 % 2 ^ 2 == 0 then .ok (.sbwait (fld w 12 6)) else .error .mustBeZero
  | _ => .error .unassignedValue

/-- Primary 0x70: the sub-operation of 4 bits at bit 21 (Tables 7-5 to 7-9). -/
def decode70 (w : Nat) : Except DecodeError Instr :=
  match w / 2 ^ 21 % 2 ^ 4 with
  | 0 => if w / 2 ^ 3 % 2 ^ 7 == 0 then .ok (.vfpush (fld w 14 7) (fld w 10 4) (fld w 0 3)) else .error .mustBeZero
  | 1 => if w / 2 ^ 0 % 2 ^ 14 == 0 && w / 2 ^ 20 % 2 ^ 1 == 0 then .ok (.vfpop (fld w 14 6)) else .error .mustBeZero
  | 2 => if w / 2 ^ 0 % 2 ^ 14 == 0 && w / 2 ^ 20 % 2 ^ 1 == 0 then .ok (.vffree (fld w 14 6)) else .error .mustBeZero
  | _ => .error .unassignedValue

/-- Primary 0x71: the sub-operation of 4 bits at bit 21 (Tables 7-5 to 7-9). -/
def decode71 (w : Nat) : Except DecodeError Instr :=
  match w / 2 ^ 21 % 2 ^ 4 with
  | 0 => if w / 2 ^ 3 % 2 ^ 7 == 0 then .ok (.qpush (fld w 14 7) (fld w 10 4) (fld w 0 3)) else .error .mustBeZero
  | 1 => if w / 2 ^ 5 % 2 ^ 5 == 0 then .ok (.qpop (fld w 14 7) (fld w 10 4) (fld w 3 2) (fld w 0 3)) else .error .mustBeZero
  | 2 => if w / 2 ^ 5 % 2 ^ 5 == 0 then .ok (.qpeek (fld w 14 7) (fld w 10 4) (fld w 3 2) (fld w 0 3)) else .error .mustBeZero
  | 3 => if w / 2 ^ 3 % 2 ^ 7 == 0 then .ok (.qlevel (fld w 14 7) (fld w 10 4) (fld w 0 3)) else .error .mustBeZero
  | _ => .error .unassignedValue

/-- Primary 0x72: the sub-operation of 4 bits at bit 5 (Tables 7-5 to 7-9). -/
def decode72 (w : Nat) : Except DecodeError Instr :=
  match w / 2 ^ 5 % 2 ^ 4 with
  | 0 => if w / 2 ^ 0 % 2 ^ 5 == 0 && w / 2 ^ 9 % 2 ^ 4 == 0 then .ok (.treq (fld w 19 6) (fld w 13 6)) else .error .mustBeZero
  | 1 => if w / 2 ^ 0 % 2 ^ 5 == 0 && w / 2 ^ 9 % 2 ^ 10 == 0 then .ok (.tstat (fld w 19 6)) else .error .mustBeZero
  | _ => .error .unassignedValue

/-- Primary 0x73: the sub-operation of 4 bits at bit 5 (Tables 7-5 to 7-9). -/
def decode73 (w : Nat) : Except DecodeError Instr :=
  match w / 2 ^ 5 % 2 ^ 4 with
  | 0 => if w / 2 ^ 2 % 2 ^ 3 == 0 && w / 2 ^ 9 % 2 ^ 16 == 0 then .ok (.phint (fld w 0 2)) else .error .mustBeZero
  | 1 => if w / 2 ^ 0 % 2 ^ 5 == 0 && w / 2 ^ 9 % 2 ^ 4 == 0 then .ok (.pgate (fld w 19 6) (fld w 13 6)) else .error .mustBeZero
  | 2 => if w / 2 ^ 0 % 2 ^ 5 == 0 && w / 2 ^ 9 % 2 ^ 4 == 0 then .ok (.pungate (fld w 19 6) (fld w 13 6)) else .error .mustBeZero
  | 3 => if w / 2 ^ 0 % 2 ^ 5 == 0 && w / 2 ^ 9 % 2 ^ 4 == 0 then .ok (.pvf (fld w 19 6) (fld w 13 6)) else .error .mustBeZero
  | _ => .error .unassignedValue

/-- Primary 0x75: the sub-operation of 5 bits at bit 20 (Tables 7-5 to 7-9). -/
def decode75 (w : Nat) : Except DecodeError Instr :=
  match w / 2 ^ 20 % 2 ^ 5 with
  | 0 => if w / 2 ^ 0 % 2 ^ 20 == 0 then .ok .tretRetry else .error .mustBeZero
  | 1 => if w / 2 ^ 0 % 2 ^ 20 == 0 then .ok .tretAdvance else .error .mustBeZero
  | 2 => if w / 2 ^ 0 % 2 ^ 20 == 0 then .ok .tretSkiplanes else .error .mustBeZero
  | _ => .error .unassignedValue

/-- Primary 0x7E: the sub-operation of 5 bits at bit 20 (Tables 7-5 to 7-9). -/
def decode7E (w : Nat) : Except DecodeError Instr :=
  match w / 2 ^ 20 % 2 ^ 5 with
  | 0 => if w / 2 ^ 0 % 2 ^ 20 == 0 then .ok .nop else .error .mustBeZero
  | 1 => if w / 2 ^ 0 % 2 ^ 12 == 0 then .ok (.pref (fld w 18 2) (fld w 12 6)) else .error .mustBeZero
  | 2 => if w / 2 ^ 0 % 2 ^ 12 == 0 then .ok (.clock (fld w 18 2) (fld w 12 6)) else .error .mustBeZero
  | 3 => if w / 2 ^ 0 % 2 ^ 12 == 0 then .ok (.sleep (fld w 12 8)) else .error .mustBeZero
  | 4 => if w / 2 ^ 0 % 2 ^ 12 == 0 then .ok (.brkpt (fld w 12 8)) else .error .mustBeZero
  | _ => .error .unassignedValue

/-- Fields of a word under its primary opcode, without the operand ranges of Table 17-3. -/
def decodeFields (w : Nat) : Except DecodeError Instr :=
  match w / 2 ^ 25 % 2 ^ 7 with
  | 0 => .ok (.fadd (fld w 18 7) (fld w 11 7) (fld w 3 8) (fld w 0 3))
  | 1 => .ok (.fsub (fld w 18 7) (fld w 11 7) (fld w 3 8) (fld w 0 3))
  | 2 => .ok (.fmul (fld w 18 7) (fld w 11 7) (fld w 3 8) (fld w 0 3))
  | 3 => .ok (.ffma (fld w 18 7) (fld w 11 7) (fld w 3 8) (fld w 0 3))
  | 4 => .ok (.ffnma (fld w 18 7) (fld w 11 7) (fld w 3 8) (fld w 0 3))
  | 5 => .ok (.fmin (fld w 18 7) (fld w 11 7) (fld w 3 8) (fld w 0 3))
  | 6 => .ok (.fmax (fld w 18 7) (fld w 11 7) (fld w 3 8) (fld w 0 3))
  | 7 => .ok (.fdot2 (fld w 18 7) (fld w 11 7) (fld w 3 8) (fld w 0 3))
  | 8 => .ok (.fscale (fld w 18 7) (fld w 11 7) (fld w 3 8) (fld w 0 3))
  | 9 => decode09 w
  | 10 => decode0A w
  | 11 => .ok (.fcmp (fld w 22 3) (fld w 18 4) (fld w 11 7) (fld w 3 8) (fld w 0 3))
  | 12 => decode0C w
  | 13 => .ok (.fcopysign (fld w 18 7) (fld w 11 7) (fld w 3 8) (fld w 0 3))
  | 14 => .ok (.cvt (fld w 18 7) (fld w 11 7) (fld w 6 5) (fld w 3 3) (fld w 0 3))
  | 15 => .ok (.cvtpk (fld w 18 7) (fld w 11 7) (fld w 3 8) (fld w 0 3))
  | 16 => .ok (.iadd (fld w 18 7) (fld w 11 7) (fld w 3 8) (fld w 0 3))
  | 17 => .ok (.isub (fld w 18 7) (fld w 11 7) (fld w 3 8) (fld w 0 3))
  | 18 => .ok (.imul (fld w 18 7) (fld w 11 7) (fld w 3 8) (fld w 0 3))
  | 19 => .ok (.imulhi (fld w 18 7) (fld w 11 7) (fld w 3 8) (fld w 0 3))
  | 20 => .ok (.umulhi (fld w 18 7) (fld w 11 7) (fld w 3 8) (fld w 0 3))
  | 21 => .ok (.imad (fld w 18 7) (fld w 11 7) (fld w 3 8) (fld w 0 3))
  | 22 => .ok (.imin (fld w 18 7) (fld w 11 7) (fld w 3 8) (fld w 0 3))
  | 23 => .ok (.imax (fld w 18 7) (fld w 11 7) (fld w 3 8) (fld w 0 3))
  | 24 => .ok (.umin (fld w 18 7) (fld w 11 7) (fld w 3 8) (fld w 0 3))
  | 25 => .ok (.umax (fld w 18 7) (fld w 11 7) (fld w 3 8) (fld w 0 3))
  | 26 => .ok (.vand (fld w 18 7) (fld w 11 7) (fld w 3 8) (fld w 0 3))
  | 27 => .ok (.vor (fld w 18 7) (fld w 11 7) (fld w 3 8) (fld w 0 3))
  | 28 => .ok (.vxor (fld w 18 7) (fld w 11 7) (fld w 3 8) (fld w 0 3))
  | 29 => .ok (.andn (fld w 18 7) (fld w 11 7) (fld w 3 8) (fld w 0 3))
  | 30 => .ok (.shl (fld w 18 7) (fld w 11 7) (fld w 3 8) (fld w 0 3))
  | 31 => .ok (.shr (fld w 18 7) (fld w 11 7) (fld w 3 8) (fld w 0 3))
  | 32 => .ok (.sar (fld w 18 7) (fld w 11 7) (fld w 3 8) (fld w 0 3))
  | 33 => .ok (.iaddi (fld w 18 7) (fld w 11 7) (fld w 3 8) (fld w 0 3))
  | 34 => .ok (.andi (fld w 18 7) (fld w 11 7) (fld w 3 8) (fld w 0 3))
  | 35 => decode23 w
  | 36 => decode24 w
  | 37 => .ok (.bfe (fld w 18 7) (fld w 11 7) (fld w 3 8) (fld w 0 3))
  | 38 => .ok (.bfi (fld w 18 7) (fld w 11 7) (fld w 3 8) (fld w 0 3))
  | 39 => .ok (.idot4 (fld w 18 7) (fld w 11 7) (fld w 3 8) (fld w 0 3))
  | 40 => .ok (.vwri (fld w 18 7) (fld w 11 7) (fld w 3 8) (fld w 0 3))
  | 41 => .ok (.icmp (fld w 22 3) (fld w 18 4) (fld w 11 7) (fld w 3 8) (fld w 0 3))
  | 42 => .ok (.sel (fld w 18 7) (fld w 11 7) (fld w 3 8) (fld w 0 3))
  | 43 => decode2B w
  | 44 => if w / 2 ^ 11 % 2 ^ 7 == 0 then .ok (.vmov (fld w 18 7) (fld w 3 8) (fld w 0 3)) else .error .mustBeZero
  | 45 => .ok (.vshfl (fld w 18 7) (fld w 11 7) (fld w 3 8) (fld w 0 3))
  | 46 => decode2E w
  | 47 => .ok (.vrdi (fld w 18 7) (fld w 11 7) (fld w 3 8) (fld w 0 3))
  | 48 => .ok (.ldb (fld w 18 7) (fld w 14 4) (fld w 7 7) (fld w 3 4) (fld w 0 3))
  | 49 => .ok (.ldsb (fld w 18 7) (fld w 14 4) (fld w 7 7) (fld w 3 4) (fld w 0 3))
  | 50 => .ok (.ldh (fld w 18 7) (fld w 14 4) (fld w 7 7) (fld w 3 4) (fld w 0 3))
  | 51 => .ok (.ldsh (fld w 18 7) (fld w 14 4) (fld w 7 7) (fld w 3 4) (fld w 0 3))
  | 52 => .ok (.ldw (fld w 18 7) (fld w 14 4) (fld w 7 7) (fld w 3 4) (fld w 0 3))
  | 53 => .ok (.ldw2 (fld w 18 7) (fld w 14 4) (fld w 7 7) (fld w 3 4) (fld w 0 3))
  | 54 => .ok (.ldw4 (fld w 18 7) (fld w 14 4) (fld w 7 7) (fld w 3 4) (fld w 0 3))
  | 55 => .ok (.stb (fld w 18 7) (fld w 14 4) (fld w 7 7) (fld w 3 4) (fld w 0 3))
  | 56 => .ok (.sth (fld w 18 7) (fld w 14 4) (fld w 7 7) (fld w 3 4) (fld w 0 3))
  | 57 => .ok (.stw (fld w 18 7) (fld w 14 4) (fld w 7 7) (fld w 3 4) (fld w 0 3))
  | 58 => .ok (.stw2 (fld w 18 7) (fld w 14 4) (fld w 7 7) (fld w 3 4) (fld w 0 3))
  | 59 => .ok (.stw4 (fld w 18 7) (fld w 14 4) (fld w 7 7) (fld w 3 4) (fld w 0 3))
  | 60 => .ok (.aadd (fld w 18 7) (fld w 14 4) (fld w 7 7) (fld w 4 3) (fld w 3 1) (fld w 0 3))
  | 61 => .ok (.aimin (fld w 18 7) (fld w 14 4) (fld w 7 7) (fld w 4 3) (fld w 3 1) (fld w 0 3))
  | 62 => .ok (.aimax (fld w 18 7) (fld w 14 4) (fld w 7 7) (fld w 4 3) (fld w 3 1) (fld w 0 3))
  | 63 => .ok (.aumin (fld w 18 7) (fld w 14 4) (fld w 7 7) (fld w 4 3) (fld w 3 1) (fld w 0 3))
  | 64 => .ok (.aumax (fld w 18 7) (fld w 14 4) (fld w 7 7) (fld w 4 3) (fld w 3 1) (fld w 0 3))
  | 65 => .ok (.aand (fld w 18 7) (fld w 14 4) (fld w 7 7) (fld w 4 3) (fld w 3 1) (fld w 0 3))
  | 66 => .ok (.aor (fld w 18 7) (fld w 14 4) (fld w 7 7) (fld w 4 3) (fld w 3 1) (fld w 0 3))
  | 67 => .ok (.axor (fld w 18 7) (fld w 14 4) (fld w 7 7) (fld w 4 3) (fld w 3 1) (fld w 0 3))
  | 68 => .ok (.axch (fld w 18 7) (fld w 14 4) (fld w 7 7) (fld w 4 3) (fld w 3 1) (fld w 0 3))
  | 69 => .ok (.acas (fld w 18 7) (fld w 14 4) (fld w 7 7) (fld w 4 3) (fld w 3 1) (fld w 0 3))
  | 70 => .ok (.afadd (fld w 18 7) (fld w 14 4) (fld w 7 7) (fld w 4 3) (fld w 3 1) (fld w 0 3))
  | 71 => .ok (.aor8w (fld w 18 7) (fld w 14 4) (fld w 7 7) (fld w 4 3) (fld w 3 1) (fld w 0 3))
  | 72 => .ok (.sld (fld w 18 7) (fld w 14 4) (fld w 7 7) (fld w 4 3) (fld w 3 1) (fld w 0 3))
  | 73 => .ok (.sst (fld w 18 7) (fld w 14 4) (fld w 7 7) (fld w 4 3) (fld w 3 1) (fld w 0 3))
  | 74 => if w / 2 ^ 0 % 2 ^ 8 == 0 then .ok (.fence (fld w 22 3) (fld w 16 6) (fld w 10 6) (fld w 8 2)) else .error .mustBeZero
  | 75 => decode4B w
  | 76 => decode4C w
  | 77 => decode4D w
  | 78 => decode4E w
  | 80 => decode50 w
  | 81 => decode51 w
  | 82 => decode52 w
  | 83 => decode53 w
  | 84 => decode54 w
  | 85 => if w / 2 ^ 0 % 2 ^ 5 == 0 && w / 2 ^ 13 % 2 ^ 6 == 0 then .ok (.sbyte (fld w 19 6) (fld w 5 8)) else .error .mustBeZero
  | 92 => decode5C w
  | 96 => decode60 w
  | 100 => decode64 w
  | 101 => decode65 w
  | 104 => decode68 w
  | 105 => if w / 2 ^ 3 % 2 ^ 10 == 0 && w / 2 ^ 19 % 2 ^ 6 == 0 then .ok (.brk (fld w 13 6) (fld w 0 3)) else .error .mustBeZero
  | 106 => if w / 2 ^ 3 % 2 ^ 3 == 0 && w / 2 ^ 13 % 2 ^ 12 == 0 then .ok (.jmpv (fld w 6 7) (fld w 0 3)) else .error .mustBeZero
  | 107 => decode6B w
  | 108 => decode6C w
  | 109 => decode6D w
  | 110 => decode6E w
  | 111 => if w / 2 ^ 0 % 2 ^ 12 == 0 && w / 2 ^ 20 % 2 ^ 5 == 0 then .ok (.fdecl (fld w 12 8)) else .error .mustBeZero
  | 112 => decode70 w
  | 113 => decode71 w
  | 114 => decode72 w
  | 115 => decode73 w
  | 116 => if w / 2 ^ 0 % 2 ^ 12 == 0 && w / 2 ^ 20 % 2 ^ 5 == 0 then .ok (.trapi (fld w 12 8)) else .error .mustBeZero
  | 117 => decode75 w
  | 118 => if w / 2 ^ 3 % 2 ^ 19 == 0 then .ok (.tpred (fld w 22 3) (fld w 0 3)) else .error .mustBeZero
  | 126 => decode7E w
  | _ => .error .reservedPrimary

/-- Decoding of an instruction word (R155, R165, Table 17-2): the fields, then the operand ranges. -/
def decodeNat (w : Nat) : Except DecodeError Instr :=
  match decodeFields w with
  | .ok i => if i.wellFormed then .ok i else .error .operandRange
  | .error e => .error e

/-- Decoding of a word of memory. -/
def decode (w : Word) : Except DecodeError Instr := decodeNat w.toNat

/-- The instruction the decoder reads from 32 bits numbered as the table of operations numbers them;
a word of primary 0x7F is read as a clause header, as at a clause start (R324). -/
def decodeTableWord (nbits w : Nat) : Option Instr :=
  let w := w % 2 ^ nbits
  if w / 2 ^ 25 % 2 ^ 7 == 127 then
    if w % 2 == 0 then some (decodeHeader w) else none
  else (decodeNat w).toOption

/-- A word of 0 fields over its fixed bits: each field at its lowest bit. -/
def word0 (m : Nat) : Nat := m

/-- A word of 1 fields over its fixed bits: each field at its lowest bit. -/
def word1 (m x0 l0 : Nat) : Nat := m + x0 * 2 ^ l0

/-- A word of 2 fields over its fixed bits: each field at its lowest bit. -/
def word2 (m x0 l0 x1 l1 : Nat) : Nat := m + x0 * 2 ^ l0 + x1 * 2 ^ l1

/-- A word of 3 fields over its fixed bits: each field at its lowest bit. -/
def word3 (m x0 l0 x1 l1 x2 l2 : Nat) : Nat := m + x0 * 2 ^ l0 + x1 * 2 ^ l1 + x2 * 2 ^ l2

/-- A word of 4 fields over its fixed bits: each field at its lowest bit. -/
def word4 (m x0 l0 x1 l1 x2 l2 x3 l3 : Nat) : Nat := m + x0 * 2 ^ l0 + x1 * 2 ^ l1 + x2 * 2 ^ l2 + x3 * 2 ^ l3

/-- A word of 5 fields over its fixed bits: each field at its lowest bit. -/
def word5 (m x0 l0 x1 l1 x2 l2 x3 l3 x4 l4 : Nat) : Nat := m + x0 * 2 ^ l0 + x1 * 2 ^ l1 + x2 * 2 ^ l2 + x3 * 2 ^ l3 + x4 * 2 ^ l4

/-- A word of 6 fields over its fixed bits: each field at its lowest bit. -/
def word6 (m x0 l0 x1 l1 x2 l2 x3 l3 x4 l4 x5 l5 : Nat) : Nat := m + x0 * 2 ^ l0 + x1 * 2 ^ l1 + x2 * 2 ^ l2 + x3 * 2 ^ l3 + x4 * 2 ^ l4 + x5 * 2 ^ l5

/-- A word of 9 fields over its fixed bits: each field at its lowest bit. -/
def word9 (m x0 l0 x1 l1 x2 l2 x3 l3 x4 l4 x5 l5 x6 l6 x7 l7 x8 l8 : Nat) : Nat := m + x0 * 2 ^ l0 + x1 * 2 ^ l1 + x2 * 2 ^ l2 + x3 * 2 ^ l3 + x4 * 2 ^ l4 + x5 * 2 ^ l5 + x6 * 2 ^ l6 + x7 * 2 ^ l7 + x8 * 2 ^ l8

/-- The word of an instruction, from the encoding tables; an event has no word. -/
def encodeNat : Instr → Option Nat
  | .clauseHeader n e w s v r f y d => some (word9 0xFE000000 n.toNat 21 e.toNat 18 w.toNat 12 s.toNat 9 v.toNat 6 r.toNat 4 f.toNat 3 y.toNat 2 d.toNat 1)
  | .fadd d a b p => some (word4 0x00000000 d.toNat 18 a.toNat 11 b.toNat 3 p.toNat 0)
  | .fsub d a b p => some (word4 0x02000000 d.toNat 18 a.toNat 11 b.toNat 3 p.toNat 0)
  | .fmul d a b p => some (word4 0x04000000 d.toNat 18 a.toNat 11 b.toNat 3 p.toNat 0)
  | .ffma d a b p => some (word4 0x06000000 d.toNat 18 a.toNat 11 b.toNat 3 p.toNat 0)
  | .ffnma d a b p => some (word4 0x08000000 d.toNat 18 a.toNat 11 b.toNat 3 p.toNat 0)
  | .fmin d a b p => some (word4 0x0A000000 d.toNat 18 a.toNat 11 b.toNat 3 p.toNat 0)
  | .fmax d a b p => some (word4 0x0C000000 d.toNat 18 a.toNat 11 b.toNat 3 p.toNat 0)
  | .fdot2 d a b p => some (word4 0x0E000000 d.toNat 18 a.toNat 11 b.toNat 3 p.toNat 0)
  | .fscale d a b p => some (word4 0x10000000 d.toNat 18 a.toNat 11 b.toNat 3 p.toNat 0)
  | .rcp d a p => some (word3 0x12000000 d.toNat 18 a.toNat 11 p.toNat 0)
  | .rsq d a p => some (word3 0x12000040 d.toNat 18 a.toNat 11 p.toNat 0)
  | .sqrt d a p => some (word3 0x12000080 d.toNat 18 a.toNat 11 p.toNat 0)
  | .exp2 d a p => some (word3 0x120000C0 d.toNat 18 a.toNat 11 p.toNat 0)
  | .log2 d a p => some (word3 0x12000100 d.toNat 18 a.toNat 11 p.toNat 0)
  | .sin d a p => some (word3 0x12000140 d.toNat 18 a.toNat 11 p.toNat 0)
  | .cos d a p => some (word3 0x12000180 d.toNat 18 a.toNat 11 p.toNat 0)
  | .tanh d a p => some (word3 0x120001C0 d.toNat 18 a.toNat 11 p.toNat 0)
  | .floor d a p => some (word3 0x14000000 d.toNat 18 a.toNat 11 p.toNat 0)
  | .ceil d a p => some (word3 0x14000040 d.toNat 18 a.toNat 11 p.toNat 0)
  | .trunc d a p => some (word3 0x14000080 d.toNat 18 a.toNat 11 p.toNat 0)
  | .rint d a p => some (word3 0x140000C0 d.toNat 18 a.toNat 11 p.toNat 0)
  | .fract d a p => some (word3 0x14000100 d.toNat 18 a.toNat 11 p.toNat 0)
  | .fcmp d c a b p => some (word5 0x16000000 d.toNat 22 c.toNat 18 a.toNat 11 b.toNat 3 p.toNat 0)
  | .fabs d a p => some (word3 0x18000000 d.toNat 18 a.toNat 11 p.toNat 0)
  | .fneg d a p => some (word3 0x18000040 d.toNat 18 a.toNat 11 p.toNat 0)
  | .fclass d a p => some (word3 0x18000080 d.toNat 18 a.toNat 11 p.toNat 0)
  | .fsat d a p => some (word3 0x180000C0 d.toNat 18 a.toNat 11 p.toNat 0)
  | .fcopysign d a b p => some (word4 0x1A000000 d.toNat 18 a.toNat 11 b.toNat 3 p.toNat 0)
  | .cvt d a c x p => some (word5 0x1C000000 d.toNat 18 a.toNat 11 c.toNat 6 x.toNat 3 p.toNat 0)
  | .cvtpk d a b p => some (word4 0x1E000000 d.toNat 18 a.toNat 11 b.toNat 3 p.toNat 0)
  | .iadd d a b p => some (word4 0x20000000 d.toNat 18 a.toNat 11 b.toNat 3 p.toNat 0)
  | .isub d a b p => some (word4 0x22000000 d.toNat 18 a.toNat 11 b.toNat 3 p.toNat 0)
  | .imul d a b p => some (word4 0x24000000 d.toNat 18 a.toNat 11 b.toNat 3 p.toNat 0)
  | .imulhi d a b p => some (word4 0x26000000 d.toNat 18 a.toNat 11 b.toNat 3 p.toNat 0)
  | .umulhi d a b p => some (word4 0x28000000 d.toNat 18 a.toNat 11 b.toNat 3 p.toNat 0)
  | .imad d a b p => some (word4 0x2A000000 d.toNat 18 a.toNat 11 b.toNat 3 p.toNat 0)
  | .imin d a b p => some (word4 0x2C000000 d.toNat 18 a.toNat 11 b.toNat 3 p.toNat 0)
  | .imax d a b p => some (word4 0x2E000000 d.toNat 18 a.toNat 11 b.toNat 3 p.toNat 0)
  | .umin d a b p => some (word4 0x30000000 d.toNat 18 a.toNat 11 b.toNat 3 p.toNat 0)
  | .umax d a b p => some (word4 0x32000000 d.toNat 18 a.toNat 11 b.toNat 3 p.toNat 0)
  | .vand d a b p => some (word4 0x34000000 d.toNat 18 a.toNat 11 b.toNat 3 p.toNat 0)
  | .vor d a b p => some (word4 0x36000000 d.toNat 18 a.toNat 11 b.toNat 3 p.toNat 0)
  | .vxor d a b p => some (word4 0x38000000 d.toNat 18 a.toNat 11 b.toNat 3 p.toNat 0)
  | .andn d a b p => some (word4 0x3A000000 d.toNat 18 a.toNat 11 b.toNat 3 p.toNat 0)
  | .shl d a b p => some (word4 0x3C000000 d.toNat 18 a.toNat 11 b.toNat 3 p.toNat 0)
  | .shr d a b p => some (word4 0x3E000000 d.toNat 18 a.toNat 11 b.toNat 3 p.toNat 0)
  | .sar d a b p => some (word4 0x40000000 d.toNat 18 a.toNat 11 b.toNat 3 p.toNat 0)
  | .iaddi d a imm p => some (word4 0x42000000 d.toNat 18 a.toNat 11 imm.toNat 3 p.toNat 0)
  | .andi d a imm p => some (word4 0x44000000 d.toNat 18 a.toNat 11 imm.toNat 3 p.toNat 0)
  | .shli d a n p => some (word4 0x46000000 d.toNat 18 a.toNat 11 n.toNat 6 p.toNat 0)
  | .shri d a n p => some (word4 0x46000008 d.toNat 18 a.toNat 11 n.toNat 6 p.toNat 0)
  | .sari d a n p => some (word4 0x46000010 d.toNat 18 a.toNat 11 n.toNat 6 p.toNat 0)
  | .rotri d a n p => some (word4 0x46000018 d.toNat 18 a.toNat 11 n.toNat 6 p.toNat 0)
  | .popc d a p => some (word3 0x48000000 d.toNat 18 a.toNat 11 p.toNat 0)
  | .clz d a p => some (word3 0x48000040 d.toNat 18 a.toNat 11 p.toNat 0)
  | .ctz d a p => some (word3 0x48000080 d.toNat 18 a.toNat 11 p.toNat 0)
  | .brev d a p => some (word3 0x480000C0 d.toNat 18 a.toNat 11 p.toNat 0)
  | .iabs d a p => some (word3 0x48000100 d.toNat 18 a.toNat 11 p.toNat 0)
  | .ineg d a p => some (word3 0x48000140 d.toNat 18 a.toNat 11 p.toNat 0)
  | .bswap d a p => some (word3 0x48000180 d.toNat 18 a.toNat 11 p.toNat 0)
  | .bfe d a b p => some (word4 0x4A000000 d.toNat 18 a.toNat 11 b.toNat 3 p.toNat 0)
  | .bfi d a b p => some (word4 0x4C000000 d.toNat 18 a.toNat 11 b.toNat 3 p.toNat 0)
  | .idot4 d a b p => some (word4 0x4E000000 d.toNat 18 a.toNat 11 b.toNat 3 p.toNat 0)
  | .vwri d a imm p => some (word4 0x50000000 d.toNat 18 a.toNat 11 imm.toNat 3 p.toNat 0)
  | .icmp d c a b p => some (word5 0x52000000 d.toNat 22 c.toNat 18 a.toNat 11 b.toNat 3 p.toNat 0)
  | .sel d a b p => some (word4 0x54000000 d.toNat 18 a.toNat 11 b.toNat 3 p.toNat 0)
  | .pand d a b p => some (word4 0x56000000 d.toNat 22 a.toNat 19 b.toNat 16 p.toNat 0)
  | .por d a b p => some (word4 0x56000800 d.toNat 22 a.toNat 19 b.toNat 16 p.toNat 0)
  | .pxor d a b p => some (word4 0x56001000 d.toNat 22 a.toNat 19 b.toNat 16 p.toNat 0)
  | .pnot d a p => some (word3 0x56001800 d.toNat 22 a.toNat 19 p.toNat 0)
  | .pmov d a p => some (word3 0x56002000 d.toNat 22 a.toNat 19 p.toNat 0)
  | .pset d p => some (word2 0x56002800 d.toNat 22 p.toNat 0)
  | .pclr d p => some (word2 0x56003000 d.toNat 22 p.toNat 0)
  | .pleader d a p => some (word3 0x56003800 d.toNat 22 a.toNat 19 p.toNat 0)
  | .vmov d b p => some (word3 0x58000000 d.toNat 18 b.toNat 3 p.toNat 0)
  | .vshfl d a b p => some (word4 0x5A000000 d.toNat 18 a.toNat 11 b.toNat 3 p.toNat 0)
  | .laneid d p => some (word2 0x5C000000 d.toNat 18 p.toNat 0)
  | .redAdd d a p => some (word3 0x5C000040 d.toNat 18 a.toNat 11 p.toNat 0)
  | .redFadd d a p => some (word3 0x5C000080 d.toNat 18 a.toNat 11 p.toNat 0)
  | .redMin d a x p => some (word4 0x5C0000C0 d.toNat 18 a.toNat 11 x.toNat 3 p.toNat 0)
  | .redMax d a x p => some (word4 0x5C000100 d.toNat 18 a.toNat 11 x.toNat 3 p.toNat 0)
  | .scanAdd d a x p => some (word4 0x5C000140 d.toNat 18 a.toNat 11 x.toNat 3 p.toNat 0)
  | .ballot d a x p => some (word4 0x5C000180 d.toNat 18 a.toNat 11 x.toNat 3 p.toNat 0)
  | .bcast d a p => some (word3 0x5C0001C0 d.toNat 18 a.toNat 11 p.toNat 0)
  | .vrdi d a imm p => some (word4 0x5E000000 d.toNat 18 a.toNat 11 imm.toNat 3 p.toNat 0)
  | .ldb t b imm o p => some (word5 0x60000000 t.toNat 18 b.toNat 14 imm.toNat 7 o.toNat 3 p.toNat 0)
  | .ldsb t b imm o p => some (word5 0x62000000 t.toNat 18 b.toNat 14 imm.toNat 7 o.toNat 3 p.toNat 0)
  | .ldh t b imm o p => some (word5 0x64000000 t.toNat 18 b.toNat 14 imm.toNat 7 o.toNat 3 p.toNat 0)
  | .ldsh t b imm o p => some (word5 0x66000000 t.toNat 18 b.toNat 14 imm.toNat 7 o.toNat 3 p.toNat 0)
  | .ldw t b imm o p => some (word5 0x68000000 t.toNat 18 b.toNat 14 imm.toNat 7 o.toNat 3 p.toNat 0)
  | .ldw2 t b imm o p => some (word5 0x6A000000 t.toNat 18 b.toNat 14 imm.toNat 7 o.toNat 3 p.toNat 0)
  | .ldw4 t b imm o p => some (word5 0x6C000000 t.toNat 18 b.toNat 14 imm.toNat 7 o.toNat 3 p.toNat 0)
  | .stb t b imm o p => some (word5 0x6E000000 t.toNat 18 b.toNat 14 imm.toNat 7 o.toNat 3 p.toNat 0)
  | .sth t b imm o p => some (word5 0x70000000 t.toNat 18 b.toNat 14 imm.toNat 7 o.toNat 3 p.toNat 0)
  | .stw t b imm o p => some (word5 0x72000000 t.toNat 18 b.toNat 14 imm.toNat 7 o.toNat 3 p.toNat 0)
  | .stw2 t b imm o p => some (word5 0x74000000 t.toNat 18 b.toNat 14 imm.toNat 7 o.toNat 3 p.toNat 0)
  | .stw4 t b imm o p => some (word5 0x76000000 t.toNat 18 b.toNat 14 imm.toNat 7 o.toNat 3 p.toNat 0)
  | .aadd t b imm s x p => some (word6 0x78000000 t.toNat 18 b.toNat 14 imm.toNat 7 s.toNat 4 x.toNat 3 p.toNat 0)
  | .aimin t b imm s x p => some (word6 0x7A000000 t.toNat 18 b.toNat 14 imm.toNat 7 s.toNat 4 x.toNat 3 p.toNat 0)
  | .aimax t b imm s x p => some (word6 0x7C000000 t.toNat 18 b.toNat 14 imm.toNat 7 s.toNat 4 x.toNat 3 p.toNat 0)
  | .aumin t b imm s x p => some (word6 0x7E000000 t.toNat 18 b.toNat 14 imm.toNat 7 s.toNat 4 x.toNat 3 p.toNat 0)
  | .aumax t b imm s x p => some (word6 0x80000000 t.toNat 18 b.toNat 14 imm.toNat 7 s.toNat 4 x.toNat 3 p.toNat 0)
  | .aand t b imm s x p => some (word6 0x82000000 t.toNat 18 b.toNat 14 imm.toNat 7 s.toNat 4 x.toNat 3 p.toNat 0)
  | .aor t b imm s x p => some (word6 0x84000000 t.toNat 18 b.toNat 14 imm.toNat 7 s.toNat 4 x.toNat 3 p.toNat 0)
  | .axor t b imm s x p => some (word6 0x86000000 t.toNat 18 b.toNat 14 imm.toNat 7 s.toNat 4 x.toNat 3 p.toNat 0)
  | .axch t b imm s x p => some (word6 0x88000000 t.toNat 18 b.toNat 14 imm.toNat 7 s.toNat 4 x.toNat 3 p.toNat 0)
  | .acas t b imm s x p => some (word6 0x8A000000 t.toNat 18 b.toNat 14 imm.toNat 7 s.toNat 4 x.toNat 3 p.toNat 0)
  | .afadd t b imm s x p => some (word6 0x8C000000 t.toNat 18 b.toNat 14 imm.toNat 7 s.toNat 4 x.toNat 3 p.toNat 0)
  | .aor8w t b imm s x p => some (word6 0x8E000000 t.toNat 18 b.toNat 14 imm.toNat 7 s.toNat 4 x.toNat 3 p.toNat 0)
  | .sld t b imm s x p => some (word6 0x90000000 t.toNat 18 b.toNat 14 imm.toNat 7 s.toNat 4 x.toNat 3 p.toNat 0)
  | .sst t b imm s x p => some (word6 0x92000000 t.toNat 18 b.toNat 14 imm.toNat 7 s.toNat 4 x.toNat 3 p.toNat 0)
  | .fence s a b k => some (word4 0x94000000 s.toNat 22 a.toNat 16 b.toNat 10 k.toNat 8)
  | .monitor d a b c => some (word4 0x96000000 d.toNat 19 a.toNat 13 b.toNat 9 c.toNat 0)
  | .mwait d a => some (word2 0x96000020 d.toNat 19 a.toNat 13)
  | .mcancel a b => some (word2 0x96000040 a.toNat 13 b.toNat 9)
  | .otake t k p => some (word3 0x98000000 t.toNat 18 k.toNat 11 p.toNat 0)
  | .oenter t k p => some (word3 0x98000080 t.toNat 18 k.toNat 11 p.toNat 0)
  | .oleave k p => some (word2 0x98000100 k.toNat 11 p.toNat 0)
  | .otry t k p => some (word3 0x98000180 t.toNat 18 k.toNat 11 p.toNat 0)
  | .obase t k p => some (word3 0x98000200 t.toNat 18 k.toNat 11 p.toNat 0)
  | .oclose k p => some (word2 0x98000280 k.toNat 11 p.toNat 0)
  | .binit a x p => some (word3 0x9A000000 a.toNat 14 x.toNat 10 p.toNat 0)
  | .barrive a x imm p => some (word4 0x9A200000 a.toNat 14 x.toNat 10 imm.toNat 3 p.toNat 0)
  | .bwait a x p => some (word3 0x9A400000 a.toNat 14 x.toNat 10 p.toNat 0)
  | .bsync x p => some (word2 0x9A600000 x.toNat 10 p.toNat 0)
  | .brarrive a x imm p => some (word4 0x9A800000 a.toNat 14 x.toNat 10 imm.toNat 3 p.toNat 0)
  | .btest a x p => some (word3 0x9AA00000 a.toNat 14 x.toNat 10 p.toNat 0)
  | .ropen a o p => some (word3 0x9C000000 a.toNat 14 o.toNat 3 p.toNat 0)
  | .rcontrib a p => some (word2 0x9C200000 a.toNat 14 p.toNat 0)
  | .rclose a p => some (word2 0x9C400000 a.toNat 14 p.toNat 0)
  | .sadd d a b => some (word3 0xA0000000 d.toNat 19 a.toNat 13 b.toNat 5)
  | .ssub d a b => some (word3 0xA0000001 d.toNat 19 a.toNat 13 b.toNat 5)
  | .smul d a b => some (word3 0xA0000002 d.toNat 19 a.toNat 13 b.toNat 5)
  | .smulhi d a b => some (word3 0xA0000003 d.toNat 19 a.toNat 13 b.toNat 5)
  | .sumulhi d a b => some (word3 0xA0000004 d.toNat 19 a.toNat 13 b.toNat 5)
  | .sand d a b => some (word3 0xA0000005 d.toNat 19 a.toNat 13 b.toNat 5)
  | .sor d a b => some (word3 0xA0000006 d.toNat 19 a.toNat 13 b.toNat 5)
  | .sxor d a b => some (word3 0xA0000007 d.toNat 19 a.toNat 13 b.toNat 5)
  | .sandn d a b => some (word3 0xA0000008 d.toNat 19 a.toNat 13 b.toNat 5)
  | .sshl d a b => some (word3 0xA0000009 d.toNat 19 a.toNat 13 b.toNat 5)
  | .sshr d a b => some (word3 0xA000000A d.toNat 19 a.toNat 13 b.toNat 5)
  | .ssar d a b => some (word3 0xA000000B d.toNat 19 a.toNat 13 b.toNat 5)
  | .smin d a b => some (word3 0xA000000C d.toNat 19 a.toNat 13 b.toNat 5)
  | .smax d a b => some (word3 0xA000000D d.toNat 19 a.toNat 13 b.toNat 5)
  | .sumin d a b => some (word3 0xA000000E d.toNat 19 a.toNat 13 b.toNat 5)
  | .sumax d a b => some (word3 0xA000000F d.toNat 19 a.toNat 13 b.toNat 5)
  | .smov d b => some (word2 0xA0000010 d.toNat 19 b.toNat 5)
  | .snot d b => some (word2 0xA0000011 d.toNat 19 b.toNat 5)
  | .sclz d b => some (word2 0xA0000012 d.toNat 19 b.toNat 5)
  | .sctz d b => some (word2 0xA0000013 d.toNat 19 b.toNat 5)
  | .spopc d b => some (word2 0xA0000014 d.toNat 19 b.toNat 5)
  | .sbfe d a b => some (word3 0xA0000015 d.toNat 19 a.toNat 13 b.toNat 5)
  | .ssext32 d b => some (word2 0xA0000016 d.toNat 19 b.toNat 5)
  | .szext32 d b => some (word2 0xA0000017 d.toNat 19 b.toNat 5)
  | .sdiv d a b => some (word3 0xA0000018 d.toNat 19 a.toNat 13 b.toNat 5)
  | .sdivu d a b => some (word3 0xA0000019 d.toNat 19 a.toNat 13 b.toNat 5)
  | .srem d a b => some (word3 0xA000001A d.toNat 19 a.toNat 13 b.toNat 5)
  | .sremu d a b => some (word3 0xA000001B d.toNat 19 a.toNat 13 b.toNat 5)
  | .sseq d a b => some (word3 0xA2000000 d.toNat 19 a.toNat 13 b.toNat 5)
  | .sne d a b => some (word3 0xA2000001 d.toNat 19 a.toNat 13 b.toNat 5)
  | .slt d a b => some (word3 0xA2000002 d.toNat 19 a.toNat 13 b.toNat 5)
  | .sle d a b => some (word3 0xA2000003 d.toNat 19 a.toNat 13 b.toNat 5)
  | .sltu d a b => some (word3 0xA2000004 d.toNat 19 a.toNat 13 b.toNat 5)
  | .sleu d a b => some (word3 0xA2000005 d.toNat 19 a.toNat 13 b.toNat 5)
  | .ssel d a b => some (word3 0xA2000006 d.toNat 19 a.toNat 13 b.toNat 5)
  | .sldw d a b imm => some (word4 0xA4000000 d.toNat 19 a.toNat 13 b.toNat 9 imm.toNat 0)
  | .sldd d a b imm => some (word4 0xA4000020 d.toNat 19 a.toNat 13 b.toNat 9 imm.toNat 0)
  | .sstw d a b imm => some (word4 0xA4000040 d.toNat 19 a.toNat 13 b.toNat 9 imm.toNat 0)
  | .sstd d a b imm => some (word4 0xA4000060 d.toNat 19 a.toNat 13 b.toNat 9 imm.toNat 0)
  | .sldwa d a b imm => some (word4 0xA4000080 d.toNat 19 a.toNat 13 b.toNat 9 imm.toNat 0)
  | .sstdr d a b imm => some (word4 0xA40000A0 d.toNat 19 a.toNat 13 b.toNat 9 imm.toNat 0)
  | .sget d n => some (word2 0xA6000000 d.toNat 19 n.toNat 5)
  | .sset a n => some (word2 0xA6000001 a.toNat 13 n.toNat 5)
  | .sreadv d a v => some (word3 0xA6000002 d.toNat 19 a.toNat 13 v.toNat 5)
  | .sreadp d n => some (word2 0xA6000003 d.toNat 19 n.toNat 5)
  | .sfadd d a b => some (word3 0xA8000000 d.toNat 19 a.toNat 13 b.toNat 5)
  | .sfsub d a b => some (word3 0xA8000001 d.toNat 19 a.toNat 13 b.toNat 5)
  | .sfmul d a b => some (word3 0xA8000002 d.toNat 19 a.toNat 13 b.toNat 5)
  | .sffma d a b => some (word3 0xA8000003 d.toNat 19 a.toNat 13 b.toNat 5)
  | .sfmin d a b => some (word3 0xA8000004 d.toNat 19 a.toNat 13 b.toNat 5)
  | .sfmax d a b => some (word3 0xA8000005 d.toNat 19 a.toNat 13 b.toNat 5)
  | .sfcvtfi d b => some (word2 0xA8000006 d.toNat 19 b.toNat 5)
  | .sfcvtif d b => some (word2 0xA8000007 d.toNat 19 b.toNat 5)
  | .sflt d a b => some (word3 0xA8000008 d.toNat 19 a.toNat 13 b.toNat 5)
  | .sfeq d a b => some (word3 0xA8000009 d.toNat 19 a.toNat 13 b.toNat 5)
  | .sfrcp d b => some (word2 0xA800000A d.toNat 19 b.toNat 5)
  | .sbyte d b => some (word2 0xAA000000 d.toNat 19 b.toNat 5)
  | .mldw a p => some (word2 0xB8000000 a.toNat 14 p.toNat 0)
  | .mswap p => some (word1 0xB8200000 p.toNat 0)
  | .mstream a p => some (word2 0xB8400000 a.toNat 14 p.toNat 0)
  | .mdrain p => some (word1 0xB8600000 p.toNat 0)
  | .cpload a p => some (word2 0xC0000000 a.toNat 14 p.toNat 0)
  | .cploadm a p => some (word2 0xC0200000 a.toNat 14 p.toNat 0)
  | .cpstore a p => some (word2 0xC0400000 a.toNat 14 p.toNat 0)
  | .cpgath a p => some (word2 0xC0600000 a.toNat 14 p.toNat 0)
  | .cpscat a p => some (word2 0xC0800000 a.toNat 14 p.toNat 0)
  | .cpcommit p => some (word1 0xC0A00000 p.toNat 0)
  | .cpwait n p => some (word2 0xC0C00000 n.toNat 3 p.toNat 0)
  | .qappend a e c p => some (word4 0xC8000000 a.toNat 14 e.toNat 11 c.toNat 3 p.toNat 0)
  | .qappendl a e c p => some (word4 0xC8200000 a.toNat 14 e.toNat 11 c.toNat 3 p.toNat 0)
  | .qrsv a e n p => some (word4 0xC8400000 a.toNat 14 e.toNat 11 n.toNat 3 p.toNat 0)
  | .qflush e p => some (word2 0xC8600000 e.toNat 11 p.toNat 0)
  | .qleft a e p => some (word3 0xC8800000 a.toNat 14 e.toNat 11 p.toNat 0)
  | .glaunch a p => some (word2 0xCA000000 a.toNat 14 p.toNat 0)
  | .gcancel a p => some (word2 0xCA200000 a.toNat 14 p.toNat 0)
  | .gstatus a p => some (word2 0xCA400000 a.toNat 14 p.toNat 0)
  | .bra d p => some (word2 0xD0000000 d.toNat 17 p.toNat 0)
  | .braZ d s p => some (word3 0xD0000100 d.toNat 17 s.toNat 11 p.toNat 0)
  | .braNz d s p => some (word3 0xD0000200 d.toNat 17 s.toNat 11 p.toNat 0)
  | .braLt d s p => some (word3 0xD0000300 d.toNat 17 s.toNat 11 p.toNat 0)
  | .braGe d s p => some (word3 0xD0000400 d.toNat 17 s.toNat 11 p.toNat 0)
  | .brk k p => some (word2 0xD2000000 k.toNat 13 p.toNat 0)
  | .jmpv a p => some (word2 0xD4000000 a.toNat 6 p.toNat 0)
  | .callDisp d a p => some (word3 0xD6000000 d.toNat 13 a.toNat 6 p.toNat 0)
  | .callk k a p => some (word3 0xD6200000 k.toNat 13 a.toNat 6 p.toNat 0)
  | .icall a p => some (word2 0xD6400000 a.toNat 6 p.toNat 0)
  | .retLink a p => some (word2 0xD6600000 a.toNat 6 p.toNat 0)
  | .markPush d => some (word1 0xD8000000 d.toNat 10)
  | .joinLanes => some (word0 0xD8200000)
  | .enrol j => some (word1 0xDA000000 j.toNat 18)
  | .rejoin j => some (word1 0xDA200000 j.toNat 18)
  | .strike j => some (word1 0xDA400000 j.toNat 18)
  | .jclr j => some (word1 0xDA600000 j.toNat 18)
  | .reform => some (word0 0xDC000000)
  | .exitLanes => some (word0 0xDC100000)
  | .yield => some (word0 0xDC200000)
  | .sbwait m => some (word1 0xDC300000 m.toNat 12)
  | .fdecl n => some (word1 0xDE000000 n.toNat 12)
  | .vfpush a x p => some (word3 0xE0000000 a.toNat 14 x.toNat 10 p.toNat 0)
  | .vfpop d => some (word1 0xE0200000 d.toNat 14)
  | .vffree d => some (word1 0xE0400000 d.toNat 14)
  | .qpush a q p => some (word3 0xE2000000 a.toNat 14 q.toNat 10 p.toNat 0)
  | .qpop a q x p => some (word4 0xE2200000 a.toNat 14 q.toNat 10 x.toNat 3 p.toNat 0)
  | .qpeek a q x p => some (word4 0xE2400000 a.toNat 14 q.toNat 10 x.toNat 3 p.toNat 0)
  | .qlevel a q p => some (word3 0xE2600000 a.toNat 14 q.toNat 10 p.toNat 0)
  | .treq d a => some (word2 0xE4000000 d.toNat 19 a.toNat 13)
  | .tstat d => some (word1 0xE4000020 d.toNat 19)
  | .phint c => some (word1 0xE6000000 c.toNat 0)
  | .pgate d a => some (word2 0xE6000020 d.toNat 19 a.toNat 13)
  | .pungate d a => some (word2 0xE6000040 d.toNat 19 a.toNat 13)
  | .pvf d a => some (word2 0xE6000060 d.toNat 19 a.toNat 13)
  | .trapi c => some (word1 0xE8000000 c.toNat 12)
  | .tretRetry => some (word0 0xEA000000)
  | .tretAdvance => some (word0 0xEA100000)
  | .tretSkiplanes => some (word0 0xEA200000)
  | .tpred d p => some (word2 0xEC000000 d.toNat 22 p.toNat 0)
  | .nop => some (word0 0xFC000000)
  | .pref l n => some (word2 0xFC100000 l.toNat 18 n.toNat 12)
  | .clock s n => some (word2 0xFC200000 s.toNat 18 n.toNat 12)
  | .sleep c => some (word1 0xFC300000 c.toNat 12)
  | .brkpt c => some (word1 0xFC400000 c.toNat 12)
  | .sleepEnd => none
  | .resultArrival => none
  | .faultRouting => none
  | .watchdog => none
  | .fsvcreplyResume => none
  | .fsvcreplyKill => none
  | .recordArrival => none
  | .batchageExpiry => none
  | .placement => none
  | .rtWindowStart => none
  | .reformBinClose => none
  | .waveRetirement => none
  | .drainingStreamTimeout => none
  | .runCompletion => none
  | .phaseStart => none
  | .runLaunch => none
  | .laneKill => none
  | .rootQueueBind => none
  | .spillTimeout => none
  | .splitChange => none
  | .waitSaveTimeout => none
  | .contextSave => none
  | .contextRestore => none
  | .memoryPacket => none
  | .pageWalk => none
  | .shortStoreWaitEnd => none
  | .promotionRequest => none
  | .promotionReply => none
  | .mwaitTimeout => none
  | .keystoneRequest => none
  | .sectionStall => none
  | .barrierRequest => none
  | .reductionRequest => none
  | .engineCommandArrival => none
  | .mldwFinish => none
  | .mswapEffect => none
  | .streamStart => none
  | .matrixRowFinish => none
  | .copyCompletion => none
  | .multicastDelivery => none
  | .vfifoEntryAvailable => none
  | .vfifoBeatFail => none
  | .vfifoRepairComplete => none
  | .linkTurnEnd => none
  | .leaseTimeout => none
  | .flitReceive => none
  | .linkRecalibration => none
  | .recalibrationEnd => none
  | .dieParkComplete => none
  | .railOff => none
  | .railReady => none
  | .sliceLeave => none
  | .sliceJoin => none
  | .bankRetirement => none
  | .gainCellRefresh => none
  | .patrolScrub => none
  | .plumbTick => none
  | .vfChangeComplete => none
  | .retentionEntry => none
  | .hardwareTrip => none
  | .heartbeatMiss => none
  | .warmReset => none
  | .powerOnReset => none
  | .bootImage => none
  | .flashReadTimeout => none
  | .setvf => none
  | .setcap => none
  | .measure => none
  | .quote => none
  | .telemetry => none
  | .flashRead => none
  | .flashProgram => none
  | .flashReboot => none
  | .cornerread => none
  | .mailboxCompletion => none
  | .rqtailWrite => none
  | .rqbaseWrite => none
  | .rqsizeWrite => none
  | .hostBar2Access => none
  | .registerWrite => none
  | .slotcmdPhase => none
  | .slotcmdJob => none
  | .invctlGo => none
  | .invalidationComplete => none
  | .l1modeWrite => none
  | .l1modeChangeComplete => none
  | .pmcselWrite => none
  | .pmcClear => none
  | .mlpartWrite => none
  | .partitionChangeComplete => none
  | .mlremapWrite => none
  | .remapComplete => none
  | .cmcfgWrite => none
  | .cmheadWrite => none
  | .layergateReqWrite => none
  | .binGroup => none
  | .viewportClose => none
  | .tileFill => none
  | .tileVisibility => none
  | .classifierEmit => none
  | .tileWriteback => none
  | .rayBatch => none
  | .rayResult => none
  | .matrixNodeBatch => none
  | .matrixNodeResult => none
  | .packetAcknowledgement => none
  | .turnWaitEnd => none
  | .voltageRampEnd => none

/-- The 32-bit word of an instruction; zero for an event. -/
def encode (i : Instr) : Word := BitVec.ofNat 32 ((encodeNat i).getD 0)

/-- Whether a row of the table is a word rather than an event. -/
def Instr.isWord (i : Instr) : Bool := (encodeNat i).isSome

end Sys2Proof
end

