-- ==== Sys2Proof/Machine/State.lean ====
section
/-! DEFINITION. The state of the Onirop 6240 as plain data: lanes, waves, graph runs, jobs, ashlars,
courses, dies, memory slices, the link, the host registers and Plumb. Where the spec says a value is
held per lane, wave, ashlar, course, die or device, the field stands in the structure of that name. -/

namespace Sys2Proof.Machine

/-- Bytes by address in canonical form: addresses rising, no entry equal to what an unlisted address
reads as, which is zero (assumption log 1). -/
abbrev Mem := List Host.Cell

/-! ### What a step is asked to do -/

/-- The operands of an event: the natural-number operands named by its constructor's docstring are
a, b, c, d in that order. -/
structure EvArgs where
  a : Nat := 0
  b : Nat := 0
  c : Nat := 0
  d : Nat := 0
  mask : Mask := 0
  v : DWord := 0
  flag : Bool := false
  scrub : ScrubResult := .clean
  acc : HostAccess := .read 0 0
  deriving DecidableEq, Repr

/-- What comes from outside the modelled device, or is a choice of the part that no row of the table
names (assumption log 2). -/
inductive Input where
  /-- Junction temperature of a device course in 1/16 °C (R296 TEMP). -/
  | temperature (course : Nat) (t : Int)
  /-- Mean power over 1 ms in watts (R304). -/
  | power (watts : Nat)
  /-- An uncorrectable error in a line of physical memory (R345). -/
  | poison (line : Nat)
  /-- A parity error in the control state of a wave (R370 row 1). -/
  | parity (wave : Nat)
  /-- A checksum error in the scheduler tables of a slot (R370 row 5). -/
  | checksum (slot : Nat)
  /-- An uncorrectable error in what a lane reads: a register or scratch word, a dirty L1 line or an array in retention (R370
  rows 2 to 4). -/
  | regError (wave lane row : Nat)
  /-- The check code of a short-lived line fails (R348). -/
  | shortError (line : Nat)
  /-- The image of a saved context fails its check at restore (R309 HARDWARE 2). -/
  | savedError (wave : Nat)
  /-- A rail fell below its undervoltage limit for 2 µs, or the rails are good again (R368). -/
  | undervoltage (low : Bool)
  /-- A slice's junction temperature in 1/16 °C (R348). -/
  | sliceTemperature (slice : Nat) (t : Int)
  /-- A bank's temperature in 1/16 °C (R349). -/
  | bankTemperature (slice bank : Nat) (t : Int)
  /-- A single error is corrected, in a line of a bank where one is named (R349, R370). -/
  | corrected (at_ : Option (Nat × Nat × Nat))
  /-- A slice's atomic unit or tables fail their checks (R350, R351). -/
  | sliceFail (slice : Nat)
  /-- A queued or spilled record of a node's instance is read with an uncorrectable error (R343, R350). -/
  | recordError (run node die : Nat)
  /-- Plumb reports a lane group dead (R359). -/
  | deadGroup (group : Nat)
  /-- L1 replaces a line (R87). -/
  | evict (cache line : Nat)
  /-- The copy engine performs up to n further elements of a copy (R242). -/
  | copyStep (req n : Nat)
  /-- Contents of one byte of the flash (the xSPI flash is outside, R25). -/
  | flashByte (addr : Nat) (b : Byte)
  /-- A memory write by a peer or the host into the host window, outside BAR2 (R295). -/
  | hostMemory (addr : Nat) (data : List Byte)
  /-- The host reads a doubleword of BAR0 (R296). -/
  | hostRead (off : Nat)
  /-- The host reads a doubleword of BAR0 of virtual function n (R294). -/
  | vfRead (n off : Nat)
  /-- The host gives BAR2 another of its sizes, 2^k GiB (R294). -/
  | barSize (k : Nat)
  deriving DecidableEq, Repr

/-- One move of the tape: what happens next. -/
inductive Act where
  /-- An event of the table with its operands. -/
  | event (i : Instr) (e : EvArgs)
  /-- A wave issues its next clause header or word. -/
  | issue (w : Nat)
  /-- An input or an unnamed choice of the part. -/
  | input (x : Input)
  /-- Nothing happens. -/
  | idle
  deriving DecidableEq, Repr

/-- A move and the time in ps that passes before it. -/
structure Move where
  dt : Nat
  act : Act
  deriving DecidableEq, Repr

/-! ### Lanes and waves -/

/-- Why a lane is parked (R38). -/
inductive Park where
  | fault                              -- a fault awaiting delivery or service
  | join (pc : Nat)                    -- at the JOIN of the clause at pc
  | rejoin (j pc : Nat)                -- at a REJOIN jN of the clause at pc
  | oenter (op : Nat)                  -- an OENTER not yet granted, at a WAIT (R117)
  | sleep (until_ : Nat)               -- SLEEP, until a course cycle count; while its clause goes on, for so many cycles
  | brkpt (code : Nat)                 -- BRKPT with debugging on (R166)
  | sbwait (mask : Nat)                -- SBWAIT, until these scoreboards are zero
  | reform (pc : Nat)                  -- a REFORM waiting for a bin, filed for pc
  | drain                              -- the D bit, until every scoreboard is zero
  deriving DecidableEq, Repr

/-- What becomes of a lane (R35, R38, R42, R45). -/
inductive LaneStat where
  | inactive | run | exited | filed
  | parked (why : Park)
  deriving DecidableEq, Repr

/-- A fault of a lane, with what its trap frame holds (R317, Table 16-4). -/
structure FaultRec where
  set : Nat                            -- the lanes that form one set F carry one number
  cls : Nat
  code : Nat := 0
  late : Bool := false
  index : Nat := 0
  pc : Nat := 0
  header : Word := 0
  word : Word := 0
  amask : Mask := 0
  addr : Nat := 0
  raised : BitVec 6 := 0
  resumePc : Nat := 0
  resumeIdx : Nat := 0
  service : Bool := false              -- eligible for system service (R314 rule 3)
  op : Nat := 0                        -- number of the outstanding instruction of a late fault, 0 for none
  under : Option (DWord × DWord) := none  -- %trapen and %trapvec in force before an SSET of its clause (R333)
  deriving DecidableEq, Repr

/-- One lane of a wave (R10, R37); a control thread is a wave with the one pseudo-lane 0 (R378). -/
structure Lane where
  stat : LaneStat := .inactive
  also : List Park := []               -- what it is parked for besides, by later words of the same clause (R149, R166)
  pc : Nat := 0                        -- clause start
  idx : Nat := 0                       -- index within the clause, 0 but after TRET (R37)
  retry : Option (Nat × Nat × Word) := none  -- a word to issue again before pc, idx: clause, index, header (R320)
  v : List Word := []
  p : BitVec 8 := 0                    -- bit n is pn
  handler : Bool := false              -- in handler state (R318)
  held : List (DWord × Word) := []     -- sections counted as held, key and number (R119, R337)
  late : Option FaultRec := none       -- a late fault detected and not yet taken (R312)
  fault : Option FaultRec := none      -- the fault it is parked for
  heldP7 : Option Bool := none         -- p7 of a grant made while in a handler (R319)
  since : Nat := 0                     -- clause count at last issue or when it became runnable (R38)
  waited : Nat := 0                    -- ps waited in one place, for the watchdog (R319, R358)
  deriving DecidableEq, Repr

/-- Where a pending result goes. -/
inductive Dst where
  | vreg (lane r : Nat) (x : Word)
  | pred (lane n : Nat) (b : Bool)
  | sreg (n : Nat) (x : DWord)
  deriving DecidableEq, Repr

/-- A fixed-latency result, seen by words at index at_ or later (R152). -/
structure PWrite where
  at_ : Nat
  dst : Dst
  deriving DecidableEq, Repr

/-- The fields of a clause header (Table 7-1). -/
structure Header where
  n : Nat
  ec : Nat
  wait : Nat
  sb : Nat
  vt : Nat
  rm : Nat
  fz : Bool
  y : Bool
  d : Bool
  deriving DecidableEq, Repr

/-- The clause a wave has in execution (R74: at most one). -/
structure Clause where
  pc : Nat
  hdr : Header
  raw : Word                           -- the header word
  index : Nat                          -- the next word
  lanes : Mask                         -- the issuing subgroup
  out : Mask := 0                      -- lanes removed by issue faults (R311)
  word : Word := 0                     -- the word in execution
  pend : List PWrite := []
  specials : List (Nat × DWord) := []  -- SSETs, taking effect at the end (R152)
  xfer : List (Nat × Nat) := []        -- lane and target of a control transfer (R180)
  parks : List (Mask × Park) := []     -- parks at the end of the clause
  exits : Mask := 0                    -- lanes that EXIT
  jump : Option Nat := none            -- index after the first word, when a retry skips words (R320)
  only : Bool := false                 -- the retried word stands alone (R320)
  yield : Bool := false
  reform : Mask := 0                   -- lanes that REFORM
  tret : Option Nat := none            -- a TRET: 0 RETRY, 1 ADVANCE, 2 SKIPLANES
  deriving DecidableEq, Repr

/-- What an outstanding variable-latency instruction waits for. -/
inductive Wait where
  | ready                                          -- its values are in dsts
  | request (r : Nat)                              -- request r
  | mwait (deadline : Option Nat) (sd : Nat)       -- an MWAIT (R217): whether its wait outlives an entry that its wave's own
      (begun : Bool) (code : Option Nat)           -- MCANCEL has disarmed (R218), and the event of Table 5-5 that ended it
  | barrier (x : Nat) (token : BitVec 16)          -- BWAIT or BSYNC: the phase number differs (R222)
  | mdrain (upTo : Nat)                            -- matrix commands numbered below upTo (R238)
  | cpwait (n : Nat)                               -- at most n closed batches outstanding (R243)
  | qpop (q p va : Nat) (keep : Bool)              -- a row of a queue register (R246)
  | vfpop (sd : Nat)                               -- an available FIFO entry (R252)
  deriving DecidableEq, Repr

/-- An outstanding variable-latency instruction of a wave (R153). -/
structure Op where
  id : Nat
  sb : Nat
  lanes : Mask                         -- lanes for which it has not completed
  dsts : List (Nat × Dst) := []        -- values ready to be written, with the lane each belongs to
  done : Mask := 0                     -- lanes whose values are ready
  wait : Wait := .ready
  regs : List Nat := []                -- destinations: v r as r, s n as 128 + n, pn as 192 + n
  all : Mask := 0                      -- Active when it issued
  pc : Nat := 0                        -- the clause, index, header and word it issued from
  index : Nat := 0
  header : Word := 0
  word : Word := 0
  handler : Bool := false              -- issued by lanes in handler state
  drops : List (Nat × DWord) := []     -- lanes and keys of OTRYs that failed (R119)
  skip : List (Mask × Nat) := []       -- lanes and destinations that a later-issued result has written (R329)
  deriving DecidableEq, Repr

/-- A completion ring %cmN (R231). -/
structure CmRing where
  cfg : DWord := 0
  head : DWord := 0
  tail : DWord := 0
  held : List (List Byte) := []        -- records waiting for a free entry
  after : List (Option (Nat × Nat × Bool)) := []  -- for each, the ashlar, object and width of the arrival that follows it (R242)
  deriving DecidableEq, Repr

/-- A watch entry in the home slice of a line (R114). -/
structure Watch where
  addr : Nat                           -- space 0: physical; space 2: stacked-scratch window offset
  space : Nat
  cmp : Nat
  value : DWord
  flagged : Bool
  armedAt : Nat                        -- arming order, for the eviction of the oldest
  deriving DecidableEq, Repr

/-- A wave's remaining reservation on an output edge (R61). -/
structure Resv where
  edge : Nat
  die : Nat                            -- the instance reserved on
  left : Nat
  deriving DecidableEq, Repr

/-- Later accesses of these lanes on a path wait for a request or an outstanding instruction (R103, R108). -/
structure Hold where
  path : Nat
  on : Nat
  lanes : Mask
  of : Mask                            -- the lanes as its wave numbered them when it was made
  deriving DecidableEq, Repr

/-- Where a wave stands (R45, R52, R73). -/
inductive WaveStat where
  | waiting                            -- placed, waiting for its prologue to retire (R36)
  | resident
  | draining
  | saveAsked                          -- a context save is requested
  | saved
  | restoring                          -- placed again, its context on its way back
  deriving DecidableEq, Repr

/-- A wave, a prologue wave or a control thread (R34, R35, R36). -/
structure Wave where
  id : Nat
  stat : WaveStat := .resident
  run : Nat                            -- %graphrun
  slot : Nat
  node : Nat
  die : Nat
  ashlar : Nat
  width : Nat                          -- W; 0 for a control thread
  prologue : Bool := false
  regs : Nat                           -- REGS
  div : Bool                           -- DIV: true for mask mode
  matrix : Bool := false               -- MATRIX
  reccount : Nat := 0
  seqno : DWord := 0                   -- s1 at start
  lanes : List Lane
  s : List DWord
  k : List DWord
  b : List DWord                       -- the 64 doublewords of b0..b15 (R77)
  stack : List (Nat × Mask) := []      -- divergence stack, top first (R39)
  j : List Mask                        -- rejoin masks (R40)
  sb : List Nat                        -- scoreboards
  q : List (List (List Word))          -- queue registers: rows of 64 words
  cm : List CmRing
  trapen : DWord := 0
  trapvec : DWord := 0
  fpflags : BitVec 6 := 0
  memstat : Bool := false              -- %memstat.STALE
  prefdrop : DWord := 0
  energy : Nat := 0                    -- %energyclass
  scrBase : Nat := 0                   -- %scratchbase: where its private region lies (R88)
  scrSize : Nat := 0                   -- %scratchsize
  shBase : Nat := 0                    -- %sharedbase
  shSize : Nat := 0                    -- %sharedsize
  clauses : Nat := 0                   -- the wave's clause count (R38)
  clause : Option Clause := none
  ops : List Op := []
  hold : List Hold := []
  relFences : List (Mask × Nat) := []  -- lanes and scopes of FENCEs that make later strong writes releases (R103)
  batchOpen : List Nat := []           -- copy commands of the open batch (R243)
  batches : List (List Nat) := []      -- closed batches, oldest first
  watch : Option Watch := none
  resv : List Resv := []
  lastMask : Mask := 0                 -- fault lane mask of the latest delivery (R320)
  ticket : Option Nat := none          -- outstanding system service (R321)
  svcSet : Nat := 0                    -- the fault set it serves
  svcAsked : Bool := false             -- the service begins once its context is saved (R321)
  groups : List (Nat × Nat) := []      -- group index of each lane of a mesh wave (R265)
  tiles : List Nat := []               -- tile slots (4 × device course + slot) of the records it was given
  yielded : Bool := false
  drains : Bool := false               -- a D bit parks it until sb0 to sb5 are zero (R154)
  broke : Bool := false                -- a BRKPT has parked it (R166)
  savedAt : Option Nat := none         -- ashlar it was saved from and must return to (R52, R291)
  waitSince : Nat := 0                 -- ps when its MWAIT or OENTER wait began (R73)
  placedAt : Nat := 0
  streamHeld : Nat := 0                -- ps a stream of the draining wave has been held (R45)
  saveFor : Nat := 0                   -- 0 none, 1 wait, 2 service, 3 park, 4 wire failure (R73)
  badImage : Bool := false             -- its saved image fails its check (R309)
  ssets : List (Nat × DWord) := []     -- SSETs of its last clause whose effect is an event of its own
  savedFifo : List (List Byte) := []   -- FIFO entries saved with it (R253)
  savedScratch : Mem := []             -- its private scratch while saved
  savedUnits : Option (Nat × Nat) := none  -- first unit and units of its context in the spill area (R382)
  lastMat : Nat := 0                   -- the last matrix command it issued
  saveSeq : Nat := 0                   -- order of its save request
  eligible : Option Nat := none        -- ps since which it is eligible while saved (R58)
  eligFor : Nat := 0                   -- ps for which it was eligible before (R60)
  past : List (Nat × Mask) := []       -- requests its lanes made before a REFORM, and the lanes (R109)
  cpScope : Nat := 0                   -- widest scope of its completed copies' records (Table 5-2)
  refiles : Bool := false              -- its lanes at a REFORM are to be filed: a bin has closed since they tried (R42)
  frameIdx : Nat := 0                  -- INDEX and HEADER of the latest delivery (R320)
  frameHdr : Word := 0
  deriving DecidableEq, Repr

/-! ### Requests in flight -/

/-- The atomic operations (Table 10-4). -/
inductive AtomOp where
  | add | imin | imax | umin | umax | and | or | xor | xch | cas | fadd | or8w
  deriving DecidableEq, Repr

/-- What a memory access does. -/
inductive AccKind where
  | load | store
  | strongLoad (acq : Bool) | strongStore (rel : Bool)
  | atomic (op : AtomOp)
  | monitor (cmp : Nat) (value : DWord)
  deriving DecidableEq, Repr

/-- Where the data of a load goes. -/
inductive LoadDst where
  | none
  | vregs (t size : Nat) (signed : Bool)
  | sreg (n size : Nat)
  deriving DecidableEq, Repr

/-- One lane's part of an access: its address, the bytes it writes (or its atomic operand) and the
bytes that have come back. -/
structure Item where
  lane : Nat
  addr : Nat
  size : Nat
  data : List Byte := []
  got : List (Option Byte) := []
  left : Nat := 0                      -- bytes not yet read or performed
  deriving DecidableEq, Repr

/-- A lane or scalar memory access between issue and completion. -/
structure MemReq where
  kind : AccKind
  space : Nat
  sc : Nat := 4
  policy : Nat := 0
  short : Bool := false
  dst : LoadDst := .none
  scalar : Bool := false
  mark : Bool := false                 -- a narrow release, which marks its line (R107)
  items : List Item
  sent : Bool := false                 -- translated, its line requests made
  deriving DecidableEq, Repr

/-- One access within a line request: lane, address, offset within the lane's access, bytes. -/
structure Piece where
  lane : Nat
  addr : Nat
  off : Nat
  len : Nat
  data : List Byte
  deriving DecidableEq, Repr

/-- Where a line request stands (R21, R22, R91, R97, R107). -/
inductive Stage where
  | window                             -- held at the source: 64 packets unacknowledged
  | flight                             -- in the mesh, or received by its home
  | early                              -- at the home, before a lower-numbered packet to its line
  | stack (out : Bool)                 -- the home's own request to the stack or port behind the line, out or back
  | fullSet                            -- a short-lived store waiting for a line to expire
  | promote                            -- an acquire read waiting for a promotion
  | performed                          -- its reply or acknowledgement is on its way back
  deriving DecidableEq, Repr

/-- A direction of travel in the mesh (R19): row 0 is north, column 0 is west. -/
inductive Dir where
  | east | west | north | south
  deriving DecidableEq, Repr

/-- A memory packet (R21): one line request of an access, or a write-back of L1. -/
structure Packet where
  src : Nat                            -- source identifier (Mesh.lean)
  home : Nat                           -- device slice number
  seq : Nat                            -- 8-bit sequence number of the pair (source, home)
  line : Nat                           -- physical address / 64
  kind : AccKind
  short : Bool := false
  fill : Option Nat := none            -- L1 to allocate the line in
  stream : Bool := false               -- allocated as first choice for replacement
  policy : Nat := 0
  pieces : List Piece
  stage : Stage := .flight
  router : Nat := 0                    -- 16 × die + router, where it stands in the mesh
  came : Option Dir := none            -- its direction of travel (R20)
  told : Bool := false                 -- the message of an access that was performed when it was sent (log entry 69)
  fetched : Bool := false              -- the stack or port behind its line has answered
  parent : Option Nat := none          -- the access it belongs to
  deriving DecidableEq, Repr

/-- Requests to keystone entries (Table 10-9); abandon is R356. -/
inductive OrdOp where
  | take | enter | leave | try_ | base | close
  deriving DecidableEq, Repr

/-- Requests to barrier objects (Table 10-11). -/
inductive BarOp where
  | init (expect : Nat) (auto : Bool)
  | arrive (k : Nat) (token : Option Nat)          -- register that receives the token
  | sync
  | wait (token : BitVec 16)
  | remote (k : Nat)
  | test (va : Nat) (token : BitVec 16)
  deriving DecidableEq, Repr

/-- Requests to gathering reductions (Table 10-12). -/
inductive RedOp where
  | open_ (ring : List (Nat × Nat)) (expect tag op : Nat)
  | contrib (x : Word)
  | close
  deriving DecidableEq, Repr

/-- The matrix commands (Table 11-3), with the parameter block read at issue. -/
inductive MatCmd where
  | mldw (off : Nat)
  | mswap
  | mstream (block : List Byte)
  deriving DecidableEq, Repr

/-- A cached translation (R86). -/
structure TlbEntry where
  ashlar : Nat                         -- or 128 + die for the units of a die, 130 + course for a second-level TLB
  asid : Nat
  page : Nat                           -- virtual 64 KiB page, the first of a 16 MiB leaf
  at_ : Nat                            -- physical address of the leaf
  entry : DWord                        -- the leaf
  odd : DWord                          -- the odd slot of a tile region
  level : Nat
  deriving DecidableEq, Repr

/-- An async copy (R239, R240): layout record, coordinates and progress. -/
structure Copy where
  kind : Nat                           -- 0 load, 1 multicast, 2 store, 3 gather, 4 scatter
  lay : List Byte
  c : List Int                         -- c0..c3
  index : Nat := 0                     -- scratch offset of the index list
  next : Nat := 0                      -- elements performed in the loop order
  moved : Nat := 0
  pages : List TlbEntry := []          -- translations it holds (R242, R347)
  wrote : List (Nat × Mask) := []      -- bytes it has written of lines that hold an uncorrectable error (R345)
  tile : List (Nat × List Byte) := []  -- elements fetched for a multicast, with their scratch offsets (R244)
  refused : DWord := 0
  delivered : List Nat := []           -- receivers already decided
  code : Nat := 0
  queued : Bool := true                -- not yet in the copy engine (R228)
  deriving DecidableEq, Repr

/-- A record in a queue instance. -/
structure QRec where
  bytes : List Byte
  at_ : Nat := 0                       -- ps when queued
  ashlar : Option Nat := none          -- LOCAL (R32)
  group : Option Nat := none           -- mesh group index × 256 + mesh node (R266)
  course : Option Nat := none          -- course-bound (R275)
  tile : Option Nat := none            -- tile slot it belongs to (R274)
  deriving DecidableEq, Repr

/-- What a request asks for. -/
inductive ReqBody where
  | mem (m : MemReq)
  | packet (p : Packet)
  | order (op : OrdOp) (lane : Nat) (key : DWord) (seq : Word) (reg : Nat)
  | barrier (op : BarOp) (ashlar x : Nat) (lanes : Mask)
  | reduce (op : RedOp) (addr pa : Nat)   -- the result's virtual and physical address
  | append (node die : Nat) (recs : List QRec) (from_ : List Nat)  -- the scratch offsets of records still to be read
  | matrix (c : MatCmd) (queued : Bool)
  | copy (c : Copy)
  | cancelWatch (space addr : Nat)
  | reply (lanes : Mask) (vals : List (Nat × Dst))  -- a home's answer to an operation of a wave of the other die
  | message                               -- to Plumb from die B, its effect made when it was sent (log entry 69)
  | fence (rel acq full : Bool) (sc : Nat) (started : Bool)  -- the L1 actions of a fence, release or acquire
  deriving DecidableEq, Repr

/-- A request of a wave in flight. -/
structure Req where
  id : Nat
  wave : Nat
  run : Nat := 0
  slot : Nat := 0
  ashlar : Nat := 0
  op : Option Nat := none              -- the outstanding instruction it completes
  path : Nat                           -- Table 5-1
  write : Bool
  read : Bool
  strong : Bool := false
  lanes : Mask := 0                    -- the lanes whose access it is
  after : List (Nat × Mask) := []      -- requests, or instructions for lanes, that must be done first
  die : Nat := 0                       -- where it stands
  cross : Option Nat := none           -- ps since which its message waits for flits of the die-to-die link (R24, R91)
  head : Option (Nat × Nat × Nat) := none  -- source, home slice and sequence number in its message header (R24)
  body : ReqBody
  deriving DecidableEq, Repr

/-! ### Graphs, runs and jobs -/

/-- An output edge (Table 2-2). -/
structure Edge where
  target : Nat
  emits : Nat
  isLocal : Bool
  deriving DecidableEq, Repr

/-- A node descriptor (Table 2-1). -/
structure Node where
  entry : Nat
  prologue : Nat
  ktab : Nat
  buftab : Nat
  trappc : Nat
  fixparam : Nat
  trapen : Nat
  qcap : Nat
  recsize : Nat
  batchage : Nat
  maxwaves : Nat
  binage : Nat
  kind : Nat
  fixunit : Nat
  width : Nat
  regs : Nat
  pscr : Nat
  sscr : Nat
  kcount : Nat
  bcount : Nat
  prio : Nat
  energy : Nat
  ordered : Bool
  matrix : Bool
  div : Bool
  split : Nat
  l1mode : Nat
  edges : List Edge                    -- EDGE0..EDGE7
  deriving DecidableEq, Repr

/-- A queue instance of a node on a die (R32). -/
structure Inst where
  recs : List QRec := []               -- on chip, oldest first
  spilled : List (Nat × List QRec) := []  -- spilled batches and their first unit, oldest first (R64, R382)
  reserved : Nat := 0
  m : Nat := 0                         -- waves launched (R35)
  given : Nat := 0                     -- records delivered to waves (R265)
  aged : Bool := false                 -- the oldest record has waited BATCHAGE (R33)
  back : Nat := 0                      -- records at the front of recs that were read back from the spill area (R65)
  since : Option Nat := none           -- ps since which the reservations of a wave of it can be met (R58)
  spans : List (Nat × Nat) := []       -- the times before when they could (R60)
  last : Option Nat := none            -- ps since which it can receive no further record (R33)
  deriving DecidableEq, Repr

/-- Status of a level (Table 2-5). -/
inductive Status where
  | ok | cancelled | fault | invalid
  deriving DecidableEq, Repr

/-- A primitive in the bin area (R268), with the vertices it names. -/
structure Prim where
  key : Nat
  mat : Nat
  transp : Bool
  cull : Nat
  verts : List (List Word)             -- three of X, Y, Z, Q
  deriving DecidableEq, Repr

/-- The binning unit's state for a binning node (R268, R269). -/
structure Binning where
  node : Nat
  next : Nat := 0                      -- the group awaited
  prims : List Prim := []
  groups : Nat := 0
  badGroups : Nat := 0
  badPrims : Nat := 0
  used : Nat := 0                      -- bytes of the bin area used
  closed : Bool := false               -- the viewport is closed
  held : Nat := 0                      -- ring records it holds binned, until then
  tiles : List (Nat × Nat) := []       -- tiles whose records it has still to emit, row-major
  resv : List Resv := []               -- slots it holds for them
  deriving DecidableEq, Repr

/-- A live graph run (R46). -/
structure Run where
  id : Nat
  slot : Nat
  desc : Nat                           -- address of its run descriptor
  nodes : List Node
  ring : Nat
  tag : DWord
  msi : Bool
  spillBase : Nat
  spillSize : Nat
  spillTo : Nat
  rootsFed : Bool := false
  orderedDie : Nat := 0
  insts : List Inst                    -- instance of node n on die d at 2n + d
  sink : List Nat                      -- sink distances (R63)
  status : Status := .ok
  node : Nat := 0                      -- node of a FAULT or INVALID status
  cancelling : Bool := false
  posted : Bool := false               -- a KIND 0, 2 or 6 record has been posted (R322)
  flushed : Bool := false              -- its L1 bytes have been sent home for its end (R113)
  delivered : Nat := 0
  spills : Nat := 0
  placedAt : Nat := 0                  -- ps when its spill timeout last began (R64, R352)
  bins : List Binning := []
  closedGroups : List (Nat × Nat) := []-- mesh node and group, closed (R266)
  resident : List (Nat × Nat) := []    -- ashlars on which a wave of it ever issued (R113), with node
  deriving DecidableEq, Repr

/-- A launch waiting at the scheduler (R251). -/
structure Launch where
  id : Nat
  slot : Nat
  desc : Nat
  die : Option Nat                     -- of the launching wave; none from the root queue
  after : Option Nat := none           -- the release of its GLAUNCH (R109)
  deriving DecidableEq, Repr

/-- A job slot (R48, R53, R54, Table 15-2, R321). -/
structure Slot where
  bound : Bool := false
  ptroot : Nat := 0
  phases : Nat := 0
  nphase : Nat := 0
  jring : Nat := 0
  errring : Nat := 0
  prio : Nat := 0
  rt : Bool := false
  sys : Bool := false
  msi : Bool := false
  share : Nat := 0
  rtmin : Nat := 0
  tag : DWord := 0
  phase : Nat := 0                     -- index of the current phase
  started : Bool := false              -- the current phase has been started
  phaseStatus : Status := .ok
  phaseCancelled : Bool := false
  phaseNode : Nat := 0
  phaseRun : Nat := 0                  -- the last run of the phase; lastRun is that of the job
  lastRun : Nat := 0
  jobCancel : Bool := false
  anyCancelled : Bool := false
  credit : Int := 0                    -- of the share rule (R59)
  rtUsed : List Nat := [0, 0]          -- placements in the window, per die (R58)
  postdrop : Nat := 0
  grant : List (Nat × Nat) := [(0, 0), (0, 0)]  -- stacked-scratch base and size per die, 4 KiB units
  debug : Bool := false
  fsvc : Bool := false
  ticket : Nat := 0                    -- next service ticket
  deriving DecidableEq, Repr

/-! ### Ashlars, courses, dies, slices -/

/-- STATE of a barrier object (Table 10-10). -/
inductive BarState where
  | idle | armed | counting | done
  deriving DecidableEq, Repr

/-- A barrier object (Table 10-10). -/
structure Barrier where
  state : BarState := .idle
  run : Nat := 0
  expect : Nat := 0
  arrived : Nat := 0
  ph : BitVec 16 := 0
  auto : Bool := false
  wide : List (BitVec 16) := []        -- the phases that a die-scope arrival counted in (Table 5-2)
  deriving DecidableEq, Repr

/-- A vertical FIFO entry (R252). -/
structure FifoEntry where
  wave : Nat
  bytes : List Byte
  at_ : Nat := 0                       -- ps at which it can be available (R252)
  avail : Bool := false
  held : Option Nat := none            -- it waits for the repair of the bus, with so many of its two beats delivered (R361)
  deriving DecidableEq, Repr

/-- A stream of the matrix array (R236, R237): the planes of the passes begun so far. -/
structure Stream where
  req : Nat
  wave : Nat
  block : List Byte
  planes : List (List Byte)
  row : Nat := 0                       -- rows finished
  issuing : Bool := true               -- no stream has started after it
  due : Nat := 0                       -- cycle of the array at which its next row may issue
  got : List (Nat × List Byte) := []   -- rows issued, pass after pass: the cycle, and the activation and scale bytes read
  deriving DecidableEq, Repr

/-- The matrix array of an ashlar (R233, R236). -/
structure MatArray where
  bound : Option (Nat × Nat) := none   -- run and node (R69)
  active : List Byte := []
  shadow : List Byte := []
  streams : List Stream := []
  cycle : Nat := 0                     -- cycles of its row pipeline, which a row that cannot be pushed stops (R237)
  deriving DecidableEq, Repr

/-- A lane filed by a REFORM: its registers and predicates (R43), and its history (R109): requests not yet performed, what its
later accesses on a path await, and the scopes of its release fences. -/
structure FiledLane where
  v : List Word
  p : BitVec 8
  past : List Nat := []
  hold : List (Nat × Nat × Mask) := []
  rel : List Nat := []
  deriving DecidableEq, Repr

/-- A REFORM bin (R42). -/
structure Bin where
  run : Nat
  slot : Nat
  node : Nat
  pc : Nat
  width : Nat
  regs : Nat
  since : Nat
  lanes : List FiledLane := []
  resv : List Resv := []
  deriving DecidableEq, Repr

/-- A node resident on an ashlar (R36). -/
structure Residency where
  run : Nat
  node : Nat
  ready : Bool                         -- its prologue has retired, or it has none
  base : Nat                           -- granule of its shared region
  granules : Nat
  matrix : Bool
  deriving DecidableEq, Repr

/-- An activity of the traversal unit or a matrix node (R278, R282): a batch taken. -/
structure Batch where
  run : Nat
  node : Nat
  recs : List QRec                     -- inputs whose results are not yet appended
  resv : List Resv := []               -- slots reserved on its output edges
  deriving DecidableEq, Repr

/-- An ashlar (Table 1-2). -/
structure Ashlar where
  split : Nat := 3                     -- log entry 3
  splitNext : Option Nat := none       -- a split change is pending (R71)
  scratch : Mem := []
  regions : List (Nat × Nat × Nat) := []  -- wave, first granule, granules of a private region
  residents : List Residency := []
  barriers : List Barrier
  fifo : List FifoEntry := []
  fifoStop : Bool := false             -- the FIFO bus is stopped for repair (R361)
  fifoMends : Nat := 0                 -- ps at which the repair under way can end
  spares : Nat := 8
  array : MatArray := {}
  bins : List (Option Bin)
  rays : List Batch := []
  mlp : List Batch := []
  reservedFor : Option Nat := none     -- what it is reserved for under R60 (Place.lean: instToken, waveToken, groupToken)
  retired : Bool := false
  retained : Option Nat := none        -- in retention since a time in ps, at which its entry began (R305)
  wakes : Nat := 0                     -- ps at which its last exit from retention ends
  idleSince : Nat := 0
  pmc : List DWord
  pmcsel : List DWord
  deriving DecidableEq, Repr

/-- A fragment that survived visibility (R272, R277). -/
structure Frag where
  x : Nat
  y : Nat
  key : Nat
  mat : Nat
  transp : Bool
  depth : Word
  b1 : Word
  b2 : Word
  deriving DecidableEq, Repr

/-- The states of a tile slot (R274). -/
inductive TileState where
  | free | filled | visible | shading
  deriving DecidableEq, Repr

/-- A tile slot of a course (R273). -/
structure Tile where
  state : TileState := .free
  run : Nat := 0
  bin : Nat := 0                       -- the binning node
  resolver : Nat := 0
  classifier : Nat := 0
  tx : Nat := 0
  ty : Nat := 0
  frags : List Frag := []              -- opaque survivors and transparent survivors
  left : List (Nat × List Byte) := []  -- pixel records not yet emitted, with their edges
  resv : List Resv := []               -- slots held by the unit whose turn it is: the resolver, then the classifier
  deriving DecidableEq, Repr

/-- A change of course point under way (R303). -/
inductive VfPhase where
  | steady | rampUp | switching
  deriving DecidableEq, Repr

/-- A course (R16, R72, Table 15-2). -/
structure Course where
  point : Nat := 4
  next : Nat := 4
  vf : VfPhase := .steady
  vfAt : Nat := 0                      -- ps at which the phase under way began
  want : Nat := 4                      -- the point last requested, which a forced point returns to (R304)
  hot : Bool := false                  -- above 100 °C and not yet below 95 °C (R304)
  budget : Nat := 2048
  fused : Bool := false
  l1next : Option Bool := none         -- an L1 mode change is under way
  temp : Int := 0                      -- log entry 4
  phase : Nat := 0                     -- course cycles × 10^6 (log entry 5)
  tiles : List Tile
  tileMem : Mem := []
  primMem : Mem := []
  deriving DecidableEq, Repr

/-- The use of a bank (R93). -/
inductive BankRole where
  | cache | queue | scratch | short | idle
  deriving DecidableEq, Repr

/-- What Plumb keeps of a bank for its retirement (R349). -/
structure BankHealth where
  hotSince : Option Nat := none        -- ps since which it has been above 110 °C
  coolSince : Option Nat := none       -- ps since which it has been below 95 °C
  fixed : List (Nat × Nat) := []       -- lines with a corrected error, and when
  bad : Bool := false                  -- a refreshed way of it has returned an uncorrectable error
  deriving DecidableEq, Repr

/-- A memory slice's partition register and banks (Table 4-8, R349). -/
structure Slice where
  live : BitVec 16 := 0xFFFF           -- LIVE, with no reset value given (log entry 66)
  deadline : Nat := 50
  busy : Bool := false
  short : Nat := 0
  scratch : Nat := 0
  queue : Nat
  cache : Nat
  now : List BankRole                  -- the roles that the banks have, until a change is complete
  inSet : Bool := true                 -- in the live set of R90
  wasScratch : Nat := 0                -- SCRATCH before the change under way
  since : Nat := 0                     -- nextId when that change was accepted (R376)
  by_ : Option Nat := none             -- the job slot that wrote it (R377)
  hot : BitVec 16 := 0                 -- banks retired for temperature
  overTemp : Bool := false             -- short-lived over-temperature (R348)
  temp : Int := 0                      -- junction temperature in 1/16 °C (R348, R368), log entry 4
  health : List BankHealth := List.replicate 16 {}
  failed : Bool := false               -- its atomic unit or tables failed their checks (R350, R351)
  deriving DecidableEq, Repr

/-- A keystone entry (Table 5-6). -/
structure Keystone where
  key : DWord
  run : Nat
  nextSeq : Word := 0
  nextTkt : Word := 0
  base : Word := 0
  holder : Option (Nat × Nat) := none  -- wave and lane
  abandoned : Bool := false
  waiters : List (Nat × Nat × Word × Nat) := []  -- wave, lane, sequence number, operation; in receipt order
  closing : Bool := false
  waited : Nat := 0                    -- ps unchanged with waiters (R357)
  stalled : Bool := false              -- a KIND 4 record has been posted
  overflow : Bool := false             -- an overflow entry (R120)
  unit : Option Nat := none            -- its unit of the spill area, where the queue ways are full (R382)
  deriving DecidableEq, Repr

/-- An open gathering reduction (R225). -/
structure Reduction where
  run : Nat
  slot : Nat
  addr : Nat                           -- virtual result address
  pa : Nat
  ring : List (Nat × Nat)              -- physical addresses and lengths of the parts of its ring descriptor
  expect : Nat
  tag : Nat
  op : Nat
  count : Nat := 0
  value : Option Word := none
  deriving DecidableEq, Repr

/-- A line of an ashlar's L1 (R87). -/
structure L1Line where
  cache : Nat                          -- the ashlar whose share holds it
  line : Nat                           -- physical line number
  data : List Byte
  valid : Mask
  dirty : Mask
  stream : Bool := false               -- first choice for replacement (Table 4-7)
  deriving DecidableEq, Repr

/-- A line in a cache way of its home (R87, R93). -/
structure WayLine where
  line : Nat
  home : Nat                           -- device slice number
  bank : Nat
  stream : Bool := false
  old : Option (List Byte) := none     -- HBM's contents, where the way has writes that HBM has not
  deriving DecidableEq, Repr

/-- A line of an ashlar's instruction memory (R12, R84). -/
structure ImemLine where
  ashlar : Nat
  run : Nat
  line : Nat                           -- virtual address / 64
  data : List Byte
  deriving DecidableEq, Repr

/-- The lines that a home can mark: of global memory, short-lived, or of a die's stacked-scratch window. -/
inductive LineKind where
  | global | short | window (die : Nat)
  deriving DecidableEq, Repr

/-- A mark of a narrow release (R107). -/
structure Mark where
  kind : LineKind := .global
  line : Nat
  ashlar : Nat                         -- the releasing ashlar
  asked : Bool := false                -- its L1 has been asked to write back
  deriving DecidableEq, Repr

/-- A short-lived line (R97). -/
structure ShortLine where
  line : Nat
  bank : Nat                           -- the short-lived way that holds it
  data : List Byte
  deadline : Nat                       -- in ticks of 1 µs
  deriving DecidableEq, Repr

/-- An entry of the cornerstone record (Table 19-4). -/
structure Corner where
  time : Nat
  event : Nat
  source : Nat
  data : Nat
  seq : Nat
  deriving DecidableEq, Repr

/-- A layer's gate (Table 11-18, R306). -/
structure Gate where
  gated : Bool := false
  busy : Bool := false
  req : Bool := false
  at_ : Nat := 0                       -- ps from which the rail timing of R306 counts
  deriving DecidableEq, Repr

/-- A compute stack (R12). -/
structure Die where
  gates : List Gate := [{}, {}, {}]    -- M, A, C
  parked : Bool := false
  parking : Bool := false              -- an accepted gate awaits the saves
  linkPark : Bool := false             -- parked because the link is down (R360)
  parkcount : DWord := 0
  slices : List Slice
  remap : Bool := false                -- %mlremap.START
  remapBy : Option Nat := none         -- the job slot that wrote %mlremap (R377)
  banks : List (Nat × Nat) := []       -- the scratch banks of the window (R94)
  stacked : Mem := []
  corner : List Corner := []
  cornerSeq : Nat := 0
  cornerDropped : Nat := 0
  deriving DecidableEq, Repr

/-- A lane group of the link (R23, R257, R359). -/
structure Group where
  aToB : Bool
  live : Bool := true
  lastTurn : Option Nat := none        -- ps when its last turn ended
  retrain : Nat := 0                   -- failed attempts in a row
  replays : List Nat := []             -- ps of recent replays
  flit : Nat := 0                      -- sequence number of the next flit
  part : Option (Nat × Nat) := none    -- the message cut by the last flit's end, and its bytes yet to come
  deriving DecidableEq, Repr

/-- A pending link request (R255, R256). -/
structure LinkReq where
  slot : Nat
  die : Nat
  split : Nat
  time : Nat
  deriving DecidableEq, Repr

/-- The die-to-die link. -/
structure Link where
  groups : List Group
  pending : List LinkReq := []
  lease : Option (Nat × Nat × Nat) := none   -- slot, requested split, ps of the grant
  target : Nat := 8
  turning : Option (Nat × Nat) := none     -- group, ps of the turn's or attempt's start
  recal : Option (Nat × Nat) := none       -- group under recalibration, ps of its start
  calibrated : Nat := 0                    -- the group recalibrated last (R307)
  deriving DecidableEq, Repr

/-- The BAR0 registers of Tables 15-2 and 15-3 that no other structure holds, and the interrupts. -/
structure HostRegs where
  rqbase : Nat := 0
  rqsize : Nat := 6
  tail : Word := 0
  head : Word := 0
  badIndex : Nat := 0
  badCount : Nat := 0
  waiting : Bool := false
  err : Bool := false
  winbase : Nat := 0
  barSize : Nat := 2 ^ 30              -- size of BAR2 (R294), log entry 15
  invva : Nat := 0
  invgo : Bool := false
  invpages : Nat := 0
  invrange : Bool := false
  invasid : Nat := 0
  inval : Nat × Option (Nat × Nat) := (0, none)  -- the invalidation under way: identifier, first page and pages
  cmd : DWord := 0
  args : List DWord := [0, 0, 0, 0, 0, 0, 0]
  result : DWord := 0
  doorbell : Bool := false
  rungSeq : List Nat := [0, 0]         -- next SEQ of each die when the doorbell was rung (R373)
  hostRang : Bool := false             -- rung from the host path (R367)
  done : Bool := false                 -- the command has been carried out
  outcome : Nat := 0                   -- the RESULT it ends with
  vectors : List Nat := []             -- MSI-X messages sent, newest first
  msix : List (Nat × DWord) := []      -- MSI-X table and pending bits, doublewords not zero
  readData : List Byte := []           -- data of the last host read
  deriving DecidableEq, Repr

/-- Plumb: boot, power, measurement and flash. -/
structure Plumb where
  state : Nat := 0                     -- STATE (R299): 0 ROM until the boot
  failcode : Nat := 0
  before : Nat := 0                    -- STATE before a FLASH program operation (R366)
  cap : Nat := 480
  power : Nat := 0
  overTicks : Nat := 0
  alarm : Bool := false                -- an emergency was sensed at the last tick (R368)
  emergency : Bool := false
  tripped : Bool := false
  undervolt : Bool := false
  vfQueue : List (Nat × Nat) := []     -- course and point (R261)
  m : List Byte                        -- 32 bytes (R302)
  count : Nat := 0
  ticks : Nat := 0                     -- number of the last 10 µs tick (R303)
  flash : Mem := []
  window : Mem := []
  firmware : List Byte := []           -- the digest e
  signs : Nat := 0
  resets : Nat := 0                    -- warm resets so far
  linkDown : Option Nat := none
  heartbeat : Nat := 0                 -- ps of the last heartbeat
  corrected : Nat := 0
  telemetry : Nat := 0
  brkpts : List (Nat × Nat) := []      -- BRKPT reports: wave and code
  deriving DecidableEq, Repr

/-- Whose code is kept as it stood (R99): a live run, a launch that waits, a bound slot before its first phase, or the
root-queue records up to a value of TAIL. -/
inductive CodeKey where
  | run (id : Nat)
  | launch (id : Nat)
  | slot (n : Nat)
  | tail (v : Nat)
  deriving DecidableEq, Repr

/-! ### The device -/

/-- The device. -/
structure State where
  now : Nat                            -- ps since reset; %time is now / 1000
  tape : List Move                     -- what happens next (log entry 2)
  evt : EvArgs                         -- operands of the event being performed
  cur : Option Nat                     -- the wave whose clause is in execution
  nextId : Nat                         -- numbers given to requests, operations, waves and fault sets
  runCounter : Word                    -- the %graphrun counter (R47)
  waves : List Wave
  reqs : List Req                      -- requests in flight, oldest first
  runs : List Run
  launches : List Launch
  slots : List Slot
  mem : Mem                            -- HBM and the host window by physical address
  ways : List WayLine                  -- the lines in the slices' cache ways
  poisoned : List Nat                  -- poisoned lines (R345)
  code : List (CodeKey × Nat × List Byte)  -- lines written since a launching release, with their bytes at it (R99)
  codeKeys : List CodeKey              -- launches and jobs that wait, for which lines are kept
  imem : List ImemLine
  l1 : List L1Line
  tlb : List TlbEntry
  shorts : List ShortLine
  marks : List Mark                    -- newest first (R107)
  keystones : List Keystone
  reductions : List Reduction
  seqs : List (Nat × Nat × Nat)        -- source, home, next sequence number (R21)
  ashlars : List Ashlar
  courses : List Course
  dies : List Die
  link : Link
  host : HostRegs
  plumb : Plumb
  window : Nat                         -- number of the 100 µs window (R58)
  free : Nat                           -- counter of free values, the model's own (log entry 7)
  deriving DecidableEq, Repr

/-- Why the machine stops. -/
inductive Fault where
  /-- Raised by no meaning of the modelled device: every fault of the spec is a trap, a record or a
  status (Table 16-1, Tables 18-1 to 18-4). Kept for the host's interface. Safe. -/
  | none
  deriving DecidableEq, Repr

/-- Why a step has no meaning. -/
inductive Refusal where
  /-- The instruction has no meaning yet. Raised by Dispatch only. Safe. -/
  | notModelled (mnemonic : String)
  /-- An instruction word is executed only as a word of a clause in execution (R74, R147); raised by
  the meanings of words in a state in which no wave has one. step never executes a word there. Safe. -/
  | noClause
  deriving DecidableEq, Repr

/-! ### Reset -/

/-- A barrier object after reset: IDLE, PH 0 (R221). -/
def Barrier.reset : Barrier := {}

/-- An ashlar after reset. -/
def Ashlar.reset : Ashlar where
  barriers := List.replicate 16 Barrier.reset
  bins := List.replicate 64 none
  pmc := List.replicate 15 0
  pmcsel := List.replicate 15 0

/-- A course after reset: point 4, budget 2,048 (Table 15-2). -/
def Course.reset : Course where
  tiles := List.replicate 4 {}

/-- Slice n of a die after reset (Table 4-8). -/
def Slice.reset (n : Nat) : Slice where
  queue := if n < 12 then 0 else 8
  cache := if n < 12 then 16 else 8
  now := (List.range 16).map fun b => if n < 12 ∨ b < 8 then .cache else .queue

/-- A die after reset. -/
def Die.reset : Die where
  slices := (List.range 16).map Slice.reset

/-- The link after reset: split 8 (R23). -/
def Link.reset : Link where
  groups := (List.range 16).map fun g => { aToB := g < 8 }

/-- The device right after reset: STATE 0 (R299), every register at the value the spec states, no job
submitted. Log entry 8 says how a program comes to run from here. -/
def State.reset : State where
  now := 0
  tape := []
  evt := {}
  cur := none
  nextId := 1
  runCounter := 1
  waves := []
  reqs := []
  runs := []
  launches := []
  slots := List.replicate 64 {}
  mem := []
  ways := []
  poisoned := []
  code := []
  codeKeys := []
  imem := []
  l1 := []
  tlb := []
  shorts := []
  marks := []
  keystones := []
  reductions := []
  seqs := []
  ashlars := List.replicate 128 Ashlar.reset
  courses := List.replicate 16 Course.reset
  dies := [Die.reset, Die.reset]
  link := Link.reset
  host := {}
  plumb := { m := List.replicate 32 0 }
  window := 0
  free := 0

end Sys2Proof.Machine
end

