-- ==== Sys2Proof/Machine/Mem.lean ====
section
/-! DEFINITION. Memory as a canonical list of cells: one byte, several bytes little-endian (R4), and the
predicate that says the form holds. -/

namespace Sys2Proof.Machine

/-- The byte at an address; an unlisted address reads zero (log entry 1). -/
def Mem.read : Mem → Nat → Byte
  | [], _ => 0
  | (k, b) :: t, a => if k = a then b else if a < k then 0 else Mem.read t a

/-- Writing one byte; zero removes the entry. -/
def Mem.write : Mem → Nat → Byte → Mem
  | [], a, x => if x = 0 then [] else [(a, x)]
  | (k, b) :: t, a, x =>
    if k = a then (if x = 0 then t else (k, x) :: t)
    else if a < k then (if x = 0 then (k, b) :: t else (a, x) :: (k, b) :: t)
    else (k, b) :: Mem.write t a x

/-- n bytes from an address, ascending. -/
def Mem.readN (m : Mem) (a : Nat) : Nat → List Byte
  | 0 => []
  | n + 1 => m.read a :: Mem.readN m (a + 1) n

/-- Writing bytes from an address on, ascending. -/
def Mem.writeN (m : Mem) (a : Nat) : List Byte → Mem
  | [] => m
  | b :: bs => Mem.writeN (m.write a b) (a + 1) bs

/-- The little-endian number of n bytes at an address. -/
def Mem.readNat (m : Mem) (a n : Nat) : Nat := ofBytes (m.readN a n)

/-- Zeros in n bytes from an address. -/
def Mem.clear (m : Mem) (a n : Nat) : Mem := m.filter fun c => !(decide (a ≤ c.1) && decide (c.1 < a + n))

/-- Addresses rise strictly from a lower bound and no entry is zero. -/
def Mem.wfFrom : Nat → Mem → Bool
  | _, [] => true
  | lo, (k, b) :: t => decide (lo ≤ k) && b != 0 && Mem.wfFrom (k + 1) t

/-- The canonical form. -/
def Mem.wf (m : Mem) : Bool := Mem.wfFrom 0 m

end Sys2Proof.Machine
end

