-- ==== Sys2Proof/Machine/Num.lean ====
section
/-! DEFINITION. Number formats and arithmetic (spec 06_numbers.md): encodings, exact values as a sign,
a mantissa and a power of two, RoundTo, special values, the float operations of one element and the
conversions. Every function answers the result's bits and the flags it raises. -/

namespace Sys2Proof.Machine

/-- %fpflags bits (Table 6-5). -/
abbrev Flags := BitVec 6
/-- NV, an invalid operation. -/
def fNV : Flags := 1
/-- DZ, an exact infinity from a finite operand. -/
def fDZ : Flags := 2
/-- OF. -/
def fOF : Flags := 4
/-- UF. -/
def fUF : Flags := 8
/-- NX. -/
def fNX : Flags := 16
/-- DN, a subnormal input read as zero. -/
def fDN : Flags := 32

/-- A number format (Table 6-1): exponent bits, fraction bits and which special encodings it has. -/
inductive Fmt where
  | f32 | f16 | bf16 | e4m3 | e5m2 | e2m1
  deriving DecidableEq, Repr

/-- Width of the exponent field. -/
def Fmt.ebits : Fmt → Nat
  | .f32 | .bf16 => 8
  | .f16 | .e5m2 => 5
  | .e4m3 => 4
  | .e2m1 => 2

/-- Width M of the fraction field. -/
def Fmt.mbits : Fmt → Nat
  | .f32 => 23
  | .f16 => 10
  | .bf16 => 7
  | .e4m3 => 3
  | .e5m2 => 2
  | .e2m1 => 1

/-- Exponent bias. -/
def Fmt.bias : Fmt → Int
  | .f32 | .bf16 => 127
  | .f16 | .e5m2 => 15
  | .e4m3 => 7
  | .e2m1 => 1

/-- Bits of an encoding. -/
def Fmt.width (f : Fmt) : Nat := 1 + f.ebits + f.mbits

/-- Encoding of the largest finite value, sign clear. -/
def Fmt.maxFinite : Fmt → Nat
  | .f32 => 0x7F7FFFFF
  | .f16 => 0x7BFF
  | .bf16 => 0x7F7F
  | .e4m3 => 0x7E
  | .e5m2 => 0x7B
  | .e2m1 => 0x7

/-- Canonical NaN (R131); E2M1 has none and gives zero. -/
def Fmt.qnan : Fmt → Nat
  | .f32 => 0x7FC00000
  | .f16 => 0x7E00
  | .bf16 => 0x7FC0
  | .e4m3 => 0x7F
  | .e5m2 => 0x7E
  | .e2m1 => 0

/-- Encoding of +∞ where the format has one (Table 6-1). -/
def Fmt.infBits : Fmt → Nat
  | .f32 => 0x7F800000
  | .f16 => 0x7C00
  | .bf16 => 0x7F80
  | .e5m2 => 0x7C
  | .e4m3 => 0x7E
  | .e2m1 => 0x7

/-- The sign bit's weight. -/
def Fmt.signBit (f : Fmt) : Nat := 2 ^ (f.ebits + f.mbits)

/-- Whether FZ governs the format (R129). -/
def Fmt.flushes : Fmt → Bool
  | .f32 | .f16 | .bf16 => true
  | _ => false

/-- A decoded value: a finite one is (−1)^neg × m × 2^e. -/
inductive FVal where
  | nan (signalling : Bool)
  | inf (neg : Bool)
  | fin (neg : Bool) (m : Nat) (e : Int)
  deriving DecidableEq, Repr

/-- The value of an encoding (R123, Table 6-1). -/
def Fmt.unpack (f : Fmt) (x : Nat) : FVal :=
  let fr := x % 2 ^ f.mbits
  let ex := x / 2 ^ f.mbits % 2 ^ f.ebits
  let neg := x / f.signBit % 2 == 1
  let top := 2 ^ f.ebits - 1
  let special : Option FVal :=
    match f with
    | .e2m1 => none
    | .e4m3 => if ex == top && fr == 7 then some (.nan false) else none
    | .e5m2 => if ex == top then some (if fr == 0 then .inf neg else .nan false) else none
    | _ => if ex == top then some (if fr == 0 then .inf neg else .nan (fr < 2 ^ (f.mbits - 1))) else none
  match special with
  | some v => v
  | none =>
    if ex == 0 then .fin neg fr (1 - f.bias - f.mbits)
    else .fin neg (fr + 2 ^ f.mbits) ((ex : Int) - f.bias - f.mbits)

/-- Rounding modes (Table 7-1). -/
inductive Rm where
  | rne | rtz | rdn | rup
  deriving DecidableEq, Repr

/-- The RM field. -/
def rmOf : Nat → Rm
  | 0 => .rne
  | 1 => .rtz
  | 2 => .rdn
  | _ => .rup

/-- Whether a magnitude whose quotient is q with remainder r of d rounds up. -/
def Rm.up (rm : Rm) (neg : Bool) (q r d : Nat) : Bool :=
  match rm with
  | .rne => decide (d < 2 * r) || (d == 2 * r && q % 2 == 1)
  | .rtz => false
  | .rdn => neg && r != 0
  | .rup => !neg && r != 0

/-- An encoding with its sign. -/
def Fmt.signed (f : Fmt) (neg : Bool) (x : Nat) : Nat := if neg then f.signBit + x else x

/-- Result of an overflow (Table 6-4). -/
def Fmt.overflow (f : Fmt) (rm : Rm) (neg : Bool) : Nat :=
  match f with
  | .e4m3 => f.signed neg 0x7F
  | .e2m1 => f.signed neg 0x7
  | _ =>
    let toInf := match rm with
      | .rne => true
      | .rtz => false
      | .rdn => neg
      | .rup => !neg
    f.signed neg (if toInf then f.infBits else f.maxFinite)

/-- RoundTo (R128) of the non-zero exact value (−1)^neg × m × 2^e. -/
def Fmt.round (f : Fmt) (rm : Rm) (fz neg : Bool) (m : Nat) (e : Int) : Nat × Flags :=
  let emin := 1 - f.bias
  let lg := Nat.log2 m
  let q : Int := max (e + lg - f.mbits) (emin - f.mbits)
  let (quot, exact, up) : Nat × Bool × Bool :=
    if q ≤ e then (m * 2 ^ (e - q).toNat, true, false)
    else
      let sh := (q - e).toNat
      if lg + 2 < sh then (0, false, rm.up neg 0 1 4)
      else
        let d := 2 ^ sh
        (m / d, m % d == 0, rm.up neg (m / d) (m % d) d)
  let mant := if up then quot + 1 else quot
  -- the encoding grows with the magnitude, across the step to the next exponent too
  let biased := (q + f.mbits + f.bias).toNat
  let enc := if mant < 2 ^ f.mbits then mant else (biased - 1) * 2 ^ f.mbits + mant
  if f.maxFinite < enc then (f.overflow rm neg, fOF ||| fNX)
  else
    let tiny := enc < 2 ^ f.mbits
    let fl : Flags := if exact then 0 else if tiny && enc != 0 then fNX ||| fUF else fNX
    if fz && f.flushes && tiny && enc != 0 then (f.signed neg 0, fl ||| fUF ||| fNX)
    else (f.signed neg enc, fl)

/-- RoundTo of z × 2^e for an integer z; a zero takes the sign given. -/
def Fmt.roundInt (f : Fmt) (rm : Rm) (fz : Bool) (z : Int) (e : Int) (zeroNeg : Bool) : Nat × Flags :=
  if z = 0 then (f.signed zeroNeg 0, 0) else f.round rm fz (z < 0) z.natAbs e

/-- RoundTo of the non-zero ratio num / den × 2^e: enough quotient bits and a sticky bit. -/
def Fmt.roundRatio (f : Fmt) (rm : Rm) (fz neg : Bool) (num den : Nat) (e : Int) : Nat × Flags :=
  let k := f.mbits + 4 + (Nat.log2 den + 1) - Nat.log2 num
  let n := num * 2 ^ k
  let q := n / den
  let s := if n % den == 0 then 0 else 1
  f.round rm fz neg (2 * q + s) (e - k - 1)

/-- An input read under FZ (R129, R131): its value and the flags reading it raises. -/
def Fmt.input (f : Fmt) (fz : Bool) (x : Nat) : FVal × Flags :=
  match f.unpack x with
  | .nan s => (.nan s, if s then fNV else 0)
  | .fin neg m e =>
    if fz && f.flushes && m != 0 && decide (m < 2 ^ f.mbits) then (.fin neg 0 e, fDN) else (.fin neg m e, 0)
  | v => (v, 0)

/-- A finite value's signed mantissa. -/
def sgn (neg : Bool) (m : Nat) : Int := if neg then -(m : Int) else m

/-- Exact sum of two dyadic numbers. -/
def dyAdd (z1 e1 z2 e2 : Int) : Int × Int :=
  let e := min e1 e2
  (z1 * 2 ^ (e1 - e).toNat + z2 * 2 ^ (e2 - e).toNat, e)

/-- Sign of an exact zero sum (IEEE 754). -/
def zeroSum (rm : Rm) (neg1 neg2 : Bool) : Bool :=
  if neg1 == neg2 then neg1 else rm == .rdn

/-- Sum of two values, one rounding. -/
def Fmt.addV (f : Fmt) (rm : Rm) (fz : Bool) (a b : FVal) : Nat × Flags :=
  match a, b with
  | .nan _, _ => (f.qnan, 0)
  | _, .nan _ => (f.qnan, 0)
  | .inf s, .inf t => if s == t then (f.signed s f.infBits, 0) else (f.qnan, fNV)
  | .inf s, _ => (f.signed s f.infBits, 0)
  | _, .inf t => (f.signed t f.infBits, 0)
  | .fin n1 m1 e1, .fin n2 m2 e2 =>
    let (z, e) := dyAdd (sgn n1 m1) e1 (sgn n2 m2) e2
    f.roundInt rm fz z e (zeroSum rm n1 n2)

/-- The exact product of two values; none is 0 × ∞. -/
def mulV (a b : FVal) : Option FVal :=
  match a, b with
  | .nan _, _ => some (.nan false)
  | _, .nan _ => some (.nan false)
  | .inf s, .inf t => some (.inf (s != t))
  | .inf s, .fin t m _ => if m = 0 then none else some (.inf (s != t))
  | .fin s m _, .inf t => if m = 0 then none else some (.inf (s != t))
  | .fin s m e, .fin t n g => some (.fin (s != t) (m * n) (e + g))

/-- Negation. -/
def FVal.neg : FVal → FVal
  | .nan s => .nan s
  | .inf s => .inf (!s)
  | .fin s m e => .fin (!s) m e

/-- FADD and FSUB (R193). -/
def Fmt.add (f : Fmt) (rm : Rm) (fz sub : Bool) (a c : Nat) : Nat × Flags :=
  let (va, fa) := f.input fz a
  let (vc, fc) := f.input fz c
  let (r, fl) := f.addV rm fz va (if sub then vc.neg else vc)
  (r, fl ||| fa ||| fc)

/-- FMUL (R193). -/
def Fmt.mul (f : Fmt) (rm : Rm) (fz : Bool) (a c : Nat) : Nat × Flags :=
  let (va, fa) := f.input fz a
  let (vc, fc) := f.input fz c
  match mulV va vc with
  | none => (f.qnan, fNV ||| fa ||| fc)
  | some (.nan _) => (f.qnan, fa ||| fc)
  | some (.inf s) => (f.signed s f.infBits, fa ||| fc)
  | some (.fin s m e) =>
    let (r, fl) := if m = 0 then (f.signed s 0, 0) else f.round rm fz s m e
    (r, fl ||| fa ||| fc)

/-- FFMA and FFNMA (R133): ±(a × c) + d with one rounding. -/
def Fmt.fma (f : Fmt) (rm : Rm) (fz negProd : Bool) (a c d : Nat) : Nat × Flags :=
  let (va, fa) := f.input fz a
  let (vc, fc) := f.input fz c
  let (vd, fd) := f.input fz d
  match mulV va vc with
  | none => (f.qnan, fNV ||| fa ||| fc ||| fd)
  | some p =>
    let (r, fl) := f.addV rm fz (if negProd then p.neg else p) vd
    (r, fl ||| fa ||| fc ||| fd)

/-- FDOT2 (R133): two exact products of the pair type summed and rounded to F32, then the accumulator. -/
def Fmt.dot2 (f : Fmt) (rm : Rm) (fz : Bool) (a0 a1 c0 c1 acc : Nat) : Nat × Flags :=
  let (va0, g0) := f.input fz a0
  let (va1, g1) := f.input fz a1
  let (vc0, g2) := f.input fz c0
  let (vc1, g3) := f.input fz c1
  let (t, ft) : Nat × Flags :=
    match mulV va0 vc0, mulV va1 vc1 with
    | some p, some q => Fmt.f32.addV rm fz p q
    | _, _ => (Fmt.f32.qnan, fNV)
  let (r, fr) := Fmt.f32.add rm fz false t acc
  (r, ft ||| fr ||| g0 ||| g1 ||| g2 ||| g3)

/-- Order of two non-NaN values as exact numbers; zeros compare equal. -/
def FVal.lt (a b : FVal) : Bool :=
  match a, b with
  | .inf s, .inf t => s && !t
  | .inf s, _ => s
  | _, .inf t => !t
  | .fin n1 m1 e1, .fin n2 m2 e2 => (dyAdd (sgn n1 m1) e1 (-(sgn n2 m2)) e2).1 < 0
  | _, _ => false

/-- Equality of two non-NaN values as numbers. -/
def FVal.eqv (a b : FVal) : Bool := !a.lt b && !b.lt a

/-- A value is negative, zero included. -/
def FVal.isNeg : FVal → Bool
  | .nan _ => false
  | .inf s => s
  | .fin s _ _ => s

/-- Whether a value is a NaN. -/
def FVal.isNan : FVal → Bool
  | .nan _ => true
  | _ => false

/-- The encoding of an operand after FZ: a flushed subnormal is the zero of its sign. -/
def Fmt.flushed (f : Fmt) (fz : Bool) (x : Nat) : Nat :=
  match f.input fz x with
  | (.fin neg 0 _, _) => f.signed neg 0
  | _ => x

/-- FMIN and FMAX (R132). -/
def Fmt.minmax (f : Fmt) (fz isMax : Bool) (a c : Nat) : Nat × Flags :=
  let (va, fa) := f.input fz a
  let (vc, fc) := f.input fz c
  let fl := fa ||| fc
  let xa := f.flushed fz a
  let xc := f.flushed fz c
  if va.isNan && vc.isNan then (f.qnan, fl)
  else if va.isNan then (xc, fl)
  else if vc.isNan then (xa, fl)
  else
    let aLess := va.lt vc || (va.eqv vc && va.isNeg && !vc.isNeg)
    (if aLess != isMax then xa else xc, fl)

/-- FSCALE (R193): a × 2^n, rounded once. -/
def Fmt.scale (f : Fmt) (rm : Rm) (fz : Bool) (a : Nat) (n : Int) : Nat × Flags :=
  match f.input fz a with
  | (.nan _, fl) => (f.qnan, fl)
  | (.inf s, fl) => (f.signed s f.infBits, fl)
  | (.fin s m e, fl) =>
    let (r, fr) := if m = 0 then (f.signed s 0, 0) else f.round rm fz s m (e + n)
    (r, fl ||| fr)

/-- An exact value rounded to an integer in a direction, as a magnitude. -/
def integral (rm : Rm) (neg : Bool) (m : Nat) (e : Int) : Nat × Bool :=
  if 0 ≤ e then (m * 2 ^ e.toNat, true)
  else
    let sh := (-e).toNat
    if Nat.log2 m + 2 < sh then (if rm.up neg 0 (if m = 0 then 0 else 1) 4 then 1 else 0, m == 0)
    else
      let d := 2 ^ sh
      (if rm.up neg (m / d) (m % d) d then m / d + 1 else m / d, m % d == 0)

/-- FRND's FLOOR, CEIL, TRUNC and RINT (Table 9-3); RINT alone raises NX. -/
def Fmt.toIntegral (f : Fmt) (dir : Rm) (nx fz : Bool) (a : Nat) : Nat × Flags :=
  match f.input fz a with
  | (.nan _, fl) => (f.qnan, fl)
  | (.inf s, fl) => (f.signed s f.infBits, fl)
  | (.fin s m e, fl) =>
    if 0 ≤ e then (f.flushed fz a, fl)
    else
      let (z, exact) := integral dir s m e
      let r := if z = 0 then f.signed s 0 else (f.round .rne false s z 0).1
      (r, if nx && !exact then fl ||| fNX else fl)

/-- FRACT (R195): a − FLOOR(a) rounded towards zero. -/
def Fmt.fract (f : Fmt) (fz : Bool) (a : Nat) : Nat × Flags :=
  match f.input fz a with
  | (.nan _, fl) => (f.qnan, fl)
  | (.inf _, fl) => (f.qnan, fl ||| fNV)
  | (.fin s m e, fl) =>
    if 0 ≤ e then (0, fl)
    else
      let (z, _) := integral .rdn s m e
      let (d, g) := dyAdd (sgn s m) e (-(sgn s z)) 0
      let (r, fr) := f.roundInt .rtz fz d g false
      (r, fl ||| fr)

/-- FCLASS (Table 9-5). -/
def Fmt.classify (f : Fmt) (x : Nat) : Nat :=
  match f.unpack x with
  | .nan true => 1
  | .nan false => 2
  | .inf true => 4
  | .inf false => 512
  | .fin neg m _ =>
    if m = 0 then (if neg then 32 else 64)
    else if m < 2 ^ f.mbits then (if neg then 16 else 128)
    else if neg then 8 else 256

/-- FSAT (Table 9-4): clamped to [+0, 1.0]. -/
def Fmt.sat (f : Fmt) (fz : Bool) (a : Nat) : Nat × Flags :=
  let one := f.bias.toNat * 2 ^ f.mbits
  match f.input fz a with
  | (.nan _, fl) => (0, fl)
  | (.inf s, fl) => (if s then 0 else one, fl)
  | (.fin s m e, fl) =>
    if s || m = 0 then (0, fl)
    else if FVal.lt (.fin false 1 0) (.fin false m e) then (one, fl) else (f.flushed fz a, fl)

/-- FCMP on one element (Table 9-6). -/
def Fmt.compare (f : Fmt) (fz : Bool) (cond a c : Nat) : Bool × Flags :=
  let (va, fa) := f.input fz a
  let (vc, fc) := f.input fz c
  let fl := fa ||| fc
  if va.isNan || vc.isNan then
    let r := cond == 1 || cond == 7
    (r, if 2 ≤ cond && cond ≤ 5 then fl ||| fNV else fl)
  else
    let r := match cond with
      | 0 => va.eqv vc
      | 1 => !va.eqv vc
      | 2 => va.lt vc
      | 3 => !vc.lt va
      | 4 => vc.lt va
      | 5 => !va.lt vc
      | 6 => true
      | _ => false
    (r, fl)

/-! ### Conversions (R137 to R140) -/

/-- A float of one format to another float format with infinities (codes 0 to 3, 6, 7, 9). -/
def convFloat (src dst : Fmt) (rm : Rm) (fz sat : Bool) (x : Nat) : Nat × Flags :=
  match src.input fz x with
  | (.nan _, fl) => (dst.qnan, fl)
  | (.inf s, fl) => (dst.signed s (if sat then dst.maxFinite else dst.infBits), fl)
  | (.fin s m e, fl) =>
    if m = 0 then (dst.signed s 0, fl)
    else
      let (r, fr) := dst.round rm fz s m e
      if sat && fr &&& fOF != 0 then (dst.signed s dst.maxFinite, fl ||| fr) else (r, fl ||| fr)

/-- F32 to E4M3, E5M2 or E2M1 (R138); E2M1 always saturates. -/
def convNarrow (dst : Fmt) (rm : Rm) (fz sat : Bool) (x : Nat) : Nat × Flags :=
  match Fmt.f32.input fz x with
  | (.nan s, fl) =>
    if dst == .e2m1 then (0, fl ||| fNV)
    else (dst.qnan, if sat || s then fl ||| fNV else fl)
  | (.inf s, fl) =>
    match dst with
    | .e2m1 => (dst.signed s 7, fl ||| fOF)
    | .e4m3 => if sat then (dst.signed s dst.maxFinite, fl) else (dst.signed s 0x7F, fl ||| fOF)
    | _ => (dst.signed s (if sat then dst.maxFinite else dst.infBits), fl)
  | (.fin s m e, fl) =>
    if m = 0 then (dst.signed s 0, fl)
    else
      let (r, fr) := dst.round rm false s m e
      if (sat || dst == .e2m1) && fr &&& fOF != 0 then (dst.signed s dst.maxFinite, fl ||| fr)
      else (r, fl ||| fr)

/-- F32 to I32 (lo = −2^31) or N32 (lo = 0) under RM (R140). FZ reads a subnormal input as zero, as R129 has it for every input
(DEDUCED, log entry 71). -/
def convToInt (signed : Bool) (rm : Rm) (fz sat : Bool) (x : Nat) : Nat × Flags :=
  let lo : Int := if signed then -(2 ^ 31) else 0
  let hi : Int := if signed then 2 ^ 31 - 1 else 2 ^ 32 - 1
  let bad : Nat := if signed then 0x80000000 else 0xFFFFFFFF
  let wrap (z : Int) : Nat := (z % 2 ^ 32).toNat
  match Fmt.f32.input fz x with
  | (.nan _, _) => (if sat then 0 else bad, fNV)
  | (.inf s, _) => if sat then (wrap (if s then lo else hi), fNX) else (bad, fNV)
  | (.fin s m e, fl) =>
    let (z, exact) := integral rm s m e
    let n := sgn s z
    if lo ≤ n && n ≤ hi then (wrap n, fl ||| if exact then 0 else fNX)
    else if sat then (wrap (if n < lo then lo else hi), fNX)
    else (bad, fNV)

/-- I32 or N32 to F32 (codes 12, 13). -/
def convFromInt (signed : Bool) (rm : Rm) (x : Nat) : Nat × Flags :=
  let z : Int := if signed && 2 ^ 31 ≤ x then (x : Int) - 2 ^ 32 else x
  Fmt.f32.roundInt rm false z 0 false

/-- F32 to E8M0 (R139). FZ reads a subnormal input as zero (R129; DEDUCED, log entry 71). -/
def convToE8M0 (fz : Bool) (x : Nat) : Nat × Flags :=
  match Fmt.f32.input fz x with
  | (.nan _, _) => (0xFF, fNV)
  | (.inf _, _) => (0xFE, fOF)
  | (.fin _ m _, fl) =>
    let ex := x / 2 ^ 23 % 256
    if ex == 0 then (0, fl ||| if m == 2 ^ 22 then 0 else fNX)
    else (ex, if m == 2 ^ 23 then 0 else fNX)

/-- E8M0 to F32 (code 19). -/
def convFromE8M0 (fz : Bool) (x : Nat) : Nat × Flags :=
  if x == 0xFF then (Fmt.f32.qnan, 0)
  else Fmt.f32.round .rne fz false 1 ((x : Int) - 127)

/-- An integer clamped or wrapped to 8 bits (codes 14, 15). -/
def convToByte (signed sat : Bool) (x : Nat) : Nat :=
  let z : Int := if 2 ^ 31 ≤ x then (x : Int) - 2 ^ 32 else x
  let lo : Int := if signed then -128 else 0
  let hi : Int := if signed then 127 else 255
  if sat then ((if z < lo then lo else if hi < z then hi else z) % 256).toNat else x % 256

/-- Conversion by code (Table 6-8). -/
def convert (code : Nat) (rm : Rm) (fz sat : Bool) (x : Nat) : Nat × Flags :=
  match code with
  | 0 => convFloat .f32 .f16 rm fz sat x
  | 1 => convFloat .f32 .bf16 rm fz sat x
  | 2 => convFloat .f16 .f32 rm fz false x
  | 3 => convFloat .bf16 .f32 rm fz false x
  | 4 => convNarrow .e4m3 rm fz sat x
  | 5 => convNarrow .e5m2 rm fz sat x
  | 6 => convFloat .e4m3 .f32 rm false false x
  | 7 => convFloat .e5m2 .f32 rm false false x
  | 8 => convNarrow .e2m1 rm fz true x
  | 9 => convFloat .e2m1 .f32 rm false false x
  | 10 => convToInt true rm fz sat x
  | 11 => convToInt false rm fz sat x
  | 12 => convFromInt true rm x
  | 13 => convFromInt false rm x
  | 14 => (convToByte true sat x, 0)
  | 15 => (convToByte false sat x, 0)
  | 16 => (((BitVec.ofNat 8 x).signExtend 32).toNat, 0)
  | 17 => (x % 256, 0)
  | 18 => convToE8M0 fz x
  | _ => convFromE8M0 fz x

end Sys2Proof.Machine
end

