-- ==== Sys2Proof/Machine/Ops.lean ====
section
/-! DEFINITION. Named operations over the state: waves, lanes and their registers, the context of the word
in execution, results and their visibility (R152), variable-latency operations (R153), and raising
faults (R309 to R313, R328 to R331). -/

namespace Sys2Proof.Machine

/-- What a meaning answers. -/
abbrev Out := Host.Outcome State Fault Refusal

/-! ### Lists -/

/-- Distinct elements in order of first occurrence. -/
def nub {α : Type} [BEq α] (l : List α) : List α :=
  l.foldl (fun acc x => if acc.contains x then acc else acc ++ [x]) []

/-- The least key's element, the first among equals. -/
def argMin {α : Type} (key : α → Nat) : List α → Option α
  | [] => none
  | x :: xs => match argMin key xs with
    | none => some x
    | some y => if key y < key x then some y else some x

/-- Sum of a list of numbers under a function. -/
def sumBy {α : Type} (f : α → Nat) (l : List α) : Nat := l.foldl (fun n x => n + f x) 0

/-- Updates the elements that satisfy a test. -/
def updWhere {α : Type} (p : α → Bool) (f : α → α) (l : List α) : List α :=
  l.map fun x => if p x then f x else x

/-! ### Waves, runs, ashlars -/

/-- The wave with a number. -/
def State.wave? (s : State) (id : Nat) : Option Wave := s.waves.find? (·.id == id)

/-- Replaces the wave with the same number. -/
def State.setWave (s : State) (w : Wave) : State :=
  { s with waves := updWhere (·.id == w.id) (fun _ => w) s.waves }

/-- Changes the wave with a number. -/
def State.modWave (s : State) (id : Nat) (f : Wave → Wave) : State :=
  { s with waves := updWhere (·.id == id) f s.waves }

/-- Requests the saves or the restores of the waves named, which are one request (R73). -/
def State.requestAll (s : State) (p : Wave → Bool) : State :=
  { s with nextId := s.nextId + 1, waves := s.waves.map fun w => if p w then { w with saveSeq := s.nextId } else w }

/-- Whether a wave's context is on its ashlar and no save of it has been asked for. -/
def Wave.unasked (w : Wave) : Bool := w.stat == .resident || w.stat == .waiting

/-- The live run with an identifier. -/
def State.run? (s : State) (id : Nat) : Option Run := s.runs.find? (·.id == id)

/-- Changes a run. -/
def State.modRun (s : State) (id : Nat) (f : Run → Run) : State :=
  { s with runs := updWhere (·.id == id) f s.runs }

/-- Node n of a run. -/
def Run.node? (r : Run) (n : Nat) : Option Node := r.nodes[n]?

/-- Node n of the run with an identifier. -/
def State.node? (s : State) (run n : Nat) : Option Node := (s.run? run).bind (·.node? n)

/-- A job slot. -/
def State.slot (s : State) (n : Nat) : Slot := s.slots.getD n {}

/-- Changes a job slot. -/
def State.modSlot (s : State) (n : Nat) (f : Slot → Slot) : State := { s with slots := s.slots.modify n f }

/-- An ashlar by its identifier (R14). -/
def State.ashlar (s : State) (a : Nat) : Ashlar := s.ashlars.getD a Ashlar.reset

/-- Changes an ashlar. -/
def State.modAshlar (s : State) (a : Nat) (f : Ashlar → Ashlar) : State :=
  { s with ashlars := s.ashlars.modify a f }

/-- A course by its device-wide number. -/
def State.course (s : State) (c : Nat) : Course := s.courses.getD c Course.reset

/-- Changes a course. -/
def State.modCourse (s : State) (c : Nat) (f : Course → Course) : State :=
  { s with courses := s.courses.modify c f }

/-- A die. -/
def State.die (s : State) (d : Nat) : Die := s.dies.getD d Die.reset

/-- Changes a die. -/
def State.modDie (s : State) (d : Nat) (f : Die → Die) : State := { s with dies := s.dies.modify d f }

/-- A slice of a die. -/
def State.slice (s : State) (d n : Nat) : Slice := (s.die d).slices.getD n (Slice.reset n)

/-- Changes a slice. -/
def State.modSlice (s : State) (d n : Nat) (f : Slice → Slice) : State :=
  s.modDie d fun x => { x with slices := x.slices.modify n f }

/-- Course of an ashlar, device-wide (R14): identifier bits [6:3]. -/
def courseOf (ashlar : Nat) : Nat := ashlar / 8

/-- Die of an ashlar (R14): identifier bit 6. -/
def dieOf (ashlar : Nat) : Nat := ashlar / 64

/-- Whether a wave is a control thread. -/
def Wave.isThread (w : Wave) : Bool := w.width == 0

/-- Positions of the wave's lanes: W, or 1 for a control thread's pseudo-lane. -/
def Wave.lanesN (w : Wave) : Nat := w.lanes.length

/-- A lane. -/
def Wave.lane (w : Wave) (l : Nat) : Lane := w.lanes.getD l {}

/-- Changes a lane. -/
def Wave.modLane (w : Wave) (l : Nat) (f : Lane → Lane) : Wave := { w with lanes := w.lanes.modify l f }

/-- Changes the lanes of a mask. -/
def Wave.modLanes (w : Wave) (m : Mask) (f : Lane → Lane) : Wave :=
  { w with lanes := w.lanes.mapIdx fun i x => if laneBit m i then f x else x }

/-- The lanes that satisfy a test. -/
def Wave.maskWhere (w : Wave) (p : Lane → Bool) : Mask :=
  maskOf ((List.range w.lanesN).filter fun i => p (w.lane i))

/-- A scalar register. -/
def Wave.sreg (w : Wave) (n : Nat) : DWord := w.s.getD n 0

/-- A constant register. -/
def Wave.kreg (w : Wave) (n : Nat) : DWord := w.k.getD n 0

/-- Vector register r of lane l; in a control thread half of a scalar (R163). -/
def Wave.vreg (w : Wave) (l r : Nat) : Word :=
  if w.isThread then (w.sreg (r / 2) >>> (32 * (r % 2))).setWidth 32
  else (w.lane l).v.getD r 0

/-- Predicate n of lane l; P(0) is true (R157). -/
def Wave.pred (w : Wave) (l n : Nat) : Bool := n == 0 || (w.lane l).p.getLsbD n

/-- Half h of a doubleword replaced. -/
def putHalf (x : DWord) (h : Nat) (y : Word) : DWord :=
  let m : DWord := (0xFFFFFFFF : DWord) <<< (32 * h)
  (x &&& ~~~m) ||| (y.setWidth 64 <<< (32 * h))

/-- A bit of a predicate byte replaced. -/
def putBit (x : BitVec 8) (n : Nat) (b : Bool) : BitVec 8 :=
  let m : BitVec 8 := 1 <<< n
  if b then x ||| m else x &&& ~~~m

/-- Writes one destination of a lane that has not been killed. -/
def Wave.write (w : Wave) : Dst → Wave
  | .vreg l r x =>
    if w.isThread then { w with s := w.s.modify (r / 2) fun y => putHalf y (r % 2) x }
    else w.modLane l fun n => { n with v := n.v.set r x }
  | .pred l n b => if n == 0 then w else w.modLane l fun x => { x with p := putBit x.p n b }
  | .sreg n x => { w with s := w.s.set n x }

/-- Writes several destinations in order. -/
def Wave.writes (w : Wave) (ds : List Dst) : Wave := ds.foldl Wave.write w

/-! ### The word in execution -/

/-- The word in execution: the state, its wave and its clause. -/
structure Ctx where
  s : State
  w : Wave
  c : Clause

/-- The word in execution, where a wave has a clause in execution. -/
def State.ctx? (s : State) : Option Ctx :=
  match s.cur with
  | none => none
  | some id => match s.wave? id with
    | none => none
    | some w => match w.clause with
      | none => none
      | some c => some ⟨s, w, c⟩

/-- The state with the context's wave and clause put back. -/
def Ctx.done (x : Ctx) : State := x.s.setWave { x.w with clause := some x.c }

/-- The issuing subgroup without the lanes already faulted out (R311). -/
def Ctx.live (x : Ctx) : Mask := x.c.lanes &&& ~~~x.c.out

/-- Active (R8, R157): the lanes of the subgroup whose predicate pr holds. -/
def Ctx.act (x : Ctx) (p : PR) : Mask :=
  if p = 0 then x.live else maskOf ((lanesOf x.live).filter fun l => x.w.pred l p.toNat)

/-- Leader(): the lowest lane of a mask. -/
def leader (m : Mask) : Nat := (lanesOf m).headD 0

/-- Rounding mode of the clause. -/
def Ctx.rm (x : Ctx) : Rm := rmOf x.c.hdr.rm

/-- The clause's float type, and whether it is a pair. -/
def Ctx.fmt (x : Ctx) : Fmt :=
  match x.c.hdr.vt with
  | 0 => .f32
  | 1 => .f16
  | _ => .bf16

/-- Whether the job of the wave has system privilege. -/
def Ctx.sys (x : Ctx) : Bool := (x.s.slot x.w.slot).sys

/-- The clause start after a clause of n words (R147, R150). -/
def nextClause (pc n : Nat) : Nat := pc + (4 * (n + 1) + 15) / 16 * 16

/-- The next sequential clause (R150). -/
def Ctx.seqPc (x : Ctx) : Nat := nextClause x.c.pc x.c.hdr.n

/-- Queues a fixed-latency write (R152): vectors at distance 4, scalars and predicates at distance 2.
A vector name of a control thread is half of a scalar (R163). -/
def Ctx.put (x : Ctx) (d : Dst) : Ctx :=
  let delay := match d with
    | .vreg _ _ _ => if x.w.isThread then 2 else 4
    | _ => 2
  { x with c := { x.c with pend := x.c.pend ++ [⟨x.c.index + delay, d⟩] } }

/-- Queues several fixed-latency writes. -/
def Ctx.puts (x : Ctx) (ds : List Dst) : Ctx := ds.foldl Ctx.put x

/-- Changes the context's wave. -/
def Ctx.modW (x : Ctx) (f : Wave → Wave) : Ctx := { x with w := f x.w }

/-! ### Faults at issue -/

/-- Fault classes (Table 16-1). -/
def cIllegalEncoding : Nat := 1
def cIllegalClause : Nat := 2
def cPrivilege : Nat := 3
def cRegIndex : Nat := 4
def cBudget : Nat := 5
def cBounds : Nat := 6
def cTranslation : Nat := 7
def cProtection : Nat := 8
def cStale : Nat := 9
def cFloat : Nat := 10
def cSection : Nat := 11
def cHardware : Nat := 12
def cWatchdog : Nat := 13
def cTrap : Nat := 14

/-- One lane's issue fault. -/
structure LaneFault where
  lane : Nat
  cls : Nat
  code : Nat := 0
  addr : Nat := 0
  raised : Flags := 0
  late : Bool := false                 -- a late kind that is found before its word can issue: a fetch
  service : Bool := false              -- eligible for system service (R314)

/-- Resume point of a lane whose word faults at issue (R311): the next word; after the last word the next
sequential clause; for a word issued again by TRET the point the lane would have gone on at (R320). -/
def Ctx.resume (x : Ctx) (l : Nat) : Nat × Nat :=
  if x.c.only || x.c.jump.isSome then ((x.w.lane l).pc, (x.w.lane l).idx)
  else if x.c.index + 1 < x.c.hdr.n then (x.c.pc, x.c.index + 1) else (x.seqPc, 0)

/-- Raises issue faults (R310, R311): the lanes form one set, leave the subgroup for the rest of the clause
and are parked at its end. -/
def Ctx.raise (x : Ctx) (amask : Mask) (fs : List LaneFault) : Ctx :=
  if fs.isEmpty then x
  else
    let w := fs.foldl (fun (w : Wave) f =>
      w.modLane f.lane fun n => { n with fault := some {
        set := x.s.nextId, cls := f.cls, code := f.code, index := x.c.index, pc := x.c.pc
        header := x.c.raw, word := x.c.word, amask := amask, addr := f.addr, raised := f.raised, late := f.late, service := f.service
        resumePc := (x.resume f.lane).1, resumeIdx := (x.resume f.lane).2 } }) x.w
    { x with
      w := w
      s := { x.s with nextId := x.s.nextId + 1 }
      c := { x.c with out := x.c.out ||| maskOf (fs.map (·.lane)) } }

/-- One fault class in every lane of a mask. -/
def Ctx.raiseAll (x : Ctx) (m : Mask) (cls : Nat) (code : Nat := 0) (addr : Nat := 0) (raised : Flags := 0) : Ctx :=
  x.raise m ((lanesOf m).map fun l => { lane := l, cls := cls, code := code, addr := addr, raised := raised })

/-- Whether an address-path fault is eligible for system service (R314): TRANSLATION, or PROTECTION from a leaf's permissions,
which is code 1 of pathFault. -/
def pathService (cls code : Nat) : Bool := cls == cTranslation || (cls == cProtection && code == 1)

/-- The code of Table 16-1 of an address-path fault. -/
def pathCode (cls code : Nat) : Nat := if cls = cHardware then code else 0

/-- An address-path fault of every lane of a mask, found as its word is to issue. -/
def Ctx.raisePath (x : Ctx) (m : Mask) (cls code addr : Nat) (late : Bool) : Ctx :=
  x.raise m ((lanesOf m).map fun l =>
    { lane := l, cls := cls, code := pathCode cls code, addr := addr, late := late, service := pathService cls code })

/-- A word that raises ILLEGAL ENCODING: F is the subgroup, AMASK the lanes whose predicate of the word's
bits [2:0] holds (R327). -/
def Ctx.illegal (x : Ctx) : Ctx :=
  x.raise (x.act (x.c.word.setWidth 3))
    ((lanesOf x.live).map fun l => { lane := l, cls := cIllegalEncoding })

/-! ### Checks at issue (Table 17-5) -/

/-- What groups 1 to 3 of Table 17-5 need to know of a word: whether a control thread may execute it
(R331), its pr field, the vector registers it names (R330), privilege (R332) and what else makes it an
illegal encoding in this context. -/
structure Chk where
  ct : Bool := false
  pr : PR := 0
  hasPr : Bool := true
  regs : List (Nat × Nat) := []
  priv : Bool := false
  bad : Ctx → Bool := fun _ => false

/-- Whether a run of registers reaches REGS; a control thread has no check (R330). -/
def Ctx.regsBad (x : Ctx) (rs : List (Nat × Nat)) : Bool :=
  !x.w.isThread && rs.any fun r => decide (x.w.regs < r.1 + r.2)

/-- Issues a word: groups 1 to 3 in order, then its effect with Active; an empty Active has no effect
(R154, R335). -/
def issue (s : State) (k : Chk) (f : Ctx → Mask → Ctx) : Out :=
  match s.ctx? with
  | none => .refused .noClause
  | some x =>
    if (x.w.isThread && (!k.ct || k.pr != 0)) || k.bad x then .next x.illegal.done
    else if k.priv && !x.sys then .next (x.raiseAll x.live cPrivilege).done
    else
      let a := x.act k.pr
      if x.regsBad k.regs then .next (x.raiseAll a cRegIndex).done
      else if a = 0 then .next s
      else .next (f x a).done

/-- Where a lane goes on that gives up an issue fault for a late one: at the word that faulted (R329), or at the start of its clause
(R324). -/
def FaultRec.again (g : FaultRec) : Nat × Nat := if g.cls == cIllegalClause then (g.pc, 0) else (g.pc, g.index)

/-- A late fault of a lane detected (R312): of two from one clause, the one it is parked for included, the lower index is kept; in a
lane parked for an issue fault that is not routed yet, the late fault is the one recorded (R329). served is the set whose service
is under way. Of two from different clauses, of which R329 does not speak, the one detected first is kept while it is not taken,
and the later one is taken after it once it is (DESIGN CHOICE, log entry 21). -/
def Lane.addLate (n : Lane) (served : Option Nat) (f : FaultRec) : Lane :=
  match n.late, n.fault with
  | some g, _ => if g.pc == f.pc && decide (f.index < g.index) then { n with late := some f } else n
  | none, some g =>
    if served == some g.set then { n with late := some f }
    else if g.late then
      if g.pc == f.pc && g.header == f.header then
        if f.index < g.index then { n with fault := some { f with resumePc := g.resumePc, resumeIdx := g.resumeIdx } } else n
      else { n with late := some f }
    else if n.stat == .parked .fault then
      { n with late := some f, fault := none, stat := .run, retry := none, pc := g.again.1, idx := g.again.2 }
    else { n with late := some f }
  | none, none => { n with late := some f }

/-- The fault set of a wave whose service is under way or asked for (R321). -/
def Wave.servedSet (w : Wave) : Option Nat := if w.ticket.isSome || w.svcAsked then some w.svcSet else none

/-! ### Variable-latency operations (R153) -/

/-- A destination as a number: v r, s n or pn. -/
def dstCode : Dst → Nat
  | .vreg _ r _ => r
  | .sreg n _ => 128 + n
  | .pred _ n _ => 192 + n

/-- Adds an outstanding operation for the lanes of a mask: the clause's scoreboard counts it. Answers its
number. -/
def Ctx.newOp (x : Ctx) (lanes : Mask) (wait : Wait) (dsts : List (Nat × Dst)) (regs : List Nat := [])
    (all : Option Mask := none) : Ctx × Nat :=
  let id := x.s.nextId
  let op : Op := { id := id, sb := x.c.hdr.sb, lanes := lanes, dsts := dsts, wait := wait
                   regs := if regs.isEmpty then nub (dsts.map fun d => dstCode d.2) else regs
                   all := all.getD lanes, pc := x.c.pc, index := x.c.index, header := x.c.raw, word := x.c.word
                   done := if wait = .ready then lanes else 0, handler := (x.w.lane (leader lanes)).handler }
  ({ x with
     s := { x.s with nextId := id + 1 }
     w := { x.w with ops := x.w.ops ++ [op], sb := x.w.sb.modify x.c.hdr.sb (· + 1) } }, id)

/-- Whether an outstanding instruction is an OENTER. -/
def Op.isEnter (o : Op) : Bool := match decode o.word with | .ok (.oenter ..) => true | _ => false

/-- Whether a wave has an outstanding MWAIT or ungranted OENTER, whose length R73 measures. -/
def Wave.longWait (w : Wave) : Bool :=
  w.ops.any fun o => match o.wait with | .mwait .. => true | _ => o.isEnter && o.lanes &&& ~~~o.done != 0

/-- The time at which a wave's wait under R73 began, where one begins now. -/
def Wave.waitFrom (w : Wave) (now : Nat) : Nat := if w.longWait then w.waitSince else now

/-- Changes an outstanding operation of a wave. -/
def Wave.modOp (w : Wave) (id : Nat) (f : Op → Op) : Wave :=
  { w with ops := updWhere (·.id == id) f w.ops }

/-! ### Special-purpose counters -/

/-- Number of cycles of a course clock since reset (%clock). -/
def State.clock (s : State) (course : Nat) : Nat := (s.course course).phase / 1000000

/-- A barrier object of an ashlar. -/
def State.barrier (s : State) (a x : Nat) : Barrier := (s.ashlar a).barriers.getD x {}

/-- Changes a barrier object. -/
def State.modBarrier (s : State) (a n : Nat) (f : Barrier → Barrier) : State :=
  s.modAshlar a fun y => { y with barriers := y.barriers.modify n f }

/-- Device time base in ns (%time). -/
def State.time (s : State) : Nat := s.now / 1000

end Sys2Proof.Machine
end

