-- ==== Sys2Proof/Machine/Operands.lean ====
section
/-! DEFINITION. Operand forms: the second sources b8 and ss8 (R158, Table 7-4), pair elements (R192), the
register lists of the checks (R330), and wide values in runs of registers. -/

namespace Sys2Proof.Machine

/-- The b8 operand of a lane: v[n], or the low half of k[n] or s[n] (Table 7-4). -/
def Ctx.b8 (x : Ctx) (b : B8) (l : Nat) : Word :=
  let n := b.toNat
  if n < 128 then x.w.vreg l n
  else if n < 192 then (x.w.kreg (n - 128)).setWidth 32
  else (x.w.sreg (n - 192)).setWidth 32

/-- The register a b8 names, for the check of R330. -/
def b8Regs (b : B8) : List (Nat × Nat) := if b.toNat < 128 then [(b.toNat, 1)] else []

/-- SS: the 64-bit value ss8 selects (Table 7-4). -/
def Ctx.ss (x : Ctx) (b : B8) : DWord :=
  let n := b.toNat
  if n < 64 then x.w.sreg n
  else if n < 128 then x.w.kreg (n - 64)
  else (b.setWidth 7).signExtend 64

/-- Scalar register of a 6-bit field. -/
def Ctx.sr (x : Ctx) (a : SR) : DWord := x.w.sreg a.toNat

/-- Vector register of a 7-bit field in a lane. -/
def Ctx.vr (x : Ctx) (l : Nat) (r : VR) : Word := x.w.vreg l r.toNat

/-- Register r and the following, as a little-endian number of n words (leader runs). -/
def Ctx.vrun (x : Ctx) (l r : Nat) : Nat → Nat
  | 0 => 0
  | n + 1 => (x.w.vreg l r).toNat + 2 ^ 32 * Ctx.vrun x l (r + 1) n

/-- A 64-bit value in registers r and r + 1. -/
def Ctx.vpair (x : Ctx) (l r : Nat) : DWord := BitVec.ofNat 64 (x.vrun l r 2)

/-- El(x, e): element e under a float type (R192). -/
def el (f : Fmt) (x : Word) (e : Nat) : Nat :=
  if f = .f32 then x.toNat else x.toNat / 2 ^ (16 * e) % 2 ^ 16

/-- An operation on each element, the elements independent (R192). -/
def perEl (f : Fmt) (op : Nat → Nat × Flags) : Word × Flags :=
  if f = .f32 then
    let (r, g) := op 0
    (BitVec.ofNat 32 r, g)
  else
    let (r0, g0) := op 0
    let (r1, g1) := op 1
    (BitVec.ofNat 32 (r0 % 2 ^ 16 + r1 % 2 ^ 16 * 2 ^ 16), g0 ||| g1)

/-- Registers a VV word names. -/
def regsVV (d a : VR) (b : B8) : List (Nat × Nat) := (d.toNat, 1) :: (a.toNat, 1) :: b8Regs b

/-- Registers of a list of 7-bit fields. -/
def regsV (rs : List VR) : List (Nat × Nat) := rs.map fun r => (r.toNat, 1)

/-- The value of a bit as a scalar result. -/
def flag64 (b : Bool) : DWord := if b then 1 else 0

/-- Sign extension of the low 32 bits of a natural number to an integer. -/
def toS32 (x : Nat) : Int := (BitVec.ofNat 32 x).toInt

end Sys2Proof.Machine
end

