-- ==== Sys2Proof/Machine/Flags.lean ====
section
/-! DEFINITION. Float flags (R130): raising them into %fpflags, and the FLOATING POINT fault of the lanes
that raise a flag which %trapen.FPE enables (Table 16-1, Table 17-5 group 7). -/

namespace Sys2Proof.Machine

/-- FPE of %trapen: bit 16 + n enables flag n (Table 16-2). -/
def Wave.fpe (w : Wave) : Flags := (w.trapen >>> 16).setWidth 6

/-- Sets flags in the sticky %fpflags. -/
def Wave.raiseFlags (w : Wave) (g : Flags) : Wave := { w with fpflags := w.fpflags ||| g }

/-- Whether flags raised trap. -/
def Ctx.traps (x : Ctx) (g : Flags) : Bool := x.w.fpe &&& g != 0

/-- One lane's result and flags: the destination to write unless the lane traps. -/
structure LaneRes where
  lane : Nat
  dst : List Dst
  flags : Flags := 0

/-- Ends a word whose lanes have results: every flag is raised, lanes whose flags trap fault and write
nothing, the others write (R130, R310). -/
def Ctx.finish (x : Ctx) (a : Mask) (rs : List LaneRes) : Ctx :=
  let x1 := x.modW (·.raiseFlags (rs.foldl (fun g r => g ||| r.flags) 0))
  let bad := rs.filter fun r => x.traps r.flags
  let good := rs.filter fun r => !x.traps r.flags
  (x1.puts (good.flatMap (·.dst))).raise a
    (bad.map fun r => { lane := r.lane, cls := cFloat, raised := r.flags })

/-- A word that computes one vector register per lane of Active. -/
def Ctx.mapV (x : Ctx) (a : Mask) (d : VR) (f : Nat → Word × Flags) : Ctx :=
  x.finish a ((lanesOf a).map fun l =>
    let (y, g) := f l
    { lane := l, dst := [.vreg l d.toNat y], flags := g })

/-- The same without flags. -/
def Ctx.mapI (x : Ctx) (a : Mask) (d : VR) (f : Nat → Word) : Ctx :=
  x.puts ((lanesOf a).map fun l => .vreg l d.toNat (f l))

/-- A word that computes one predicate per lane of Active. -/
def Ctx.mapP (x : Ctx) (a : Mask) (d : PR) (f : Nat → Bool × Flags) : Ctx :=
  x.finish a ((lanesOf a).map fun l =>
    let (y, g) := f l
    { lane := l, dst := [.pred l d.toNat y], flags := g })

/-- A scalar float result (R175): flags that trap fault the whole subgroup. -/
def Ctx.finishS (x : Ctx) (d : SR) (y : DWord) (g : Flags) : Ctx :=
  let x1 := x.modW (·.raiseFlags g)
  if x.traps g then x1.raiseAll x.live cFloat (raised := g) else x1.put (.sreg d.toNat y)

end Sys2Proof.Machine
end

