-- ==== Sys2Proof/Config.lean ====
section
/-! DEFINITION. What a part fixes and the spec leaves open: values nothing in Lean can evaluate or
prove a value of. Every entry is named in a row of the assumption log. -/

namespace Sys2Proof.Config

/-- Byte i of the SM3 digest of a byte string, named by R300 and R302 and defined outside the spec
(GB/T 32905). Log entry 10. -/
opaque sm3Byte : List Byte → Nat → Byte

/-- The SM3 digest: 32 bytes (R302). -/
def sm3 (bs : List Byte) : List Byte := (List.range 32).map (sm3Byte bs)

/-- Whether the SM2 signature (64 bytes, r then s) over the digest verifies with the firmware key in
the fuses (R300, GB/T 32918.2). Log entry 10. -/
opaque sm2Verifies : List Byte → List Byte → Bool

/-- Byte i of the SM2 signature made with the device key over a byte string (R302); the counter
stands for the signer's random choice. Log entry 10. -/
opaque sm2SignByte : Nat → List Byte → Nat → Byte

/-- The SM2 signature: 64 bytes, r then s (R302). -/
def sm2Sign (n : Nat) (bs : List Byte) : List Byte := (List.range 64).map (sm2SignByte n bs)

/-- Byte i of the 256 bytes TELEMETRY writes at its n-th use, with a count of corrected errors (R301: power, temperature and error
counters, no layout given; R370). Log entry 11. -/
opaque telemetryByte (n corrected i : Nat) : Byte

/-- Byte i of the device's public key (R299). Log entry 12. -/
opaque keyByte : Nat → Byte

/-- Byte i of the device's certificate (R299). Log entry 12. -/
opaque certByte : Nat → Byte

/-- What the length of the certificate is chosen from; it is at most 3,840 (R299). Log entry 12. -/
opaque certChoice : Nat

/-- The length of the certificate. -/
def certLength : Nat := certChoice % 3841

/-- Whether an HBM line whose last write was still in a cache way at the n-th warm reset keeps that
write (R369: contents before its last write or after it, whole). Log entry 13. -/
opaque warmKeepsWrite : Nat → Nat → Bool

/-- Byte i of a run's spill area after the device's n-th write of it (R382: in a form of its own).
Log entry 14. -/
opaque spillByte : Nat → Nat → Byte

/-- The n-th choice the spec leaves to the part: which of several ways holds a short-lived line (R97). Log entry 7. -/
opaque choice : Nat → Nat

/-- Byte i of the n-th value the spec does not state: tile-buffer pixels outside the viewport under LOAD (R274), the
contents of the bin area (R268). Log entry 14. -/
opaque unstatedByte : Nat → Nat → Byte

/-- The number a unit computes with in place of the F32 encoding x that is not finite, where the spec gives exact
arithmetic on finite values only (R279, R280). Log entry 16. -/
opaque oddValue : Nat → Int

end Sys2Proof.Config
end

