-- ==== Sys2Proof/Machine/Mesh.lean ====
section
/-! DEFINITION. Where memory lives and how packets reach it: the physical map and the homes (R22, R85, R90), the banks of a
slice and the lines its cache ways hold (R87, R93), the mesh and its routing (R19, R20), sequence numbers (R21) and the
messages of the die-to-die link (R24, R91). -/

namespace Sys2Proof.Machine

/-! ### Physical map and homes -/

/-- Below this address is HBM (Table 4-6). -/
def hbmTop : Nat := 2 ^ 38
/-- The host window begins here. -/
def hostBase : Nat := 2 ^ 43
/-- A reserved range of the physical map. -/
def reservedPa (pa : Nat) : Bool := decide (hbmTop ≤ pa) && decide (pa < hostBase) || decide (2 ^ 44 ≤ pa)
/-- The host window. -/
def inHost (pa : Nat) : Bool := decide (hostBase ≤ pa)

/-- The 5-bit hash of a physical line (R90 step 1). -/
def lineHash (line : Nat) : Nat :=
  (line % 32) ^^^ (line / 2 ^ 5 % 32) ^^^ (line / 2 ^ 10 % 32) ^^^ (line / 2 ^ 15 % 32) ^^^ (line / 2 ^ 20 % 32)
    ^^^ (line / 2 ^ 25 % 32) ^^^ (line / 2 ^ 30 % 32) ^^^ (line / 2 ^ 35 % 8)

/-- Whether a device slice number is in the live set. -/
def State.sliceLive (s : State) (n : Nat) : Bool := (s.slice (n / 16) (n % 16)).inSet

/-- A hash value mapped to a live slice (R90 step 2). -/
def State.homeOfHash (s : State) (h : Nat) : Nat :=
  if s.sliceLive h then h
  else
    let live := (List.range 32).filter s.sliceLive
    let dead := (List.range 32).filter fun n => !s.sliceLive n
    let i := (dead.takeWhile (· != h)).length
    live.getD (i % live.length) 0

/-- Home(line) of a space-0 line as a device slice number. -/
def State.home (s : State) (line : Nat) : Nat := s.homeOfHash (lineHash line)

/-- Home of a key as a device slice number (R115). -/
def State.keyHome (s : State) (key : DWord) : Nat :=
  let k := key.toNat
  s.homeOfHash ((List.range 12).foldl (fun h i => h ^^^ (k / 2 ^ (5 * i) % 32)) (k / 2 ^ 60))

/-- HBM stack of a line: stacks 0 and 1 on die A's controllers 0 and 1, stacks 2 and 3 on die B's (Table 4-6). -/
def stackOf (line : Nat) : Nat := line / 64 % 4

/-- Die of the controller or port behind a line: of its stack, or die A, which carries the PCIe port (R22, R25). -/
def memDie (line : Nat) : Nat := if inHost (line * 64) then 0 else stackOf line / 2

/-! ### Slices that leave or join (R351, R363) -/

/-- A gate of a die: 0 M, 1 A, 2 C. -/
def State.gate (s : State) (d layer : Nat) : Gate := (s.die d).gates.getD layer {}

/-- Whether a die is parked or parking: placement on it has stopped. -/
def State.dieHeld (s : State) (d : Nat) : Bool := (s.die d).parked || (s.die d).parking || (s.die d).linkPark

/-- Whether both dies are unparked, so that waits are counted (R358). -/
def State.counting (s : State) : Bool := !(s.dieHeld 0 || s.dieHeld 1)

/-- Whether a layer of a course's die is gated, so that Plumb refuses its point changes (R306). -/
def State.courseGated (s : State) (c : Nat) : Bool := (s.gate (c / 8) 1).gated || (s.gate (c / 8) 2).gated

/-- Whether a course is gated or parked, so that its counters stand (R308). -/
def State.courseStill (s : State) (c : Nat) : Bool := (s.die (c / 8)).parked || s.courseGated c

/-- Whether a slice of the live set is leaving it: its die's M-layer is being gated, its banks are all retired, or its atomic
unit or tables have failed (R351). -/
def State.leaving (s : State) (n : Nat) : Bool :=
  let x := s.slice (n / 16) (n % 16)
  let g := s.gate (n / 16) 0
  x.inSet && ((g.busy && g.req) || x.live == 0 || x.failed)

/-- Whether a slice comes back to the live set: its die's M-layer rail is ready and it was not retired (R351, R363). -/
def State.joining (s : State) (n : Nat) : Bool :=
  let x := s.slice (n / 16) (n % 16)
  let g := s.gate (n / 16) 0
  !x.inSet && x.live != 0 && !x.failed && g.busy && !g.req && !g.gated

/-- The state with a slice in or out of the live set. -/
def State.setSlice (s : State) (n : Nat) (inSet : Bool) : State :=
  s.modSlice (n / 16) (n % 16) fun x => { x with inSet := inSet }

/-- Whether a line's home changes when a slice leaves or joins. -/
def State.moves (s : State) (n line : Nat) : Bool :=
  s.home line != (s.setSlice n !(s.slice (n / 16) (n % 16)).inSet).home line

/-- Whether a line is to move because a slice is leaving or joining. -/
def State.toMove (s : State) (line : Nat) : Bool :=
  (List.range 32).any fun n => (s.leaving n || s.joining n) && s.moves n line

/-- Whether a source holds new packets to a line: it is to move, and no marked line that moves is still to be promoted (R351 steps 1
and 2; the promotions come first, since their stores must be performed: DESIGN CHOICE, log entry 70). -/
def State.holdsFor (s : State) (line : Nat) : Bool := s.toMove line && s.marks.all fun m => m.kind != .global || !s.toMove m.line

/-! ### Banks of a slice (R92, R93) -/

/-- Live banks of a slice, ascending; a slice outside the live set shows none (R363). -/
def Slice.liveBanks (x : Slice) : List Nat := if x.inSet then (List.range 16).filter fun b => x.live.getLsbD b else []

/-- The role that the register gives a live bank: roles are given in ascending bank number. -/
def Slice.target (x : Slice) (b : Nat) : BankRole :=
  let i := ((List.range b).filter fun c => x.live.getLsbD c).length
  if !x.live.getLsbD b then .idle
  else if i < x.cache then .cache
  else if i < x.cache + x.queue then .queue
  else if i < x.cache + x.queue + x.scratch then .scratch
  else if i < x.cache + x.queue + x.scratch + x.short then .short
  else .idle

/-- Banks in use in a role: a bank whose role changes has left its old one and takes its new one when the change completes. -/
def Slice.inRole (x : Slice) (r : BankRole) : List Nat :=
  x.liveBanks.filter fun b => x.now.getD b .idle == r && x.target b == r

/-- Cache ways. -/
def Slice.cacheBanks (x : Slice) : List Nat := x.inRole .cache
/-- Queue ways. -/
def Slice.queueBanks (x : Slice) : List Nat := x.inRole .queue
/-- Stacked-scratch ways. -/
def Slice.scratchBanks (x : Slice) : List Nat := x.inRole .scratch
/-- Short-lived ways. -/
def Slice.shortBanks (x : Slice) : List Nat := x.inRole .short

/-- Every bank has the role that the register gives it. -/
def Slice.settled (x : Slice) : Slice := { x with now := (List.range 16).map x.target }

/-! ### Sequence numbers (R21) -/

/-- Sources: ashlars 0 to 127, then the units of a die, the units of a course, the HBM controllers, the die-to-die ports and
the PCIe port. -/
def dieSrc (d : Nat) : Nat := 128 + d
def courseSrc (c : Nat) : Nat := 130 + c
def hbmSrc (stack : Nat) : Nat := 146 + stack
def linkSrc (d : Nat) : Nat := 150 + d
def pcieSrc : Nat := 152

/-- Die of a source. -/
def srcDie (src : Nat) : Nat :=
  if src < 128 then src / 64
  else if src < 130 then src - 128
  else if src < 146 then (src - 130) / 8
  else if src < 150 then (src - 146) / 2
  else if src < 152 then src - 150
  else 0

/-- The next sequence number of a source and a home. -/
def State.seqOf (s : State) (src home : Nat) : Nat :=
  ((s.seqs.find? fun q => q.1 == src && q.2.1 == home).map (·.2.2)).getD 0

/-- Takes the next sequence number of a source and a home. -/
def State.bump (s : State) (src home : Nat) : State :=
  { s with seqs := (src, home, (s.seqOf src home + 1) % 256) :: s.seqs.filter fun q => !(q.1 == src && q.2.1 == home) }

/-! ### The mesh (R19, R20) -/

/-- Hops between two routers of a die. -/
def hops (r t : Nat) : Nat :=
  let gap := fun (a b : Nat) => (a - b) + (b - a)
  gap (r % 4) (t % 4) + gap (r / 4 % 4) (t / 4 % 4)

/-- The routers, 16 × die + router, at which a source's packets enter the mesh and their answers leave it: routers 2c and 2c + 1
serve course c, HBM, the die-to-die ports and PCIe attach as Table 1-4 gives. R19 gives the units of a die no router: router 0
(DESIGN CHOICE, log entry 69). -/
def srcRouters (src : Nat) : List Nat :=
  if src < 128 then [src / 64 * 16 + src / 8 % 8 * 2 + src % 8 / 4]
  else if src < 130 then [(src - 128) * 16]
  else if src < 146 then [(src - 130) / 8 * 16 + (src - 130) % 8 * 2, (src - 130) / 8 * 16 + (src - 130) % 8 * 2 + 1]
  else if src < 150 then (if src % 2 = 0 then [1, 2] else [13, 14]).map ((src - 146) / 2 * 16 + ·)
  else if src < 152 then (if src = 150 then [3, 7, 11, 15] else [0, 4, 8, 12]).map ((src - 150) * 16 + ·)
  else [4]

/-- Where a source's packet to a home enters the mesh: of its routers the one nearest to the home's column and row. -/
def startRouter (src home : Nat) : Nat := (argMin (hops · home) (srcRouters src)).getD 0

/-- The routers of the stack or port behind a line. -/
def memRouters (line : Nat) : List Nat := if inHost (line * 64) then srcRouters pcieSrc else srcRouters (hbmSrc (stackOf line))

/-- The routers that a packet is on its way to: the home of its line, the stack or port behind it, or its source. -/
def Packet.goals (p : Packet) : List Nat :=
  match p.stage with
  | .performed => srcRouters p.src
  | .stack true => memRouters p.line
  | _ => [p.home]

/-- Whether a packet has come where it goes. -/
def Packet.there (p : Packet) : Bool := p.goals.contains p.router

/-- Whether a packet is under way in the mesh. -/
def Packet.moving (p : Packet) : Bool := match p.stage with | .flight | .performed | .stack _ => !p.there | _ => false

/-- The router of a die-to-die port in the row of a router (Table 1-4). -/
def portRouter (r : Nat) : Nat := r / 16 * 16 + r % 16 / 4 * 4 + if r / 16 = 0 then 3 else 0

/-- Where a message that left at a port enters the other die: the port of the same row. -/
def entryRouter (r : Nat) : Nat := (1 - r / 16) * 16 + r % 16 / 4 * 4 + if r / 16 = 0 then 0 else 3

/-- The next router of a die's mesh, numbered 0 to 15, in a direction. -/
def Dir.next (d : Dir) (r : Nat) : Nat :=
  match d with
  | .east => r + 1
  | .west => r - 1
  | .north => r - 4
  | .south => r + 4

/-- Whether a packet may leave a column in a direction, as it travels (R20). -/
def turnOk (r : Nat) (came : Option Dir) (d : Dir) : Bool :=
  match came, d with
  | some .east, .north | some .east, .south => r % 2 == 1
  | some .north, .west | some .south, .west => r % 2 == 0
  | _, _ => true

/-- The directions that lie on a minimal path, east or west first. -/
def towards (r t : Nat) : List Dir :=
  (if r % 4 < t % 4 then [.east] else if t % 4 < r % 4 then [.west] else [])
    ++ (if r / 4 < t / 4 then [.south] else if t / 4 < r / 4 then [.north] else [])

/-- Whether a minimal path that obeys the turn rules leads on to a router, within a number of hops. -/
def canReach : Nat → Nat → Option Dir → Nat → Bool
  | 0, r, _, t => r == t
  | n + 1, r, came, t => r == t || (towards r t).any fun d => turnOk r came d && canReach n (d.next r) (some d) t

/-- The ports a packet may take at a router on its way to another router of the die. -/
def ports (r : Nat) (came : Option Dir) (t : Nat) : List Dir :=
  (towards r t).filter fun d => turnOk r came d && canReach 6 (d.next r) (some d) t

/-- Packets that stand at a router, each in a buffer slot. -/
def State.atRouter (s : State) (r : Nat) : Nat :=
  (s.reqs.filter fun q => match q.body with
    | .packet p => p.moving && p.router == r && q.cross.isNone
    | _ => false).length

/-- The port a packet takes: the one with more free slots at the next router, on equal counts the east or west one (R20); every
router has as many slots (log entry 69). -/
def State.route (s : State) (p : Packet) (t : Nat) : Option Dir :=
  argMin (fun d => s.atRouter (p.router / 16 * 16 + d.next (p.router % 16))) (ports (p.router % 16) p.came t)

/-- A packet after one hop towards where it goes: through the mesh, or from a port into the link. -/
def State.hop (s : State) (p : Packet) : Packet × Bool :=
  let here := p.goals.filter fun g => g / 16 == p.router / 16
  let t := (argMin (hops p.router) here).getD (portRouter p.router)
  if here.isEmpty ∧ p.router = t then (p, true)
  else match s.route p (t % 16) with
    | some d => ({ p with router := p.router / 16 * 16 + d.next (p.router % 16), came := some d }, false)
    | none => (p, false)

/-! ### Packets not yet acknowledged (R21) -/

/-- Packets of a source to a home not yet acknowledged and already let go. -/
def State.unacked (s : State) (src home : Nat) : Nat :=
  (s.reqs.filter fun r => match r.body with
    | .packet p => p.src == src && p.home == home && p.stage != .window
    | _ => false).length

/-! ### Messages of accesses made at once -/

/-- A request that belongs to no wave. -/
def unitReq : Req := { id := 0, wave := 0, path := 0, write := true, read := false, body := .cancelWatch 0 0 }

/-- Whether the message of an earlier access of the same kind, source and line is on its way to a home: it carries the whole line. -/
def State.telling (s : State) (src home line : Nat) (write : Bool) : Bool :=
  s.reqs.any fun r => match r.body with
    | .packet p => p.told && p.src == src && p.home == home && p.line == line && (p.kind == .store) == write && p.stage != .performed
    | _ => false

/-- Sends the packet of an access that a source makes to a home, with the next number of the pair. The access is performed in the
step that sends it; its message goes through the mesh and the link to the home, and its reply or acknowledgement comes back
(DESIGN CHOICE, log entry 69). -/
def State.numberTo (s : State) (src home line : Nat) (write : Bool) : State :=
  if s.telling src home line write then s
  else
    let p : Packet := { src := src, home := home, seq := s.seqOf src home, line := line, kind := if write then .store else .load
                        pieces := [], told := true, router := startRouter src home
                        stage := if decide (64 ≤ s.unacked src home) then .window else .flight }
    let t := s.bump src home
    { t with nextId := s.nextId + 1, reqs := s.reqs ++ [{ unitReq with id := s.nextId, die := srcDie src, body := .packet p }] }

/-- Sends the packet of a unit's, a controller's or a port's access to the home of a line. -/
def State.number (s : State) (src line : Nat) (write : Bool) : State := s.numberTo src (s.home line) line write

/-- A line goes from a home to the stack or port behind it, through the mesh and the link (R22, R91). -/
def State.stackWrite (s : State) (home line : Nat) : State :=
  let p : Packet := { src := if inHost (line * 64) then pcieSrc else hbmSrc (stackOf line), home := home, seq := 0, line := line
                      kind := .store, pieces := [], policy := 3, told := true, router := home, stage := .stack true }
  { s with nextId := s.nextId + 1, reqs := s.reqs ++ [{ unitReq with id := s.nextId, die := home / 16, body := .packet p }] }

/-! ### Cache ways -/

/-- The line in a cache way of its home. -/
def State.way? (s : State) (line : Nat) : Option WayLine := s.ways.find? (·.line == line)

/-- Whether a line may stand in a cache way: HBM is cached, the host window is forwarded (R295). -/
def cacheable (line : Nat) : Bool := decide (line * 64 < hbmTop)

/-- Takes a line out of its cache way, written back: HBM has its contents. -/
def State.dropWay (s : State) (line : Nat) : State :=
  match s.way? line with
  | none => s
  | some v =>
    let s1 := if v.old.isSome then s.stackWrite v.home line else s
    { s1 with ways := s1.ways.filter fun w => w.line != line }

/-- Brings a line into a cache way of its home where it stands in none: its own set's empty way, else a line of the set goes,
one that is first choice for replacement where there is one (Table 4-7). A way holds 16,384 lines, as R97 indexes them. -/
def State.wayFor (s : State) (line : Nat) (stream : Bool) : State :=
  let h := s.home line
  let banks := (s.slice (h / 16) (h % 16)).cacheBanks
  if !cacheable line || (s.way? line).isSome || banks.isEmpty then s
  else
    let set := s.ways.filter fun w => w.home == h && w.line % 16384 == line % 16384 && banks.contains w.bank
    match banks.find? fun b => !set.any (·.bank == b) with
    | some b => { s with ways := { line := line, home := h, bank := b, stream := stream } :: s.ways }
    | none =>
      let pick := if set.any (·.stream) then set.filter (·.stream) else set
      match pick[Sys2Proof.Config.choice s.free % pick.length]? with
      | none => s
      | some v =>
        let s1 := s.dropWay v.line
        { s1 with free := s1.free + 1, ways := { line := line, home := h, bank := v.bank, stream := stream } :: s1.ways }

/-- The packet with which the stack behind a line, or the PCIe port, sends it to its home (R21, R22, R295). -/
def State.fromStack (s : State) (line : Nat) : State :=
  if inHost (line * 64) then s.number pcieSrc line false
  else
    let s1 := s.number (hbmSrc (stackOf line)) line false
    if memDie line = s.home line / 16 then s1 else s1.bump (linkSrc (s.home line / 16)) (s.home line)

/-- A line as a weak access of a policy leaves it in the cache ways, and the traffic with its stack (R22, Table 4-7): policies 0 to 2
bring it in, policy 3 bypasses them. -/
def State.unitWay (s : State) (line policy : Nat) (write : Bool) : State :=
  if policy = 3 then if write then (s.dropWay line).stackWrite (s.home line) line else (s.dropWay line).fromStack line
  else if (s.way? line).isSome then s
  else (s.fromStack line).wayFor line (policy == 1)

/-- A write to a line that stands in a cache way leaves HBM with what it had (R369). -/
def State.noteWrite (s : State) (line : Nat) : State :=
  { s with ways := updWhere (fun w => w.line == line && w.old.isNone) (fun (w : WayLine) => { w with old := some (s.mem.readN (line * 64) 64) }) s.ways }

/-! ### The die-to-die link -/

/-- Changes a lane group. -/
def State.modGroup (s : State) (g : Nat) (f : Group → Group) : State :=
  { s with link := { s.link with groups := s.link.groups.modify g f } }

/-- A lane group of the link. -/
def State.group (s : State) (g : Nat) : Group := s.link.groups.getD g { aToB := g < 8 }

/-- Whether a lane group carries flits in a direction now. -/
def State.carries (s : State) (g : Nat) (aToB : Bool) : Bool :=
  let x := s.group g
  let busy := fun (o : Option (Nat × Nat)) => match o with | some (h, _) => h == g | none => false
  decide (g < 16) && x.live && x.aToB == aToB && !busy s.link.turning && !busy s.link.recal

/-- Whether messages can cross between two dies: on one die, or while a lane group is live, which turns for them (R360). -/
def State.linkOpen (s : State) (d e : Nat) : Bool := d == e || s.link.groups.any (·.live)

/-- Whether a packet writes at the stack or port behind its line and takes nothing from there: a store of policy 3, or a strong one,
whose line stands in no cache way (R87). -/
def Packet.writesThrough (p : Packet) : Bool := match p.kind with | .store => p.policy == 3 | .strongStore _ => true | _ => false

/-- Bytes of a message (R24, R91): a 16-byte header, and 64 more for each line it carries. -/
def Req.bytes (r : Req) : Nat :=
  match r.body with
  | .packet p =>
    let writes := match p.kind with | .load | .strongLoad _ | .monitor _ _ => false | _ => true
    let reads := match p.kind with | .store | .strongStore _ => false | _ => true
    match p.stage with
    | .performed => if reads then 80 else 16
    | .stack out => if p.writesThrough == out then 80 else 16
    | _ => if writes then 80 else 16
  | .append _ _ recs _ => 16 + sumBy (fun (q : QRec) => (q.bytes.length + 63) / 64 * 64) recs
  | _ => 16

/-- Messages that wait for flits from a die, oldest first. -/
def State.crossing (s : State) (aToB : Bool) : List Req := s.reqs.filter fun r => r.cross.isSome && (r.die == 0) == aToB

/-- Packs the payload of a flit back to back with messages, each with its bytes yet to come: those that end in it, and the one
cut by its end (R24). -/
def packFlit : Nat → List (Nat × Nat) → List Nat × Option (Nat × Nat)
  | 0, _ | _, [] => ([], none)
  | room, (id, n) :: rest =>
    if n ≤ room then
      let (done, part) := packFlit (room - n) rest
      (id :: done, part)
    else ([], some (id, n - room))

/-- The messages a group's next flit is packed from: the one it has begun, then those that no group has. -/
def State.flitQueue (s : State) (g : Nat) (ready : Req → Bool) : List (Nat × Nat) :=
  let x := s.group g
  let begun := s.link.groups.filterMap fun (k : Group) => k.part.map (·.1)
  x.part.toList ++ ((s.crossing x.aToB).filter fun r => ready r && !begun.contains r.id).map fun r => (r.id, r.bytes)

end Sys2Proof.Machine
end

