-- ==== Sys2Proof/Machine/Xlate.lean ====
section
/-! DEFINITION. Addresses: writes performed at a home, with watch entries, marks and poison (R107, R114, R345, R369), the page
walk and its entries (R81 to R85), TLBs (R86), buffer records (R77, R78), the checks of the address path (Table 4-3) and
instruction fetch (R84, R99). -/

namespace Sys2Proof.Machine

/-! ### Watch entries -/

/-- The comparisons of a watch entry (R216). -/
def watchHolds (cmp : Nat) (x v : DWord) : Bool :=
  match cmp with
  | 0 => x == v
  | 1 => x != v
  | 2 => v.ule x
  | 3 => x.ult v
  | _ => x &&& v != 0

/-- Whether an MWAIT of the wave is outstanding. -/
def Wave.mwaiting (w : Wave) : Bool := w.ops.any fun o => match o.wait with | .mwait .. => true | _ => false

/-- A watch entry after a write to its line left its doubleword at a value: a value the comparison holds for flags it (R114). -/
def Watch.seen (x : Watch) (v : DWord) : Watch := { x with flagged := x.flagged || watchHolds x.cmp v x.value }

/-- Whether a request is a MONITOR that has not armed. -/
def Req.arming (r : Req) : Bool := match r.body with
  | .mem m => (match m.kind with | .monitor _ _ => true | _ => false)
  | _ => false

/-- Whether every MONITOR of a wave issued before an instruction has armed, so that an MWAIT takes effect (R217). -/
def State.armedBefore (s : State) (w : Wave) (o : Op) : Bool := s.reqs.all fun r => !(r.wave == w.id && decide (r.id < o.id) && r.arming)

/-- An event of Table 5-5 ends every wait of a wave's MWAITs that none has ended yet. -/
def State.wakeMwaits (s : State) (w : Wave) (code : Nat) : Wave :=
  { w with ops := w.ops.map fun o => match o.wait with
      | .mwait d sd b none => if s.armedBefore w o then { o with wait := .mwait d sd b (some code) } else o
      | _ => o }

/-- Re-evaluates the entries armed on a line: space 0 by physical line, space 2 by line of a die's window. A waiting MWAIT ends with
MATCH for a flagged entry, and WRITE for one that is not (R114, R217, Table 5-5). -/
def State.rewatch (s : State) (space die line : Nat) : State :=
  { s with waves := s.waves.map fun w => match w.watch with
      | some x =>
        if x.space == space && x.addr / 64 == line && (space == 0 || w.die == die) then
          let m := if space == 0 then s.mem else (s.die die).stacked
          let y := x.seen (BitVec.ofNat 64 (m.readNat x.addr 8))
          { s.wakeMwaits w (if y.flagged then 0 else 1) with watch := some y }
        else w
      | none => w }

/-! ### Writes at the home -/

/-- Keeps the lines that a write of n bytes at a physical address reaches, for every launch that has not seen them written: a node
fetches code and tables as they stood at the release that launched its run (R99). -/
def State.keepCode (s : State) (pa n : Nat) : State :=
  let keys := s.runs.map (fun r => CodeKey.run r.id) ++ s.codeKeys
  let keep := fun (l : List (CodeKey × Nat × List Byte)) (a : Nat) =>
    l ++ (keys.filter fun k => !l.any fun c => c.1 == k && c.2.1 == a / 64).map fun k => (k, a / 64, s.mem.readN (a / 64 * 64) 64)
  { s with code := ((List.range ((pa + n + 63) / 64 - pa / 64)).map fun i => (pa / 64 + i) * 64).foldl keep s.code }

/-- Takes the marks of a line away (R107). -/
def State.unmark (s : State) (k : LineKind) (line : Nat) : State :=
  { s with marks := s.marks.filter fun m => !(m.kind == k && m.line == line) }

/-- Writes bytes of one line of physical memory at its home: poison clears only when the whole line is
written (R345), a strong write clears the line's mark (R107), and watch entries are re-evaluated. -/
def State.homeWrite (s : State) (pa : Nat) (bs : List Byte) (strong : Bool) : State :=
  let line := pa / 64
  let s1 := (s.noteWrite line).keepCode pa bs.length
  let s2 := if strong then s1.unmark .global line else s1
  { s2 with
    mem := s2.mem.writeN pa bs
    poisoned := if bs.length == 64 then s2.poisoned.filter (· != line) else s2.poisoned }.rewatch 0 0 line

/-! ### Translation entries -/

/-- A leaf: where it stands, its even and odd doublewords and the level. -/
structure Leaf where
  at_ : Nat
  entry : DWord
  odd : DWord
  level : Nat
  deriving DecidableEq, Repr

/-- Leaf permissions (Table 4-5). -/
def Leaf.r (l : Leaf) : Bool := l.entry.getLsbD 3
def Leaf.w (l : Leaf) : Bool := l.entry.getLsbD 4
def Leaf.x (l : Leaf) : Bool := l.entry.getLsbD 5
/-- CP of the leaf. -/
def Leaf.cp (l : Leaf) : Nat := l.entry.toNat / 2 ^ 9 % 4

/-- Physical address a leaf gives for a virtual address (Table 4-4). -/
def Leaf.pa (l : Leaf) (va : Nat) : Nat :=
  let e := l.entry.toNat
  if e / 2 % 4 = 2 then
    let rb := e / 2 ^ 16 % 2 ^ 24 * 64
    let ps := e / 2 ^ 40 % 2 ^ 24 * 64
    let off := va % 2 ^ 24
    l.odd.toNat + off / rb * ps + off % rb
  else if l.level = 3 then e / 2 ^ 16 % 2 ^ 28 * 2 ^ 16 + va % 2 ^ 16
  else e / 2 ^ 24 % 2 ^ 20 * 2 ^ 24 + va % 2 ^ 24

/-- What a walk ends in: a leaf, an invalid or malformed entry, or an entry with an uncorrectable error
(R344). -/
inductive Look where
  | leaf (l : Leaf)
  | invalid
  | poisoned
  deriving DecidableEq, Repr

/-- A doubleword of physical memory at its home. -/
def State.rd64 (s : State) (pa : Nat) : Nat := s.mem.readNat pa 8

/-- Whether a line holds an uncorrectable error. -/
def State.bad (s : State) (line : Nat) : Bool := s.poisoned.contains line

/-- The walk from a level on (R81 to R83); fuel is the number of levels left. -/
def State.walkFrom (s : State) (va : Nat) : Nat → Nat → Look
  | 0, _ => .invalid
  | fuel + 1, table =>
    let level := 3 - fuel
    let idx := va / 2 ^ (16 + 8 * fuel) % 256
    let pa := table + 8 * idx
    if s.bad (pa / 64) then .poisoned
    else
      let e := s.rd64 pa
      let type := e / 2 % 4
      if e % 2 = 0 then .invalid
      else if type = 0 then
        if e / 2 ^ 3 % 2 ^ 8 ≠ 0 || e / 2 ^ 44 ≠ 0 then .invalid
        else s.walkFrom va fuel (e / 2 ^ 11 * 2 ^ 11)
      else if type = 1 then
        if e / 2 ^ 8 % 2 = 1 || e / 2 ^ 44 ≠ 0 then .invalid
        else if level = 3 && e / 2 ^ 11 % 2 ^ 5 = 0 then .leaf ⟨pa, BitVec.ofNat 64 e, 0, 3⟩
        else if level = 2 && e / 2 ^ 11 % 2 ^ 13 = 0 then .leaf ⟨pa, BitVec.ofNat 64 e, 0, 2⟩
        else .invalid
      else if type = 2 && level = 2 && idx % 2 = 0 then
        let rb := e / 2 ^ 16 % 2 ^ 24
        let o := s.rd64 (pa + 8)
        if s.bad ((pa + 8) / 64) then .poisoned
        else if e / 2 ^ 8 % 2 = 1 || e / 2 ^ 11 % 2 ^ 5 ≠ 0 || rb = 0 || 262144 < rb || e / 2 ^ 40 = 0
            || o % 64 ≠ 0 || o / 2 ^ 44 ≠ 0 then .invalid
        else
          let l : Leaf := ⟨pa, BitVec.ofNat 64 e, BitVec.ofNat 64 o, 2⟩
          if 2 ^ 44 ≤ l.pa va then .invalid else .leaf l
      else .invalid

/-- The page walk of a virtual address from a level-0 table. -/
def State.walk (s : State) (root va : Nat) : Look := s.walkFrom va 4 root

/-- Whether a leaf is a 16 MiB page. -/
def Leaf.big (l : Leaf) : Bool := l.level == 2 && l.entry.toNat / 2 % 4 == 1

/-- The leaf a TLB entry holds. -/
def TlbEntry.leaf (t : TlbEntry) : Leaf := ⟨t.at_, t.entry, t.odd, t.level⟩

/-- Whether an entry translates an address of an address space: a 16 MiB leaf occupies one entry (R86). -/
def TlbEntry.has (t : TlbEntry) (asid va : Nat) : Bool :=
  t.asid == asid && if t.leaf.big then t.page / 256 == va / 2 ^ 24 else t.page == va / 2 ^ 16

/-- Whether the invalidation covers n pages of an address space from one on, in part. -/
def HostRegs.covers (h : HostRegs) (asid page n : Nat) : Bool :=
  asid == h.inval.1 && match h.inval.2 with
    | none => true
    | some (p, k) => decide (p < page + n) && decide (page < p + k)

/-- Whether the invalidation covers an entry: a 16 MiB leaf stands for 256 pages. -/
def HostRegs.coversEntry (h : HostRegs) (t : TlbEntry) : Bool := h.covers t.asid t.page (if t.leaf.big then 256 else 1)

/-- The second-level TLB of an ashlar's course. -/
def courseTlb (ashlar : Nat) : Nat := 130 + ashlar / 8

/-- The entry of a TLB that translates an address. -/
def State.tlbEntry? (s : State) (owner asid va : Nat) : Option TlbEntry := s.tlb.find? fun t => t.ashlar == owner && t.has asid va

/-- The entry a requester finds: in its own TLB, else, for an ashlar, in its course's (R86). -/
def State.cached? (s : State) (owner asid va : Nat) : Option TlbEntry :=
  match s.tlbEntry? owner asid va with
  | some t => some t
  | none => if owner < 128 then s.tlbEntry? (courseTlb owner) asid va else none

/-- The translation of a virtual address as a requester sees it: a TLB entry where one stands, else the walk (R86). -/
def State.look (s : State) (ashlar slot va : Nat) : Look :=
  if 2 ^ 48 ≤ va then .invalid
  else match s.cached? ashlar slot va with
    | some t => if 2 ^ 44 ≤ t.leaf.pa va then .invalid else .leaf t.leaf
    | none => s.walk (s.slot slot).ptroot va

/-- The lines that bytes a to a + n − 1 touch, as addresses of their first byte. -/
def lineStarts (a n : Nat) : List Nat :=
  if n = 0 then [] else (List.range ((a + n - 1) / 64 - a / 64 + 1)).map fun i => (a / 64 + i) * 64

/-- Cuts n bytes from an address into pieces that lie in one line: offset, address, length. -/
def linePieces (a n : Nat) : List (Nat × Nat × Nat) :=
  (lineStarts a n).map fun l =>
    let lo := max a l
    let hi := min (a + n) (l + 64)
    (lo - a, lo, hi - lo)

/-- What an access needs. -/
structure Need where
  read : Bool := false
  write : Bool := false
  fetch : Bool := false
  atomic : Bool := false

/-- The bits of a leaf that an access needs: A, and D for a write (R84). -/
def needBits (write : Bool) : DWord := if write then 0xC0 else 0x40

/-- Takes a translation out of the TLBs that a requester uses. -/
def State.forgetPage (s : State) (owner asid va : Nat) : State :=
  { s with tlb := s.tlb.filter fun t => !((t.ashlar == owner || (decide (owner < 128) && t.ashlar == courseTlb owner)) && t.has asid va) }

/-- Before a walk sets A or D it compares the entry at its home with what was read from it; where they differ nothing is written and
the walk restarts from level 0 (R344). -/
def State.freshen (s : State) (owner asid va : Nat) (write : Bool) : State :=
  match s.cached? owner asid va with
  | some t => if t.entry &&& needBits write == needBits write || s.rd64 t.at_ == t.entry.toNat then s else s.forgetPage owner asid va
  | none => s

/-- The translation with which an access goes on: as a requester sees it, walked anew where R344 asks for it. -/
def State.lookFor (s : State) (owner asid va : Nat) (write : Bool) : Look := (s.freshen owner asid va write).look owner asid va

/-- The late address-path fault of an access to space 0 in the row order of Table 4-3: class and code. -/
def State.pathFault (s : State) (ashlar slot va n : Nat) (k : Need) : Option (Nat × Nat) :=
  let ls := (lineStarts va n).map fun a => (a, s.lookFor ashlar slot a k.write)
  if ls.any fun p => p.2 == .poisoned then some (cHardware, 3)
  else if ls.any fun p => p.2 == .invalid then some (cTranslation, 0)
  else
    let leaves := ls.filterMap fun p => match p.2 with | .leaf l => some (p.1, l) | _ => none
    if leaves.any fun p => (k.read && !p.2.r) || (k.write && !p.2.w) || (k.fetch && !p.2.x) then some (cProtection, 1)
    else if leaves.any fun p => reservedPa (p.2.pa p.1) then some (cProtection, 0)
    else if k.atomic && leaves.any fun p => inHost (p.2.pa p.1) then some (cProtection, 0)
    else none

/-- Physical address of a virtual address that passed its checks; the address itself where none. -/
def State.paOf (s : State) (ashlar slot va : Nat) : Nat :=
  match s.look ashlar slot va with
  | .leaf l => l.pa va
  | _ => 0

/-- Entries a TLB holds (R86): 512 of an ashlar, 4,096 of a course; the walker of a die keeps what its units use. -/
def tlbRoom (owner : Nat) : Nat := if owner < 128 then 512 else if owner < 130 then 2 ^ 48 else 4096

/-- Puts an entry into its TLB; with the TLB full another one goes. -/
def State.tlbPut (s : State) (t : TlbEntry) : State :=
  let rest := s.tlb.filter fun u => !(u.ashlar == t.ashlar && u.asid == t.asid && u.page == t.page)
  let own := rest.filter (·.ashlar == t.ashlar)
  if own.length < tlbRoom t.ashlar then { s with tlb := t :: rest }
  else match own[Sys2Proof.Config.choice s.free % own.length]? with
    | none => { s with tlb := t :: rest }
    | some v => { s with tlb := t :: rest.filter fun u => u != v, free := s.free + 1 }

/-- The lines of the entries that a walk reads. -/
def State.walkLines (s : State) (va : Nat) : Nat → Nat → List Nat
  | 0, _ => []
  | fuel + 1, table =>
    let pa := table + 8 * (va / 2 ^ (16 + 8 * fuel) % 256)
    let e := s.rd64 pa
    pa / 64 :: if e % 2 = 1 ∧ e / 2 % 4 = 0 then s.walkLines va fuel (e / 2 ^ 11 * 2 ^ 11) else []

/-- Die of the walker that serves a TLB. -/
def tlbDie (owner : Nat) : Nat := if owner < 128 then dieOf owner else if owner < 130 then owner - 128 else (owner - 130) / 8

/-- Fills the TLBs for an address, by the walker of the die where no entry is cached, and sets A, and D for a write, at the home of
the entry (R84, R344). -/
def State.touch (s0 : State) (ashlar slot va : Nat) (write : Bool) : State :=
  let s := s0.freshen ashlar slot va write
  match s.look ashlar slot va with
  | .leaf l =>
    let walker := dieSrc (tlbDie ashlar)
    let need := needBits write
    let s1 := if (s.cached? ashlar slot va).isSome then s
      else (s.walkLines va 4 (s.slot slot).ptroot).foldl (fun (s : State) k => s.number walker k false) s
    let s2 := if l.entry &&& need == need then s1
      else (s1.number walker (l.at_ / 64) true).homeWrite l.at_ [s.mem.read l.at_ ||| need.setWidth 8] false
    let t : TlbEntry := { ashlar := ashlar, asid := slot, page := if l.big then va / 2 ^ 24 * 256 else va / 2 ^ 16, at_ := l.at_
                          entry := l.entry ||| need, odd := l.odd, level := l.level }
    if ashlar < 128 then (s2.tlbPut { t with ashlar := courseTlb ashlar }).tlbPut t else s2.tlbPut t
  | _ => s

/-- touch for every page of a range. -/
def State.touchRange (s : State) (ashlar slot va n : Nat) (write : Bool) : State :=
  (lineStarts va n).foldl (fun s a => s.touch ashlar slot a write) s

/-- CP of the leaf that translates an address (Table 4-4). -/
def State.cpOf (s : State) (ashlar slot va : Nat) : Nat := match s.look ashlar slot va with | .leaf l => l.cp | _ => 0

/-- Bytes of the job's address space at their homes; every byte must translate. -/
def State.readVa (s : State) (ashlar slot va n : Nat) : List Byte :=
  (List.range n).map fun i => s.mem.read (s.paOf ashlar slot (va + i))

/-- TLB of the units of a die. -/
def dieTlb (die : Nat) : Nat := 128 + die

/-- Reading n bytes by a unit of a die: the bytes where all translate with read permission (R31, R55, R57). -/
def State.unitRead? (s : State) (die slot va n : Nat) : Option (List Byte) :=
  if (s.pathFault (dieTlb die) slot va n { read := true }).isSome then none
  else some (s.readVa (dieTlb die) slot va n)

/-! ### Buffer records -/

/-- A buffer record (Table 4-2). -/
structure BufRec where
  base : Nat
  width : Nat
  height : Nat
  pitch : Nat
  stride : Nat
  space : Nat
  swizzle : Nat
  short : Bool
  ro : Bool
  policy : Nat
  reserved : Nat

/-- Register bn (R77). -/
def Wave.buf (w : Wave) (n : Nat) : BufRec :=
  let d := fun i => (w.b.getD (4 * n + i) 0).toNat
  let d2 := d 2
  { base := d 0, width := d 1 % 2 ^ 32, height := d 1 / 2 ^ 32, pitch := d2 % 2 ^ 32
    stride := d2 / 2 ^ 32 % 2 ^ 16, space := d2 / 2 ^ 48 % 8, swizzle := d2 / 2 ^ 51 % 8
    short := d2 / 2 ^ 54 % 2 == 1, ro := d2 / 2 ^ 55 % 2 == 1, policy := d2 / 2 ^ 56 % 4
    reserved := d2 / 2 ^ 58 + d 3 }

/-- Morton number of two 3-bit coordinates (R78). -/
def morton (x y : Nat) : Nat :=
  x % 2 + y % 2 * 2 + x / 2 % 2 * 4 + y / 2 % 2 * 8 + x / 4 % 2 * 16 + y / 4 % 2 * 32

/-- Addr(b, x, y) (R78). -/
def BufRec.addr (b : BufRec) (x y : Nat) : Nat :=
  if b.swizzle = 1 then
    b.base + y / 8 * 8 * b.pitch + x / 8 * 64 * b.stride + morton (x % 8) (y % 8) * b.stride
  else
    let a := b.base + y * b.pitch + x * b.stride
    if b.swizzle = 2 then a / 128 * 128 + ((a / 16 % 8) ^^^ (a / 128 % 8)) * 16 + a % 16 else a

/-- Coordinates of an index word and offset, and whether they are in bounds (R78). -/
def BufRec.coord (b : BufRec) (v off : Nat) : Nat × Nat × Bool :=
  if b.height ≤ 1 then
    let x := v + off
    (x, 0, decide (x < b.width))
  else
    let x := v % 2 ^ 16 + off
    let y := v / 2 ^ 16
    (x, y, decide (x < b.width) && decide (y < b.height))

/-- Bytes of the stacked-scratch window of a die (%mlscrsize, R94). -/
def State.scrSize (s : State) (die : Nat) : Nat := (s.die die).banks.length * 2 ^ 20

/-- Window address of a space-2 address (R94). -/
def State.windowAddr (s : State) (w : Wave) (a : Nat) : Nat :=
  let sl := s.slot w.slot
  if sl.sys then a else (sl.grant.getD w.die (0, 0)).1 * 4096 + a

/-- Whether a space-2 access touches a unit of a bank that has left service (R350). -/
def State.lostBank (s : State) (w : Wave) (a n : Nat) : Bool :=
  let d := s.die w.die
  let va := s.windowAddr w a
  let k := d.banks.length
  (List.range (n + 4095)).any fun i => i % 4096 == 0 && k != 0 &&
    (let (sl, b) := d.banks.getD ((va + min i (n - 1)) / 4096 % k) (0, 0)
     !((d.slices.getD sl (Slice.reset sl)).live.getLsbD b))

/-- The issue rows of Table 4-3 for one lane, with the ends of spaces 3 and 4 (R273): a class and ADDR, or the
address to access. No address is
computed for a malformed record or a coordinate out of bounds (R78). -/
def State.accessAt (s : State) (w : Wave) (b : BufRec) (v off size : Nat) (write strong : Bool) :
    (Nat × Nat) ⊕ Nat :=
  let (x, y, inb) := b.coord v off
  let a := b.addr x y
  let last := a + size - 1
  let sl := s.slot w.slot
  if 5 ≤ b.space || 3 ≤ b.swizzle || b.reserved ≠ 0 then .inl (cProtection, 0)
  else if !inb then .inl (cBounds, 0)
  else if write && (b.ro || b.space = 4) then .inl (cProtection, a)
  else if strong && a % size ≠ 0 then .inl (cProtection, a)
  else if b.space = 1 && decide (w.scrSize + w.shSize ≤ last) then .inl (cProtection, a)
  else if b.space = 3 && decide (131072 ≤ last) then .inl (cProtection, a)
  else if b.space = 4 && decide (32768 ≤ last) then .inl (cProtection, a)
  else if b.space = 2 && decide (s.scrSize w.die ≤ s.windowAddr w last) then .inl (cBounds, a)
  else if b.space = 2 && !sl.sys && decide ((sl.grant.getD w.die (0, 0)).2 * 4096 ≤ last) then .inl (cProtection, a)
  else .inr a

/-! ### Performance counters -/

/-- Counts n occurrences of an event for a slot on an ashlar (R308, Table 15-6). -/
def State.count (s : State) (ashlar ev n slot : Nat) : State :=
  if s.courseStill (courseOf ashlar) then s else s.modAshlar ashlar fun a => { a with
    pmc := List.zipWith (fun p sel =>
      let e := sel.toNat
      if e % 256 == ev && (e / 2 ^ 14 % 2 == 0 || e / 2 ^ 8 % 64 == slot) then p + BitVec.ofNat 64 n else p)
      a.pmc a.pmcsel }

/-- Counts the pages of an access that the ashlar's TLB does not hold, and of those the ones its course's does not (R86, R308
events 11 and 12). -/
def State.noteMisses (s : State) (ashlar slot : Nat) (vas : List Nat) : State :=
  let miss := (nub (vas.map (· / 2 ^ 16))).filter fun p => (s.tlbEntry? ashlar slot (p * 2 ^ 16)).isNone
  let far := miss.filter fun p => (s.tlbEntry? (courseTlb ashlar) slot (p * 2 ^ 16)).isNone
  (s.count ashlar 11 miss.length slot).count ashlar 12 far.length slot

/-! ### Units that read and write a job's memory -/

/-- Whether a source's access to a line can be performed now (R21, R91): no packet of it to that line is on its way, 64 are not
unacknowledged, and a line of the other die, or whose memory is there, has the link. -/
def State.reach (s : State) (src line : Nat) : Bool :=
  let home := s.home line
  let mine := s.reqs.filter fun r => match r.body with | .packet p => p.src == src && p.home == home | _ => false
  decide (mine.length < 64) && (mine.all fun r => match r.body with | .packet p => p.line != line || p.told || p.stage == .performed | _ => true)
    && !s.holdsFor line && s.linkOpen (srcDie src) (home / 16) && ((s.way? line).isSome || s.linkOpen (home / 16) (memDie line))

/-- What a unit's access to a line does beside its bytes: A, and D for a write, the packet to the home, and the line's place in a
cache way, by the CP of its leaf, since a unit has no buffer record (R84, R87). -/
def State.unitLine (s : State) (src ashlar slot va : Nat) (write : Bool) : State :=
  let s1 := s.touch ashlar slot va write
  let line := s1.paOf ashlar slot va / 64
  (s1.number src line write).unitWay line (s1.cpOf ashlar slot va) write

/-- unitLine for every line of a range. -/
def State.unitTouch (s : State) (src ashlar slot va n : Nat) (write : Bool) : State :=
  (lineStarts va n).foldl (fun s a => s.unitLine src ashlar slot a write) s

/-! ### Instruction fetch -/

/-- Bytes of a physical address as they stood for a key (R99). -/
def State.codeByte (s : State) (k : CodeKey) (pa : Nat) : Byte :=
  match s.code.find? fun c => c.1 == k && c.2.1 == pa / 64 with
  | some c => c.2.2.getD (pa % 64) 0
  | none => s.mem.read pa

/-- What was kept for one key is kept for another from now on. -/
def State.codeCopy (s : State) (k l : CodeKey) : State :=
  { s with code := s.code ++ (s.code.filter (·.1 == k)).map fun c => (l, c.2) }

/-- A key ends. -/
def State.codeEnd (s : State) (k : CodeKey) : State :=
  { s with code := s.code.filter (·.1 != k), codeKeys := s.codeKeys.filter (· != k) }

/-- Bytes of code or of a table as a run reads them (R99). -/
def State.readCode (s : State) (run ashlar slot va n : Nat) : List Byte :=
  (List.range n).map fun i => s.codeByte (.run run) (s.paOf ashlar slot (va + i))

/-- The line of a run's code in an ashlar's instruction memory. -/
def State.imem? (s : State) (ashlar run va : Nat) : Option ImemLine :=
  s.imem.find? fun l => l.ashlar == ashlar && l.run == run && l.line == va / 64

/-- Puts the line of an address into the instruction memory, which holds 1,024 (R12, R84); with it full another one goes. The line
comes by a packet of the ashlar, under the CP of its leaf alone. -/
def State.imemFill (s0 : State) (ashlar slot run va : Nat) : State :=
  if (s0.imem? ashlar run va).isSome then s0
  else
    let line := s0.paOf ashlar slot va / 64
    let s := (s0.number ashlar line false).unitWay line (s0.cpOf ashlar slot va) false
    let l : ImemLine := { ashlar := ashlar, run := run, line := va / 64, data := s.readCode run ashlar slot (va / 64 * 64) 64 }
    let own := s.imem.filter (·.ashlar == ashlar)
    if own.length < 1024 then { s with imem := l :: s.imem }
    else match own[Sys2Proof.Config.choice s.free % own.length]? with
      | none => s
      | some v => { s with imem := l :: s.imem.filter fun u => u != v, free := s.free + 1 }

/-- The word at a virtual address as instruction fetch reads it (R84, R99, R180): from the instruction memory, else from the home;
a class and code where it cannot. -/
def State.fetch (s : State) (w : Wave) (va : Nat) : (Nat × Nat) ⊕ Word :=
  match s.pathFault w.ashlar w.slot va 4 { fetch := true } with
  | some f => .inl f
  | none => match s.imem? w.ashlar w.run va with
    | some l => .inr (BitVec.ofNat 32 (ofBytes ((l.data.drop (va % 64)).take 4)))
    | none =>
      if s.bad (s.paOf w.ashlar w.slot va / 64) then .inl (cHardware, 1)
      else .inr (BitVec.ofNat 32 (ofBytes (s.readCode w.run w.ashlar w.slot va 4)))

end Sys2Proof.Machine
end

