-- ==== Sys2Proof/Machine/Request.lean ====
section
/-! DEFINITION. Space 1 as waves and engines address it (R88), requests between issue and performance: what must be done before a request (R100, R103,
R108), the L1 and its actions (R87, R89, R106), and packets to the home slices (R21). -/

namespace Sys2Proof.Machine

/-- Paths of Table 5-1. -/
def pathL : Nat := 0
def pathA : Nat := 1
def pathM : Nat := 2
def pathQ : Nat := 3
def pathG : Nat := 4
def pathH : Nat := 5

/-- A request in flight by number. -/
def State.req? (s : State) (id : Nat) : Option Req := s.reqs.find? (·.id == id)

/-- Changes a request. -/
def State.modReq (s : State) (id : Nat) (f : Req → Req) : State :=
  { s with reqs := updWhere (·.id == id) f s.reqs }

/-- Removes a request. -/
def State.dropReq (s : State) (id : Nat) : State := { s with reqs := s.reqs.filter (·.id != id) }

/-- Whether an outstanding instruction still waits in some of these lanes. -/
def State.opPending (s : State) (id : Nat) (m : Mask) : Bool :=
  s.waves.any fun w => w.ops.any fun o => o.id == id && o.lanes &&& m != 0

/-- Whether a request has been performed, or an instruction has completed for the lanes. -/
def State.isDone (s : State) (d : Nat × Mask) : Bool :=
  match s.req? d.1 with
  | some r => match r.body with
    | .packet p => p.stage == .performed
    | _ => false
  | none => !s.opPending d.1 d.2

/-- Whether everything a request awaits is done. -/
def State.ready (s : State) (r : Req) : Bool := r.after.all s.isDone

/-- The lanes of the context's wave whose access a request is: its own, or one they made before a REFORM (R109). -/
def Ctx.lanesIn (x : Ctx) (q : Req) : Mask :=
  (x.w.past.filter (·.1 == q.id)).foldl (fun m p => m ||| p.2) (if q.wave == x.w.id then q.lanes else 0)

/-- Gives an outstanding instruction values for lanes, which are then ready to arrive. -/
def State.opReady (s : State) (wave op : Nat) (m : Mask) (ds : List (Nat × Dst)) : State :=
  s.modWave wave fun w => w.modOp op fun o => { o with done := o.done ||| (m &&& o.lanes), dsts := o.dsts ++ ds }

/-- What a new request of the context awaits: holds on its path, and for a strong access the earlier strong
accesses of its lanes (R100). -/
def Ctx.awaits (x : Ctx) (path : Nat) (lanes : Mask) (strong : Bool) : List (Nat × Mask) :=
  let hs := (x.w.hold.filter fun h => h.path == path && h.lanes &&& lanes != 0).map fun h => (h.on, h.of)
  let ss := if strong then (x.s.reqs.filter fun q => q.strong && x.lanesIn q &&& lanes != 0).map fun q => (q.id, q.lanes) else []
  (hs ++ ss).filter fun d => !(x.s.setWave x.w).isDone d

/-- The lanes of a mask by what holds their accesses on path L: each lane is an agent of its own, so that one whose section is granted
goes on without those that still wait for theirs (R100, R117). -/
def Ctx.parts (x : Ctx) (m : Mask) : List Mask :=
  let s := x.s.setWave x.w
  let key := fun (l : Nat) => (x.w.hold.filter fun h => h.path == pathL && laneBit h.lanes l && !s.isDone (h.on, h.of)).map fun h => (h.on, h.of)
  (nub ((lanesOf m).map key)).map fun k => maskOf ((lanesOf m).filter fun l => key l == k)

/-- The slice that holds an address of a die's stacked-scratch window (R94). -/
def State.windowHome (s : State) (die va : Nat) : Nat :=
  let d := s.die die
  16 * die + (d.banks.getD (va / 4096 % max 1 d.banks.length) (0, 0)).1

/-- Home slice that the header of a request's message names (R24): of its key, its result, its line; for an append or a remote
arrival, which no slice performs, slice 0 of the die (log entry 69). -/
def State.bodyHome (s : State) (b : ReqBody) (die : Nat) : Option Nat :=
  match b with
  | .order _ _ key _ _ => some (s.keyHome key)
  | .append _ d _ _ => some (16 * d)
  | .reduce _ _ pa => some (s.home (pa / 64))
  | .cancelWatch space addr => some (if space = 0 then s.home (addr / 64) else s.windowHome die addr)
  | .barrier (.remote _) a _ _ => some (16 * dieOf a)
  | _ => none

/-- Die of the home that a request is performed at, where that is one (R91, R115, R225, R249). -/
def State.bodyDie (s : State) (b : ReqBody) (die : Nat) : Nat := ((s.bodyHome b die).map (· / 16)).getD die

/-- The context after an operation on the state that may change its wave as well. -/
def Ctx.onState (x : Ctx) (f : State → State) : Ctx :=
  let s := f (x.s.setWave x.w)
  { x with s := s, w := (s.wave? x.w.id).getD x.w }

/-- Adds a request of the word in execution; answers its number. Its
message has the source, home and sequence number of R24, and crosses the link to a home of the other die. -/
def Ctx.addReq (x : Ctx) (lanes : Mask) (path : Nat) (read write strong : Bool) (op : Option Nat)
    (extra : List (Nat × Mask)) (body : ReqBody) : Ctx × Nat :=
  let id := x.s.nextId
  let r : Req := { id := id, wave := x.w.id, run := x.w.run, slot := x.w.slot, ashlar := x.w.ashlar, op := op
                   path := path, write := write, read := read, strong := strong, lanes := lanes
                   after := x.awaits path lanes strong ++ extra, die := x.w.die
                   cross := if x.s.bodyDie body x.w.die = x.w.die then none else some x.s.now, body := body
                   head := (x.s.bodyHome body x.w.die).map fun h => (x.w.ashlar, h, x.s.seqOf x.w.ashlar h) }
  let s := match x.s.bodyHome body x.w.die with
    | some h => x.s.bump x.w.ashlar h
    | none => x.s
  ({ x with s := { s with nextId := id + 1, reqs := s.reqs ++ [r] } }, id)

/-! ### The L1 -/

/-- The ashlar whose L1 share serves an ashlar's accesses to a line (R89). -/
def State.l1Of (s : State) (ashlar line : Nat) : Nat :=
  if (s.course (courseOf ashlar)).fused then ashlar / 8 * 8 + ((line % 8) ^^^ (line / 8 % 8)) else ashlar

/-- The L1 shares a release or acquire of an ashlar acts on (Table 5-4). -/
def State.l1Group (s : State) (ashlar : Nat) : List Nat :=
  if (s.course (courseOf ashlar)).fused then (List.range 8).map fun i => ashlar / 8 * 8 + i else [ashlar]

/-- Whether a scope has an L1 action at an ashlar: die or wider always, course in private mode (Table 5-4). -/
def State.l1Acts (s : State) (ashlar sc : Nat) : Bool :=
  decide (3 ≤ sc) || (sc == 2 && !(s.course (courseOf ashlar)).fused)

/-- The line held in an L1 share. -/
def State.l1Line? (s : State) (cache line : Nat) : Option L1Line :=
  s.l1.find? fun l => l.cache == cache && l.line == line

/-- Replaces or adds a line of L1. -/
def State.setL1 (s : State) (l : L1Line) : State :=
  { s with l1 := l :: s.l1.filter fun k => !(k.cache == l.cache && k.line == l.line) }

/-- Discards clean bytes of a line; a line with dirty bytes keeps them (R106). -/
def L1Line.invalidate (l : L1Line) : Option L1Line :=
  if l.dirty = 0 then none else some { l with valid := l.dirty }

/-- Invalidates the lines of the L1 shares named. -/
def State.l1Invalidate (s : State) (caches : List Nat) : State :=
  { s with l1 := s.l1.filterMap fun l => if caches.contains l.cache then l.invalidate else some l }

/-- The acquire action of Table 5-4. -/
def State.acquireAt (s : State) (ashlar sc : Nat) : State :=
  if s.l1Acts ashlar sc then s.l1Invalidate (s.l1Group ashlar) else s

/-! ### Packets -/

/-- Sends a packet to the home of its line from the router of its source: the next sequence number of the pair, held while 64
are unacknowledged (R21) or while the line is to move (R351). -/
def State.send (s : State) (r : Req) (p : Packet) : State :=
  let home := s.home p.line
  let q : Packet := { p with home := home, seq := s.seqOf p.src home, router := startRouter p.src home, came := none
                             stage := if decide (64 ≤ s.unacked p.src home) || s.holdsFor p.line then .window else .flight }
  -- R308 event 10; bytes of L1 on their way home belong to no slot
  let s1 := (s.count p.src 10 1 (if r.wave = 0 then 64 else r.slot)).bump p.src home
  { s1 with
    nextId := s.nextId + 1
    reqs := s.reqs ++ [{ r with id := s.nextId, die := srcDie p.src, cross := none, body := .packet q }] }

/-- The bytes of a mask as single-byte pieces. -/
def maskPieces (line : Nat) (data : List Byte) (m : Mask) : List Piece :=
  (lanesOf m).map fun i => { lane := 0, addr := line * 64 + i, off := 0, len := 1, data := [data.getD i 0] }

/-- Writes back the dirty bytes of one line of L1, which stays clean. -/
def State.writeBackLine (s : State) (l : L1Line) : State :=
  if l.dirty = 0 then s
  else
    (s.setL1 { l with dirty := 0 }).send unitReq
      { src := l.cache, home := 0, seq := 0, line := l.line, kind := .store
        pieces := maskPieces l.line l.data l.dirty }

/-- Lines of the L1 share of an ashlar at a split: 256, 128 or 64 KiB (R15, R71). -/
def l1Lines (split : Nat) : Nat := match split with | 1 => 4096 | 2 => 2048 | _ => 1024

/-- Puts a line into an L1 share; with the share full another line is written back and goes, one that is first choice for
replacement where there is one (Table 4-7). The shares of a fused course are full each by itself (R89). -/
def State.allocL1 (s : State) (l : L1Line) : State :=
  let own := s.l1.filter fun k => k.cache == l.cache
  if (s.l1Line? l.cache l.line).isSome || decide (own.length < l1Lines (s.ashlar l.cache).split) then s.setL1 l
  else
    let pick := if own.any (·.stream) then own.filter (·.stream) else own
    match pick[Sys2Proof.Config.choice s.free % pick.length]? with
    | none => s.setL1 l
    | some v =>
      let s1 := { s with free := s.free + 1 }.writeBackLine v
      { s1 with l1 := s1.l1.filter fun k => !(k.cache == v.cache && k.line == v.line) }.setL1 l

/-- A byte that a cache has posted to the home of its line and that has not been performed there: the newest. -/
def State.postedByte (s : State) (cache pa : Nat) : Option Byte :=
  s.reqs.foldl (fun b r => match r.body with
    | .packet p =>
      if p.src == cache && p.line == pa / 64 && p.kind == .store && !p.short && p.stage != .performed then
        p.pieces.foldl (fun b q => if q.addr ≤ pa && decide (pa < q.addr + q.data.length) then q.data[pa - q.addr]? else b) b
      else b
    | _ => b) none

/-- Allocates a line in L1 with the home's bytes, keeping the bytes that are valid there and those that are posted and not yet
performed, so that no lane sees less than its own writes (R105). -/
def State.fillL1 (s : State) (cache line : Nat) (stream : Bool) : State :=
  let old := s.l1Line? cache line
  let byte := fun i => match old with
    | some l => if laneBit l.valid i then l.data.getD i 0 else (s.postedByte cache (line * 64 + i)).getD (s.mem.read (line * 64 + i))
    | none => (s.postedByte cache (line * 64 + i)).getD (s.mem.read (line * 64 + i))
  s.allocL1 { cache := cache, line := line, data := (List.range 64).map byte
              valid := ~~~0, dirty := (old.map (·.dirty)).getD 0, stream := stream }

/-- Writes back every dirty byte of the L1 shares named. -/
def State.writeBack (s : State) (caches : List Nat) : State :=
  (s.l1.filter fun l => caches.contains l.cache).foldl State.writeBackLine s

/-- Write-backs of the L1 shares named that have not been performed. -/
def State.backsOf (s : State) (caches : List Nat) : List Nat :=
  (s.reqs.filter fun r => match r.body with
    | .packet p => p.parent.isNone && !p.told && caches.contains p.src && p.kind == .store && p.stage != .performed
    | _ => false).map (·.id)

/-! ### Scratch of a wave -/

/-- Bytes of the wave's private and node-shared regions together. -/
def Wave.scrAll (w : Wave) : Nat := w.scrSize + w.shSize

/-- Whether n bytes from a space-1 address lie in the wave's regions. -/
def Wave.inScratch (w : Wave) (a n : Nat) : Bool := decide (a + n ≤ w.scrAll)

/-- Whether n bytes lie wholly in the private or wholly in the node-shared region (R233, R235). -/
def Wave.inRegion (w : Wave) (a n : Nat) : Bool :=
  decide (a + n ≤ w.scrSize) || (decide (w.scrSize ≤ a) && decide (a + n ≤ w.scrAll))

/-- Offset within the ashlar's scratch share of a space-1 address of a wave (R88). -/
def Wave.scratchAt (w : Wave) (a : Nat) : Nat := if a < w.scrSize then w.scrBase + a else w.shBase + (a - w.scrSize)

/-- Whether a wave's context is saved or on its way back, its private scratch with it. -/
def Wave.away (w : Wave) : Bool := w.stat == .saved || w.stat == .restoring

/-- A byte of space 1. -/
def State.scratchByte (s : State) (w : Wave) (a : Nat) : Byte :=
  if w.away && decide (a < w.scrSize) then w.savedScratch.read a
  else if a < w.scrAll then (s.ashlar w.ashlar).scratch.read (w.scratchAt a)
  else 0

/-- n bytes of space 1. -/
def State.scratchRead (s : State) (w : Wave) (a n : Nat) : List Byte := (List.range n).map fun i => s.scratchByte w (a + i)

/-- Writes a byte of space 1 of a wave. -/
def State.scratchPut (s : State) (id a : Nat) (b : Byte) : State :=
  match s.wave? id with
  | none => s
  | some w =>
    if w.away && decide (a < w.scrSize) then s.modWave id fun w => { w with savedScratch := w.savedScratch.write a b }
    else if a < w.scrAll then s.modAshlar w.ashlar fun x => { x with scratch := x.scratch.write (w.scratchAt a) b }
    else s

/-- Writes bytes of space 1 of a wave. -/
def State.scratchWrite (s : State) (id a : Nat) : List Byte → State
  | [] => s
  | b :: bs => (s.scratchPut id a b).scratchWrite id (a + 1) bs

/-! ### Fences -/

/-- A fence is performed: code and tables are kept as they stand now for the launches that it releases (R99, R109). -/
def State.released (s : State) (f : Nat) : State :=
  { s with codeKeys := s.codeKeys ++ (s.launches.filter fun l => l.after == some f).map fun l => .launch l.id }

/-- Starts or ends the fences whose conditions hold: a release writes L1 back and then awaits the
write-backs; an acquire invalidates (R106, R108). An append reads its records once its release has been performed (R249). A weak
store to space 2 or 3 that waits for nothing more has left the ashlar, which is all its completion asks (R209), where its banks are
in service (R350). -/
def State.settleOne (s : State) (r : Req) : State :=
  match r.body with
  | .fence rel acq full sc started =>
    if !s.ready r then s
    else if started then (s.dropReq r.id).released r.id
    else
      let caches := s.l1Group r.ashlar
      let acts := s.l1Acts r.ashlar sc || full
      let s1 := if rel && acts then s.writeBack caches else s
      let s2 := if acq then s1.acquireAt r.ashlar sc else s1
      let waits := if rel && acts then s2.backsOf caches else []
      if waits.isEmpty then (s2.dropReq r.id).released r.id
      else s2.modReq r.id fun q => { q with after := waits.map fun i => (i, 0), body := .fence rel acq full sc true }
  | .append n d recs (o :: os) =>
    if !s.ready r then s
    else match s.wave? r.wave with
      | none => s
      | some w =>
        let read := fun (k : QRec) (a : Nat) => { k with bytes := s.scratchRead w a k.bytes.length }
        s.modReq r.id fun q => { q with body := .append n d (List.zipWith read recs (o :: os)) [] }
  | .mem m =>
    if m.kind != .store || m.sent || (m.space != 2 && m.space != 3) || !s.ready r then s
    else match s.wave? r.wave, r.op with
      | some w, some op =>
        if m.space == 2 && m.items.any (fun it => s.lostBank w it.addr it.size) then s
        else (s.modReq r.id fun q => { q with body := .mem { m with sent := true } }).opReady r.wave op
          (maskOf (m.items.map (·.lane)) ||| if m.scalar then r.lanes else 0) []
      | _, _ => s
  | _ => s

/-- Settles every fence in order; a fence ended frees the ones after it. -/
def State.settle (s : State) : State := s.reqs.foldl State.settleOne s

/-- Path of the access that an outstanding instruction waits for at no request: a barrier, a section not yet granted, a
watch; a queue row or FIFO entry (Table 5-1). -/
def Op.path? (o : Op) : Option Nat :=
  match o.wait with
  | .barrier _ _ | .mwait .. => some pathL
  | .qpop _ _ _ _ | .vfpop _ => some pathQ
  | _ => if o.isEnter then some pathL else none

/-- What a fence covers of its lanes' earlier accesses on the source paths: writes, reads, or both (R103 rule 2, R108). -/
def Ctx.covered (x : Ctx) (src : Nat) (lanes : Mask) (writes reads : Bool) : List (Nat × Mask) :=
  let on := fun p => src / 2 ^ p % 2 == 1
  ((x.s.reqs.filter fun q => x.lanesIn q &&& lanes != 0 && on q.path && ((writes && q.write) || (reads && q.read))).map fun q =>
      (q.id, q.lanes))
    ++ ((x.w.ops.filter fun o => o.lanes &&& lanes != 0 && ((o.path?.map on).getD false) && (reads || o.isEnter)).map fun o =>
      (o.id, lanes))

/-- Adds the request that stands for a fence over what it covers; answers its number. -/
def Ctx.addFence (x : Ctx) (lanes : Mask) (before : List (Nat × Mask)) (rel acq full : Bool) (sc : Nat) : Ctx × Nat :=
  x.addReq lanes 6 false false false none before (.fence rel acq full sc false)

/-- A release on path L at a scope (R102, R106): what the releasing request must await. It covers every access of its agents on
path L before it, reads among them. -/
def Ctx.release (x : Ctx) (lanes : Mask) (sc : Nat) : Ctx × List (Nat × Mask) :=
  let (y, f) := x.addFence lanes (x.covered 1 lanes true true) true false false sc
  (y, [(f, lanes)])

/-- Later accesses of the lanes on a path await a request or instruction. -/
def Ctx.holdOn (x : Ctx) (path : Nat) (on : Nat) (lanes : Mask) : Ctx :=
  x.modW fun w => { w with hold := w.hold ++ [⟨path, on, lanes, lanes⟩] }

/-- The state after a word, with its fences settled, the stores that have left its ashlar complete and dead holds dropped. -/
def Ctx.settled (x : Ctx) : Ctx :=
  let y := x.onState State.settle
  { y with w := { y.w with
    hold := y.w.hold.filter fun h => !y.s.isDone (h.on, h.of)
    past := y.w.past.filter fun p => (y.s.req? p.1).isSome } }

end Sys2Proof.Machine
end

