-- ==== Sys2Proof/Machine/Home.lean ====
section
/-! DEFINITION. What the device's own units do to memory: writes through translations, posts to event and error rings (R56, R323, R381), interrupts
(R298), the cornerstone record (R372) and the performance counters (R308). -/

namespace Sys2Proof.Machine

/-! ### Writes through translations -/

/-- Writes bytes to virtual addresses that passed their checks, through a TLB, as numbered packets of a source (R21). -/
def State.writeVa (s : State) (src ashlar slot va : Nat) (bs : List Byte) (strong : Bool) : State :=
  (linePieces va bs.length).foldl (fun (s : State) p =>
    let s1 := s.unitLine src ashlar slot p.2.1 true
    s1.homeWrite (s1.paOf ashlar slot p.2.1) ((bs.drop p.1).take p.2.2) strong) s

/-- Whether a unit's read of n bytes returns data: no line of them holds an uncorrectable error (R345). -/
def State.cleanVa (s : State) (ashlar slot va n : Nat) : Bool :=
  (lineStarts va n).all fun a => !s.bad (s.paOf ashlar slot a / 64)

/-! ### Rings and interrupts -/

/-- Sends an MSI-X message (R298). -/
def State.msi (s : State) (v : Nat) : State := { s with host := { s.host with vectors := v :: s.host.vectors } }

/-- Counts a dropped post in SLOTSTAT.POSTDROP (R381). -/
def State.postDrop (s : State) (slot : Nat) : State :=
  s.modSlot slot fun x => { x with postdrop := min 65535 (x.postdrop + 1) }

/-- TLB of the units of die A, which posts use. -/
def unitTlb : Nat := dieTlb 0

/-- Posts a record to the ring whose descriptor's bytes are given (R56), or drops it (R381); answers whether it was posted. A
post goes out from die A's units and, to lines of die B, over the link. -/
def State.postTo (s : State) (slot : Nat) (desc : Option (List Byte)) (record : List Byte) : State × Bool :=
  let n := record.length
  let ok := fun (va len : Nat) (k : Need) =>
    (s.pathFault unitTlb slot va len k).isNone && s.cleanVa unitTlb slot va len
  match desc with
  | none => (s.postDrop slot, false)
  | some d =>
    let base := ofBytes (d.take 8)
    let index := ofBytes ((d.drop 8).take 8)
    let count := ofBytes ((d.drop 16).take 4)
    if !(decide (1 ≤ count) && decide (count ≤ 2 ^ 20) && 2 ^ Nat.log2 count == count) || ofBytes (d.drop 20) != 0
        || base % n != 0 || index % 8 != 0 || !ok index 8 { read := true, write := true } then (s.postDrop slot, false)
    else
      let i := ofBytes (s.readVa unitTlb slot index 8)
      let at_ := base + i % count * n
      if !ok at_ n { write := true } then (s.postDrop slot, false)
      else ((s.writeVa (dieSrc 0) unitTlb slot at_ record false).writeVa (dieSrc 0) unitTlb slot index (toBytes 8 (i + 1)) true, true)

/-- Posts a record to the ring of a descriptor in a job's address space. -/
def State.post (s : State) (slot desc : Nat) (record : List Byte) : State × Bool :=
  if (s.pathFault unitTlb slot desc 32 { read := true }).isSome || !s.cleanVa unitTlb slot desc 32 then (s.postDrop slot, false)
  else (s.unitTouch (dieSrc 0) unitTlb slot desc 32 false).postTo slot (some (s.readVa unitTlb slot desc 32)) record

/-- A 64-byte record of an error ring (Table 16-8). -/
structure ErrRec where
  kind : Nat
  cls : Nat := 0
  slot : Nat
  node : Nat := 0
  run : Nat := 0
  time : Nat := 0
  pc : Nat := 0
  word : Nat := 0
  index : Nat := 0
  late : Bool := false
  code : Nat := 0
  fmask : Nat := 0
  addr : Nat := 0
  ticket : Nat := 0
  ashlar : Nat := 0
  waveseq : Nat := 0

/-- Its bytes. -/
def ErrRec.bytes (r : ErrRec) : List Byte :=
  toBytes 1 r.kind ++ toBytes 1 r.cls ++ toBytes 1 r.slot ++ toBytes 1 r.node ++ toBytes 4 r.run ++ toBytes 8 r.time
    ++ toBytes 8 r.pc ++ toBytes 4 r.word ++ toBytes 1 (r.index + if r.late then 16 else 0) ++ toBytes 1 r.code
    ++ toBytes 2 0 ++ toBytes 8 r.fmask ++ toBytes 8 r.addr ++ toBytes 4 r.ticket ++ toBytes 2 r.ashlar ++ toBytes 2 0
    ++ toBytes 4 r.waveseq ++ toBytes 4 0

/-- Posts to the error ring of a job; ERRRING 0 posts nothing (R323). -/
def State.postErr (s : State) (r : ErrRec) : State :=
  let ring := (s.slot r.slot).errring
  if ring = 0 then s else (s.post r.slot ring { r with time := s.time }.bytes).1

/-- The code of a status (Table 2-5). -/
def Status.code : Status → Nat
  | .ok => 0
  | .cancelled => 1
  | .fault => 2
  | .invalid => 3

/-- An event record (Table 2-5). -/
def eventRecord (st : Status) (level slot node run time delivered spilled tag : Nat) : List Byte :=
  toBytes 1 st.code ++ toBytes 1 level ++ toBytes 1 slot ++ toBytes 1 node ++ toBytes 4 run ++ toBytes 8 time
    ++ toBytes 4 delivered ++ toBytes 4 spilled ++ toBytes 8 tag

/-! ### The cornerstone record -/

/-- Whether n bytes from a physical address lie in the host window. -/
def hostRange (pa n : Nat) : Bool := decide (hostBase ≤ pa) && decide (pa + n ≤ 2 ^ 44)

/-- Whether the arguments of a CORNERREAD are in range (R373). -/
def HostRegs.cornerArgs (h : HostRegs) : Bool :=
  let arg := fun i => (h.args.getD i 0).toNat
  decide (arg 0 ≤ 1) && decide (1 ≤ arg 3) && decide (arg 3 ≤ 4096) && hostRange (arg 1) (16 + 16 * arg 3)

/-- Whether a CORNERREAD of a die takes an entry: its SEQ is not below the lowest wanted, and it stood when the doorbell was rung. -/
def HostRegs.cornerTakes (h : HostRegs) (d : Nat) (c : Corner) : Bool :=
  decide ((h.args.getD 2 0).toNat ≤ c.seq) && decide (c.seq < h.rungSeq.getD d 0)

/-- Whether a CORNERREAD of a die that the doorbell started is still to copy the oldest entry (R373). -/
def State.cornerReading (s : State) (d : Nat) (oldest : Option Corner) : Bool :=
  s.host.doorbell && !s.host.done && s.host.cmd == 7 && (s.host.args.getD 0 0).toNat == d && s.host.cornerArgs
    && !(d == 1 && s.plumb.linkDown.isSome) && (oldest.map (s.host.cornerTakes d)).getD false

/-- Adds an entry to a die's cornerstone record (R372); while a CORNERREAD would lose an entry to it the new
event is dropped and counted (R373). -/
def State.cornerAdd (s : State) (d event source data : Nat) : State :=
  s.modDie d fun x =>
    if decide (4096 ≤ x.corner.length) && s.cornerReading d x.corner.head? then { x with cornerDropped := x.cornerDropped + 1 }
    else
      let e : Corner := { time := s.time % 2 ^ 48, event := event, source := source, data := data % 2 ^ 32
                          seq := x.cornerSeq }
      { x with corner := (x.corner.drop (x.corner.length + 1 - 4096)) ++ [e], cornerSeq := x.cornerSeq + 1 }

/-- Logs an uncorrectable error of a line, as a patrol scrub does (R307, R346, Table 19-5). -/
def State.logLine (s : State) (line : Nat) : State := s.cornerAdd (s.home line / 16) 9 (0x80 + s.home line % 16) 6

end Sys2Proof.Machine
end

