-- ==== Sys2Proof/Machine/Control.lean ====
section
/-! DEFINITION. Control transfer, calls, reconvergence, wave and trap instructions
(spec 08_isa_scalar_flow.md R180 to R189; 02_graphs.md R39, R40, R42; 16_traps.md R320) and MISC (07_encoding.md
R166). Transfers, parks, exits and returns are recorded in the clause and take effect at its end. -/

namespace Sys2Proof.Machine

/-! ### Targets (R180) -/

/-- Clause start plus a displacement in units of 16 bytes. -/
def dispTarget (pc : Nat) (d : B8) : Nat := (((pc : Int) + d.toInt * 16) % 2 ^ 64).toNat

/-- A target in a k register, bits [3:0] ignored; bits [63:48] make the fetch fault. -/
def kTarget (k : DWord) : Nat := k.toNat / 16 * 16

/-- A per-lane target: bits [47:32] of the clause's address and v[31:4]. -/
def laneTarget (pc : Nat) (v : Word) : Nat := pc / 2 ^ 32 % 2 ^ 16 * 2 ^ 32 + v.toNat / 16 * 16

/-- Moves lanes to targets at the end of the clause (R149, R180). -/
def Ctx.transfer (x : Ctx) (ts : List (Nat × Nat)) : Ctx := { x with c := { x.c with xfer := x.c.xfer ++ ts } }

/-- Moves every lane of a mask to one target. -/
def Ctx.transferAll (x : Ctx) (m : Mask) (t : Nat) : Ctx := x.transfer ((lanesOf m).map fun l => (l, t))

/-- A branch on a scalar (R181): tested once for the subgroup. -/
def branchOn (s : State) (d : B8) (r : SR) (p : PR) (test : DWord → Bool) : Out :=
  issue s { ct := true, pr := p } fun x m =>
    if test (x.sr r) then x.transferAll m (dispTarget x.c.pc d) else x

/-- BRA (R181): the predicate alone decides. -/
def execBra (d : B8) (p : PR) (s : State) : Out :=
  issue s { ct := true, pr := p } fun x m => x.transferAll m (dispTarget x.c.pc d)

/-- BRA.Z (R181). -/
def execBraZ (d : B8) (r : SR) (p : PR) (s : State) : Out := branchOn s d r p fun v => v == 0
/-- BRA.NZ (R181). -/
def execBraNz (d : B8) (r : SR) (p : PR) (s : State) : Out := branchOn s d r p fun v => v != 0
/-- BRA.LT (R181): signed. -/
def execBraLt (d : B8) (r : SR) (p : PR) (s : State) : Out := branchOn s d r p fun v => v.msb
/-- BRA.GE (R181): signed. -/
def execBraGe (d : B8) (r : SR) (p : PR) (s : State) : Out := branchOn s d r p fun v => !v.msb

/-- BRK (R182). -/
def execBrk (k : SR) (p : PR) (s : State) : Out :=
  issue s { ct := true, pr := p } fun x m => x.transferAll m (kTarget (x.w.kreg k.toNat))

/-- JMPV (R182): each lane to its own target. -/
def execJmpv (a : VR) (p : PR) (s : State) : Out :=
  issue s { pr := p, regs := [(a.toNat, 1)] } fun x m =>
    x.transfer ((lanesOf m).map fun l => (l, laneTarget x.c.pc (x.vr l a)))

/-- Whether the budget check of a call lets a lane through (R184, R185): the target's first word is read with the
fetch; without a word to read the lane transfers and faults at the fetch. -/
def Ctx.callOk (x : Ctx) (target : Nat) (indirect : Bool) : Bool :=
  x.w.isThread ||
    match x.s.fetch x.w (target + 4) with
    | .inl _ => true
    | .inr w =>
      if w.toNat / 2 ^ 20 = 0x6F * 2 ^ 5 ∧ w.toNat % 2 ^ 12 = 0 then
        let n := w.toNat / 2 ^ 12 % 256
        n != 0 && decide (n ≤ 128) && decide (n ≤ x.w.regs)
      else !indirect

/-- The first word of a call's target is read as a fetch reads it (R84). -/
def Ctx.readTarget (x : Ctx) (target : Nat) : Ctx :=
  if x.w.isThread || (x.s.pathFault x.w.ashlar x.w.slot (target + 4) 4 { fetch := true }).isSome then x
  else x.onState fun s => (s.touch x.w.ashlar x.w.slot (target + 4) false).imemFill x.w.ashlar x.w.slot x.w.run (target + 4)

/-- A call (R183, R184): lanes over budget fault and keep their link register; the others link and
transfer. -/
def callTo (s : State) (a : VR) (p : PR) (ct indirect : Bool) (target : Ctx → Nat → Nat) : Out :=
  issue s { ct := ct, pr := p, regs := [(a.toNat, 1)] } fun x m =>
    let ok := fun l => x.callOk (target x l) indirect
    let good := (lanesOf m).filter ok
    let bad := (lanesOf m).filter fun l => !ok l
    let link := BitVec.ofNat 32 x.seqPc
    let y := (nub ((lanesOf m).map (target x))).foldl Ctx.readTarget x
    ((y.puts (good.map fun l => .vreg l a.toNat link)).transfer (good.map fun l => (l, target x l))).raise m
      (bad.map fun l => { lane := l, cls := cBudget })

/-- CALL (R183). -/
def execCallDisp (d : B8) (a : VR) (p : PR) (s : State) : Out :=
  callTo s a p true false fun x _ => dispTarget x.c.pc d
/-- CALLK (R183). -/
def execCallk (k : SR) (a : VR) (p : PR) (s : State) : Out :=
  callTo s a p true false fun x _ => kTarget (x.w.kreg k.toNat)
/-- ICALL (R183): a target without FDECL faults BUDGET. -/
def execIcall (a : VR) (p : PR) (s : State) : Out :=
  callTo s a p false true fun x l => laneTarget x.c.pc (x.vr l a)

/-- RET (R183). -/
def execRetLink (a : VR) (p : PR) (s : State) : Out :=
  issue s { ct := true, pr := p, regs := [(a.toNat, 1)] } fun x m =>
    x.transfer ((lanesOf m).map fun l => (l, laneTarget x.c.pc (x.vr l a)))

/-- FDECL (R185): no effect; imm8 0 or above 128 is illegal when executed (Table 17-3). -/
def execFdecl (n : B8) (s : State) : Out :=
  issue s { ct := true, bad := fun _ => n == 0 || decide (128 < n.toNat) } fun x _ => x

/-! ### Reconvergence -/

/-- Whether a lane counts as exited for masks and stack entries: exited or filed (R39, R40). -/
def Lane.gone (n : Lane) : Bool := n.stat == .exited || n.stat == .filed

/-- Whether a lane is parked at a JOIN. -/
def Lane.atJoin (n : Lane) : Bool := match n.stat with | .parked (.join _) => true | _ => false

/-- Whether a lane is parked at a REJOIN of jN. -/
def Lane.atRejoin (n : Lane) (j : Nat) : Bool := match n.stat with | .parked (.rejoin k _) => k == j | _ => false

/-- Pops complete entries of the divergence stack and releases the lanes parked at JOIN (R39, R186); fuel is
the depth. -/
def Wave.releaseJoins : Nat → Wave → Wave
  | 0, w => w
  | fuel + 1, w =>
    match w.stack with
    | [] => w
    | (target, m) :: rest =>
      if (lanesOf m).all fun l => (w.lane l).gone || (w.lane l).atJoin then
        let w1 := { w with stack := rest
                           lanes := w.lanes.map fun n =>
                             if n.atJoin then { n with stat := .run, pc := target, idx := 0, since := w.clauses, waited := 0 }
                             else n }
        Wave.releaseJoins fuel w1
      else w

/-- Releases one rejoin mask when its condition holds (R40, R187). -/
def Wave.releaseRejoin (w : Wave) (j : Nat) : Wave :=
  let m := w.j.getD j 0
  let ls := lanesOf m
  if (ls.any fun l => (w.lane l).atRejoin j) && ls.all fun l => (w.lane l).gone || (w.lane l).atRejoin j then
    { w with j := w.j.set j 0
             lanes := w.lanes.map fun n =>
               if n.atRejoin j then { n with stat := .run, since := w.clauses, waited := 0 } else n }
  else w

/-- Re-evaluates every reconvergence point of a wave. -/
def Wave.reconverge (w : Wave) : Wave :=
  if w.div then (List.range 8).foldl Wave.releaseRejoin w else Wave.releaseJoins 33 w

/-- Parks lanes at the end of the clause. -/
def Ctx.parkAtEnd (x : Ctx) (m : Mask) (why : Park) : Ctx :=
  { x with c := { x.c with parks := x.c.parks ++ [(m, why)] } }

/-- A word of the stack mode only: illegal in a mask-mode node (Table 17-6). -/
def stackWord (s : State) (f : Ctx → Mask → Ctx) : Out := issue s { bad := fun x => x.w.div } f

/-- A word of the mask mode only. -/
def maskWord (s : State) (f : Ctx → Mask → Ctx) : Out := issue s { bad := fun x => !x.w.div } f

/-- MARK (R39, R186); on a full stack BUDGET (R336). -/
def execMarkPush (d : B8) (s : State) : Out :=
  stackWord s fun x m =>
    if 32 ≤ x.w.stack.length then x.raiseAll m cBudget
    else x.modW fun w => { w with stack := (dispTarget x.c.pc d, m) :: w.stack }

/-- JOIN (R39, R186); on an empty stack no lane parks (R336). -/
def execJoinLanes (s : State) : Out :=
  stackWord s fun x m => if x.w.stack.isEmpty then x else x.parkAtEnd m (.join x.c.pc)

/-- ENROL (R40, R187). -/
def execEnrol (j : PR) (s : State) : Out :=
  maskWord s fun x m => x.modW fun w => { w with j := w.j.modify j.toNat (· ||| m) }

/-- REJOIN (R40, R187): lanes outside jN pass through. Issued again by a RETRY, its lanes, which the watchdog took out of jN, wait
anew (R319), and are in jN again (DESIGN CHOICE, log entry 22). -/
def execRejoin (j : PR) (s : State) : Out :=
  maskWord s fun x m =>
    let y := if x.c.only then x.modW fun w => { w with j := w.j.modify j.toNat (· ||| m) } else x
    y.parkAtEnd (m &&& y.w.j.getD j.toNat 0) (.rejoin j.toNat x.c.pc)

/-- STRIKE (R40, R187): may release the lanes that wait. -/
def execStrike (j : PR) (s : State) : Out :=
  maskWord s fun x m => x.modW fun w => ({ w with j := w.j.modify j.toNat (· &&& ~~~m) }).reconverge

/-- JCLR (R40, R187): releases nobody. -/
def execJclr (j : PR) (s : State) : Out :=
  maskWord s fun x _ => x.modW fun w => { w with j := w.j.set j.toNat 0 }

/-! ### Wave instructions -/

/-- REFORM (R42, R189): a lane that holds a section faults SECTION ORDER; the others are filed. -/
def execReform (s : State) : Out :=
  issue s {} fun x m =>
    let holds := (lanesOf m).filter fun l => !(x.w.lane l).held.isEmpty
    let free := (lanesOf m).filter fun l => (x.w.lane l).held.isEmpty
    ({ x with c := { x.c with reform := x.c.reform ||| maskOf free } }).raise m
      (holds.map fun l => { lane := l, cls := cSection })

/-- EXIT (R45, R188). -/
def execExitLanes (s : State) : Out :=
  issue s { ct := true } fun x m => { x with c := { x.c with exits := x.c.exits ||| m } }

/-- YIELD (R188): ranks as though the clause had Y set. -/
def execYield (s : State) : Out :=
  issue s { ct := true } fun x _ => { x with c := { x.c with yield := true } }

/-- SBWAIT (R188): parks the subgroup until the named scoreboards are zero; mask 0 has no effect. -/
def execSbwait (m : SR) (s : State) : Out :=
  issue s { ct := true } fun x a => if m = 0 then x else x.parkAtEnd a (.sbwait m.toNat)

/-! ### Traps -/

/-- TRAPI (R320). -/
def execTrapi (c : B8) (s : State) : Out :=
  issue s { ct := true } fun x m => x.raiseAll m cTrap (code := c.toNat)

/-- TPRED (R320): bit L of the latest delivery's fault lane mask. -/
def execTpred (d p : PR) (s : State) : Out :=
  issue s { pr := p } fun x m => x.mapP m d fun l => (laneBit x.w.lastMask l, 0)

/-- A TRET: illegal for a lane not in handler state (Table 16-6); takes effect at the end of the clause. -/
def trapReturn (s : State) (k : Nat) : Out :=
  issue s { bad := fun x => !((lanesOf x.live).all fun l => (x.w.lane l).handler) } fun x _ =>
    { x with c := { x.c with tret := some k } }

/-- RETRY (R320). -/
def execTretRetry (s : State) : Out := trapReturn s 0
/-- ADVANCE (R320). -/
def execTretAdvance (s : State) : Out := trapReturn s 1
/-- SKIPLANES (R320). -/
def execTretSkiplanes (s : State) : Out := trapReturn s 2

/-! ### MISC -/

/-- NOP (R166). -/
def execNop (s : State) : Out := issue s { ct := true } fun x _ => x

/-- CLOCK (R166): %clock or %time. -/
def execClock (src : BitVec 2) (n : SR) (s : State) : Out :=
  issue s { ct := true } fun x _ =>
    x.put (.sreg n.toNat (BitVec.ofNat 64
      (if src = 0 then x.s.clock (courseOf x.w.ashlar) else x.s.time)))

/-- SLEEP (R166): parks the subgroup at the end of its clause for imm8 × 64 cycles; 0 only gives up the unit. -/
def execSleep (c : B8) (s : State) : Out :=
  issue s { ct := true } fun x m =>
    if c = 0 then { x with c := { x.c with yield := true } }
    else x.parkAtEnd m (.sleep (c.toNat * 64))

/-- BRKPT (R166): with debugging on for the slot the wave parks at the end of the clause, all its subgroups, and the code is
reported. -/
def execBrkpt (c : B8) (s : State) : Out :=
  issue s { ct := true } fun x _ =>
    if (x.s.slot x.w.slot).debug then
      ({ x with s := { x.s with plumb := { x.s.plumb with brkpts := x.s.plumb.brkpts ++ [(x.w.id, c.toNat)] } } }).parkAtEnd
        (~~~0) (.brkpt c.toNat)
    else x

/-- PREF (R166, R346): brings the line of an address that translates with read permission into the home's cache ways, and at
level 0 into L1, as the leaf's policy allows; dropped and counted otherwise. A fill that meets an uncorrectable
error logs it. It sets neither A nor D and changes no value that a program sees. Its fill is made as it issues (DESIGN CHOICE, log entry 70). -/
def execPref (level : BitVec 2) (n : SR) (s : State) : Out :=
  issue s { ct := true } fun x _ =>
    let va := (x.w.sreg n.toNat).toNat
    let a := va / 64 * 64
    let drop := x.modW fun w => { w with prefdrop := w.prefdrop + 1 }
    match x.s.look x.w.ashlar x.w.slot a with
    | .leaf l =>
      let pa := l.pa a
      if !l.r || reservedPa pa || (inHost pa && l.cp == 3) || (x.s.host.invgo && x.s.host.covers x.w.slot (a / 2 ^ 16) 1) then drop
      else if x.s.bad (pa / 64) then drop.onState fun s => s.logLine (pa / 64)
      else if l.cp = 3 then x
      else
        let s1 := (x.s.number (x.s.l1Of x.w.ashlar (pa / 64)) (pa / 64) false).unitWay (pa / 64) l.cp false
        let s2 := if level = 0 && decide (l.cp ≤ 1) then s1.fillL1 (s1.l1Of x.w.ashlar (pa / 64)) (pa / 64) (l.cp == 1) else s1
        { x with s := s2 }
    | _ => drop

end Sys2Proof.Machine
end

