-- ==== Sys2Proof/Machine/Special.lean ====
section
/-! DEFINITION. Special functions (spec 06_numbers.md R134, R135, R146): the exact value enclosed between
two fixed-point numbers, at a rising precision until both ends round alike. Exact cases are decided before. -/

namespace Sys2Proof.Machine

/-- An interval of integers in units of 2^−P; the exact value lies strictly inside. -/
structure Iv where
  lo : Int
  hi : Int
  deriving DecidableEq, Repr

/-- Floor of x / 2^p. -/
def flo (p : Nat) (x : Int) : Int := x / 2 ^ p
/-- Ceiling of x / 2^p. -/
def cei (p : Nat) (x : Int) : Int := -((-x) / 2 ^ p)

/-- Ends moved outwards. -/
def Iv.widen (a : Iv) (n : Int) : Iv := ⟨a.lo - n, a.hi + n⟩
/-- Sum. -/
def Iv.add (a b : Iv) : Iv := ⟨a.lo + b.lo, a.hi + b.hi⟩
/-- Negation. -/
def Iv.neg (a : Iv) : Iv := ⟨-a.hi, -a.lo⟩
/-- Product by an integer. -/
def Iv.scale (a : Iv) (k : Int) : Iv := if 0 ≤ k then ⟨a.lo * k, a.hi * k⟩ else ⟨a.hi * k, a.lo * k⟩
/-- Product at precision p. -/
def Iv.mul (p : Nat) (a b : Iv) : Iv :=
  let w := a.lo * b.lo
  let x := a.lo * b.hi
  let y := a.hi * b.lo
  let z := a.hi * b.hi
  ⟨flo p (min (min w x) (min y z)), cei p (max (max w x) (max y z))⟩
/-- Division by a positive integer. -/
def Iv.divNat (a : Iv) (k : Nat) : Iv := ⟨a.lo / k, -((-a.hi) / k)⟩
/-- Division by an interval of positive numbers. -/
def Iv.div (p : Nat) (a b : Iv) : Iv :=
  let dl := if 0 ≤ a.lo then b.hi else b.lo
  let dh := if 0 ≤ a.hi then b.lo else b.hi
  ⟨a.lo * 2 ^ p / dl, -((-(a.hi * 2 ^ p)) / dh)⟩

/-- z × 2^e at precision p. -/
def Iv.ofDyadic (p : Nat) (z e : Int) : Iv :=
  let s := e + p
  if 0 ≤ s then ⟨z * 2 ^ s.toNat, z * 2 ^ s.toNat⟩
  else ⟨flo (-s).toNat z, cei (-s).toNat z⟩

/-- The larger magnitude of the ends. -/
def Iv.mag (a : Iv) : Nat := max a.lo.natAbs a.hi.natAbs

/-- Sum of term × y^k / (k!) from k on, ended when a term has all but vanished; |y| ≤ 1. -/
def expTail (p : Nat) (y : Iv) : Nat → Nat → Iv → Iv → Iv
  | 0, _, _, acc => acc.widen 8
  | fuel + 1, k, term, acc =>
    let t := (Iv.mul p term y).divNat k
    if t.mag ≤ 2 then acc.widen 8 else expTail p y fuel (k + 1) t (acc.add t)

/-- e^y for |y| ≤ 1. -/
def expIv (p : Nat) (y : Iv) : Iv :=
  let one : Iv := ⟨2 ^ p, 2 ^ p⟩
  expTail p y p 1 one one

/-- The alternating sum of sin or cos: y2 is y², the next factorial step is k (k + 1). -/
def trigTail (p : Nat) (y2 : Iv) : Nat → Nat → Iv → Iv → Iv
  | 0, _, _, acc => acc.widen 8
  | fuel + 1, k, term, acc =>
    let t := ((Iv.mul p term y2).divNat (k * (k + 1))).neg
    if t.mag ≤ 2 then acc.widen 8 else trigTail p y2 fuel (k + 2) t (acc.add t)

/-- sin y for |y| ≤ 1. -/
def sinIv (p : Nat) (y : Iv) : Iv := trigTail p (Iv.mul p y y) p 2 y y
/-- cos y for |y| ≤ 1. -/
def cosIv (p : Nat) (y : Iv) : Iv :=
  let one : Iv := ⟨2 ^ p, 2 ^ p⟩
  trigTail p (Iv.mul p y y) p 1 one one

/-- Sum of pw / k over odd k, pw multiplied by z2 each time; |z2| ≤ 1/4. -/
def oddTail (p : Nat) (z2 : Iv) : Nat → Nat → Iv → Iv → Iv
  | 0, _, _, acc => acc.widen 8
  | fuel + 1, k, pw, acc =>
    if pw.mag ≤ 2 then acc.widen 8 else oddTail p z2 fuel (k + 2) (Iv.mul p pw z2) (acc.add (pw.divNat k))

/-- atanh z for |z| ≤ 1/2. -/
def atanhIv (p : Nat) (z : Iv) : Iv := oddTail p (Iv.mul p z z) p 1 z ⟨0, 0⟩
/-- atan (1 / n) for n ≥ 2. -/
def atanInv (p n : Nat) : Iv :=
  let z := (⟨2 ^ p, 2 ^ p⟩ : Iv).divNat n
  oddTail p (Iv.mul p z z).neg p 1 z ⟨0, 0⟩

/-- ln 2 = 2 atanh (1/3). -/
def ln2Iv (p : Nat) : Iv := (atanhIv p ((⟨2 ^ p, 2 ^ p⟩ : Iv).divNat 3)).scale 2
/-- π by Machin's formula. -/
def piIv (p : Nat) : Iv := ((atanInv p 5).scale 16).add ((atanInv p 239).scale (-4))

/-- An enclosed value times 2^e rounded, when both ends round alike; the value is never exact. -/
def Iv.round? (f : Fmt) (rm : Rm) (fz : Bool) (a : Iv) (e : Int) : Option (Nat × Flags) :=
  let l := 2 * a.lo - 1
  let h := 2 * a.hi + 1
  if l < 0 && 0 < h then none
  else
    let rl := f.roundInt rm fz l (e - 1) false
    if rl == f.roundInt rm fz h (e - 1) false then some rl else none

/-- The first precision that decides the rounding; past the last the lower end is rounded. -/
def zivRound (f : Fmt) (rm : Rm) (fz : Bool) (g : Nat → Iv × Int) : List Nat → Nat × Flags
  | [] => let (a, e) := g 1024; f.roundInt rm fz (2 * a.lo + 1) (e - 1) false
  | p :: ps => match (g p).1.round? f rm fz (g p).2 with
    | some r => r
    | none => zivRound f rm fz g ps

/-- The precisions tried. -/
def precisions : List Nat := [96, 192, 512]

/-- 2^x for x = z × 2^e with |x| < 2^20: mantissa interval and exponent. -/
def exp2At (z e : Int) (p : Nat) : Iv × Int :=
  let x := Iv.ofDyadic p z e
  let n := flo p x.lo
  let f : Iv := ⟨x.lo - n * 2 ^ p, x.hi - n * 2 ^ p⟩
  (expIv p (Iv.mul p f (ln2Iv p)), n - p)

/-- log2 of m × 2^e, m > 0. -/
def log2At (m : Nat) (e : Int) (p : Nat) : Iv × Int :=
  let lg := Nat.log2 m
  -- m × 2^−lg lies in [1, 2); halve it from 3/2 on
  let hiHalf := 3 * 2 ^ lg ≤ 2 * m
  let den := if hiHalf then 2 ^ (lg + 1) else 2 ^ lg
  let n : Int := e + lg + (if hiHalf then 1 else 0)
  let q := ((m : Int) - den) * 2 ^ p
  let d := (m : Int) + den
  let z : Iv := ⟨q / d, -((-q) / d)⟩
  let ln := (atanhIv p z).scale 2
  ((Iv.div p ln (ln2Iv p)).add ⟨n * 2 ^ p, n * 2 ^ p⟩, -p)

/-- sin (or cos) of z × 2^e for |x| < 2^129: reduced by the nearest multiple of π/2. -/
def trigAt (isCos : Bool) (z e : Int) (p0 : Nat) : Iv × Int :=
  let p := p0 + 140
  let x := Iv.ofDyadic p z e
  let pi := piIv p
  let k := (4 * x.lo + pi.lo) / (2 * pi.lo)
  let r : Iv := (x.scale 2).add (pi.scale (-k))
  let y := r.divNat 2
  let quad := ((k + (if isCos then 1 else 0)) % 4).toNat
  let v := if quad % 2 == 0 then sinIv p y else cosIv p y
  (if quad < 2 then v else v.neg, -p)

/-- e^u / (1 + e^u) for u = z × 2^e, −1100 < u < 1100: interval and exponent. -/
def sigmoidAt (z e : Int) (p : Nat) : Iv × Int :=
  let pw := p + 16
  let u := Iv.ofDyadic pw z e
  let l2 := ln2Iv pw
  let n := u.lo / l2.lo
  let r := u.add (l2.scale (-n))
  let ex := expIv pw r
  let one : Int := 2 ^ pw
  if 0 ≤ n then
    -- 1 / (1 + 2^−n e^−r) in the form E / (1 + E)
    let big : Iv := ex.scale (2 ^ n.toNat)
    (Iv.div pw big (big.add ⟨one, one⟩), -pw)
  else
    let small : Iv := ⟨flo (-n).toNat ex.lo, cei (-n).toNat ex.hi⟩
    (Iv.div pw ex (small.add ⟨one, one⟩), n - pw)

/-- Compares |z × 2^e| with n. -/
def dyGe (z e : Int) (n : Nat) : Bool :=
  let (d, _) := dyAdd z.natAbs e (-(n : Int)) 0
  decide (0 ≤ d)

/-- Whether a natural number is a power of two. -/
def isPow2 (m : Nat) : Bool := m != 0 && 2 ^ Nat.log2 m == m

/-- Integer square root, bit by bit. -/
def isqrtGo (n : Nat) : Nat → Nat → Nat
  | 0, r => r
  | k + 1, r => let c := r + 2 ^ k; isqrtGo n k (if c * c ≤ n then c else r)

/-- The floor of the square root. -/
def isqrt (n : Nat) : Nat := isqrtGo n (Nat.log2 n / 2 + 1) 0

/-- The functions of FSFU (Table 9-2). -/
inductive Sfu where
  | rcp | rsq | sqrt | exp2 | log2 | sin | cos | tanh
  deriving DecidableEq, Repr

/-- The F32 result of a special function on a decoded operand (R134, R135). Table 6-6 names RCP and EXP2 exact where the result is
normal; of a subnormal result that is a power of two too it says nothing, and it raises no NX here, being exact (DESIGN CHOICE, log
entry 70). -/
def Sfu.eval (f : Sfu) (rm : Rm) (fz : Bool) (v : FVal) : Nat × Flags :=
  let t := Fmt.f32
  let bad : Nat × Flags := (t.qnan, fNV)
  let one := 0x3F800000
  match v with
  | .nan s => (t.qnan, if s then fNV else 0)
  | .inf s =>
    match f with
    | .rcp => (t.signed s 0, 0)
    | .rsq => if s then bad else (0, 0)
    | .sqrt | .log2 => if s then bad else (t.infBits, 0)
    | .exp2 => (if s then 0 else t.infBits, 0)
    | .sin | .cos => bad
    | .tanh => (t.signed s one, 0)
  | .fin s 0 _ =>
    match f with
    | .rcp | .rsq => (t.signed s t.infBits, fDZ)
    | .sqrt | .sin | .tanh => (t.signed s 0, 0)
    | .exp2 | .cos => (one, 0)
    | .log2 => (t.signed true t.infBits, fDZ)
  | .fin s m e =>
    let z := sgn s m
    match f with
    | .rcp => t.roundRatio .rne fz s 1 m (-e)
    | .sqrt =>
      if s then bad
      else
        -- m × 2^e with an even exponent and enough bits
        let k : Nat := if e % 2 == 0 then 64 else 65
        let n := m * 2 ^ k
        let q := isqrt n
        t.round rm fz false (2 * q + (if q * q == n then 0 else 1)) ((e - k) / 2 - 1)
    | .rsq =>
      if s then bad
      else
        let (m', e') := if e % 2 == 0 then (m, e) else (2 * m, e - 1)
        let q := isqrt (2 ^ 128 / m')
        t.round .rne fz false (2 * q + (if q * q * m' == 2 ^ 128 then 0 else 1)) (-(e' / 2) - 64 - 1)
    | .exp2 =>
      if dyGe z e 1024 then t.round .rne fz false 1 (if s then -1024 else 1024)
      else
        let (w, exact) := integral .rtz s m e
        if exact then t.round .rne fz false 1 (sgn s w)
        else zivRound t .rne fz (exp2At z e) precisions
    | .log2 =>
      if s then bad
      else if isPow2 m then t.roundInt .rne fz (e + Nat.log2 m) 0 false
      else zivRound t .rne fz (log2At m e) precisions
    | .sin => zivRound t .rne fz (trigAt false z e) precisions
    | .cos => zivRound t .rne fz (trigAt true z e) precisions
    | .tanh =>
      if dyGe z e 32 then t.round .rne fz s (2 ^ 60 - 1) (-60)
      else
        -- 2 sigmoid(2x) − 1, on the magnitude
        zivRound t .rne fz (fun p =>
          let (a, x) := sigmoidAt m (e + 1) p
          let w : Iv := ⟨2 * a.lo - 2 ^ (-x).toNat, 2 * a.hi - 2 ^ (-x).toNat⟩
          (if s then w.neg else w, x)) precisions

/-- A special function of an F32 operand. -/
def Sfu.f32 (f : Sfu) (rm : Rm) (fz : Bool) (x : Nat) : Nat × Flags :=
  match Fmt.f32.input fz x with
  | (.nan s, _) => f.eval rm fz (.nan s)
  | (v, fl) => let (r, g) := f.eval rm fz v; (r, g ||| fl)

/-- Of a half of a pair type (R134): widened exactly, computed as in F32, then rounded under RM. -/
def Sfu.half (f : Sfu) (h : Fmt) (rm : Rm) (fz : Bool) (x : Nat) : Nat × Flags :=
  let (v, fl) := h.input fz x
  let (r, g) := f.eval rm fz v
  let (y, k) := convFloat .f32 h rm fz false r
  (y, fl ||| g ||| k)

/-! ### Epilogue activations (R146) -/

/-- ReLU. -/
def actRelu (x : Nat) : Nat :=
  match Fmt.f32.unpack x with
  | .nan _ => Fmt.f32.qnan
  | .inf s => if s then 0 else x
  | .fin s m _ => if m = 0 then x else if s then 0 else x

/-- Leaky ReLU with the factor 1/8 below zero. -/
def actLeaky (x : Nat) : Nat :=
  match Fmt.f32.unpack x with
  | .nan _ => Fmt.f32.qnan
  | .inf _ => x
  | .fin s m e => if m = 0 then x else if s then (Fmt.f32.round .rne false s m (e - 3)).1 else x

/-- Sigmoid. -/
def actSigmoid (x : Nat) : Nat :=
  match Fmt.f32.unpack x with
  | .nan _ => Fmt.f32.qnan
  | .inf s => if s then 0 else 0x3F800000
  | .fin s m e =>
    if m = 0 then 0x3F000000
    else if dyGe m e 1024 then (if s then 0 else 0x3F800000)
    else (zivRound .f32 .rne false (sigmoidAt (sgn s m) e) precisions).1

/-- The F32 values nearest 0.7978845608 and 0.044715: mantissas and exponents. -/
def geluC0 : Int × Int := (13386282, -24)
def geluC1 : Int × Int := (12003091, -28)

/-- GELU-tanh: 0.5 x (1 + tanh u) is x × sigmoid (2u), with u = c0 (x + c1 x³) exactly. -/
def actGelu (x : Nat) : Nat :=
  match Fmt.f32.unpack x with
  | .nan _ => Fmt.f32.qnan
  | .inf s => if s then 0x80000000 else x
  | .fin s m e =>
    if m = 0 then x
    else
      let z := sgn s m
      let (w, we) := dyAdd z e (geluC1.1 * z * z * z) (geluC1.2 + 3 * e)
      let uz := geluC0.1 * w
      let ue := geluC0.2 + we + 1
      if dyGe uz ue 1024 then (if s then 0x80000000 else x)
      else
        (zivRound .f32 .rne false (fun p =>
          let (a, ex) := sigmoidAt uz ue p
          (a.scale z, ex + e)) precisions).1

end Sys2Proof.Machine
end

