-- ==== Sys2Proof/Machine/MatArith.lean ====
section
/-! DEFINITION. Arithmetic of the matrix array (spec 06_numbers.md R142 to R146; 11_isa_engines.md R233, R235): chunk
sums, accumulation with one rounding per chunk, bias, epilogue and output format. -/

namespace Sys2Proof.Machine

/-- Bits of a format code of Table 6-3. -/
def codeBits (c : Nat) : Nat := [32, 16, 16, 8, 8, 4, 8, 8, 4, 32].getD c 0

/-- Chunk length K of a pair of formats (Table 11-5); none where the pair is not allowed. -/
def chunkLen (a w : Nat) : Option Nat :=
  match a, w with
  | 1, 1 | 2, 2 => some 32
  | 3, 3 | 3, 4 | 4, 3 | 4, 4 => some 64
  | 6, 6 | 6, 7 | 7, 6 | 7, 7 => some 64
  | 3, 5 | 6, 8 => some 64
  | 5, 5 | 8, 8 => some 128
  | _, _ => none

/-- The value of an input of a format code. -/
def codeVal (c x : Nat) : FVal :=
  match c with
  | 0 => Fmt.f32.unpack x
  | 1 => Fmt.f16.unpack x
  | 2 => Fmt.bf16.unpack x
  | 3 => Fmt.e4m3.unpack x
  | 4 => Fmt.e5m2.unpack x
  | 5 => Fmt.e2m1.unpack x
  | 6 => let z := (BitVec.ofNat 8 x).toInt; .fin (z < 0) z.natAbs 0
  | 8 => let z := (BitVec.ofNat 4 x).toInt; .fin (z < 0) z.natAbs 0
  | _ => .fin false x 0

/-- Element i of packed values of b bits (R125). -/
def packed (b : Nat) (data : List Byte) (i : Nat) : Nat :=
  ofBytes ((data.drop (b * i / 8)).take (max 1 (b / 8))) / 2 ^ (b * i % 8) % 2 ^ b

/-- Weight (k, n) of a plane image (R233). -/
def planeWeight (wfmt : Nat) (plane : List Byte) (k n : Nat) : Nat :=
  if codeBits wfmt = 4 then (plane.getD (64 * (k / 2) + n) 0).toNat / 2 ^ (4 * (k % 2)) % 16
  else packed (codeBits wfmt) plane (64 * k + n)

/-- What a chunk has summed so far: a NaN was met, infinities of either sign, finite products that are not
zero, and whether some zero product was positive. -/
structure ChunkAcc where
  nan : Bool := false
  pos : Bool := false
  neg : Bool := false
  zeroPos : Bool := false
  terms : List (Int × Int) := []

/-- Adds a product times 2^scale. -/
def ChunkAcc.add (c : ChunkAcc) (p : Option FVal) (scale : Int) : ChunkAcc :=
  match p with
  | none | some (.nan _) => { c with nan := true }
  | some (.inf s) => if s then { c with neg := true } else { c with pos := true }
  | some (.fin s m e) =>
    if m = 0 then (if s then c else { c with zeroPos := true })
    else { c with terms := (sgn s m, e + scale) :: c.terms }

/-- ⌊log2⌋ of a non-zero dyadic number's magnitude. -/
def dyLog2 (t : Int × Int) : Int := (Nat.log2 t.1.natAbs : Int) + t.2

/-- A dyadic number truncated towards zero to a multiple of 2^q. -/
def dyTrunc (q : Int) (t : Int × Int) : Int × Int :=
  if q ≤ t.2 then t else (sgn (t.1 < 0) (t.1.natAbs / 2 ^ (q - t.2).toNat), q)

/-- ChunkSum (R143 to R145): the terms exactly, or windowed to 50 bits. A sum of zeros is −0 where every product is a negative zero,
as R144 has it for the 16-bit formats; for the 8-bit and 4-bit ones, where R143 gives no sign, it is the same (DESIGN CHOICE, log
entry 70). -/
def ChunkAcc.sum (c : ChunkAcc) (windowed : Bool) : FVal :=
  if c.nan || (c.pos && c.neg) then .nan false
  else if c.pos || c.neg then .inf c.neg
  else match c.terms with
    | [] => .fin (!c.zeroPos) 0 0
    | t :: ts =>
      let top := ts.foldl (fun e x => max e (dyLog2 x)) (dyLog2 t)
      let kept := if windowed then c.terms.map (dyTrunc (top - 49)) else c.terms
      let (z, e) := kept.foldl (fun a x => dyAdd a.1 a.2 x.1 x.2) (0, t.2)
      .fin (z < 0) z.natAbs e

/-- The sum of one chunk: acts is the chunk's 64 bytes, products with k ≥ count are omitted (R283), and scale
gives the exponent of the scales of block b, none for a scale of 0xFF. -/
def chunkSum (afmt wfmt k count : Nat) (acts plane : List Byte) (n : Nat) (scale : Nat → Option Int) : FVal :=
  if (List.range ((min k count + 31) / 32)).any fun b => (scale b).isNone then .nan false
  else
    let acc := (List.range (min k count)).foldl (fun (c : ChunkAcc) i =>
      c.add (mulV (codeVal afmt (packed (codeBits afmt) acts i)) (codeVal wfmt (planeWeight wfmt plane i n)))
        ((scale (i / 32)).getD 0)) {}
    acc.sum (codeBits afmt == 16)

/-- One step of R142: c := RoundTo(F32, c + S, RNE). -/
def accumulate (c : Nat) (s : FVal) : Nat := (Fmt.f32.addV .rne false (Fmt.f32.unpack c) s).1

/-- The epilogue (Table 11-4). -/
def epilogue (e x : Nat) : Nat :=
  match e with
  | 1 => actRelu x
  | 2 => actLeaky x
  | 3 => actGelu x
  | 4 => actSigmoid x
  | _ => x

/-- The output conversion (R146 step 3). -/
def outConvert (f x : Nat) : Nat :=
  match f with
  | 1 => (convert 0 .rne false false x).1
  | 2 => (convert 1 .rne false false x).1
  | 3 => (convert 4 .rne false true x).1
  | 4 => (convert 5 .rne false true x).1
  | 5 => (convert 8 .rne false true x).1
  | 6 => (convert 14 .rne false true (convert 10 .rne false true x).1).1
  | 9 => (convert 10 .rne false true x).1
  | _ => x

/-- Finishes an element (R146): bias, epilogue, output format. -/
def finishElement (c : Nat) (bias : Option Nat) (epi ofmt : Nat) : Nat :=
  let x := match bias with
    | some b => accumulate c (Fmt.f32.unpack b)
    | none => c
  outConvert ofmt (epilogue epi x)

/-- Packs elements of b bits into bytes (R125). -/
def packElems (b : Nat) : List Nat → List Byte
  | [] => []
  | [x] => toBytes (max 1 (b / 8)) (x % 2 ^ b)
  | x :: y :: r =>
    if b = 4 then BitVec.ofNat 8 (x % 16 + y % 16 * 16) :: packElems b r
    else toBytes (b / 8) x ++ packElems b (y :: r)

end Sys2Proof.Machine
end

