-- ==== Sys2Proof/Machine/Power.lean ====
section
/-! DEFINITION. Link direction (R254 to R257, R360), layer gates (R259, R260), the M-layer partition and the
stacked-scratch window (R92 to R96, R377), as operations that instructions, special registers and events share. -/

namespace Sys2Proof.Machine

/-! ### The link -/

/-- Numbers of the live lane groups. -/
def Link.liveGroups (l : Link) : List Nat := (List.range 16).filter fun g => (l.groups.getD g { aToB := false }).live

/-- Whether a group carries, or is turning to carry, A→B. -/
def Link.dir (l : Link) (g : Nat) : Bool := (l.groups.getD g { aToB := false }).aToB

/-- The split nearest to n that leaves the live groups R360 asks for on either side. -/
def Link.floorSplit (l : Link) (n : Nat) : Nat :=
  let live := l.liveGroups
  let k := if 4 ≤ live.length then 2 else 1
  let fits := (List.range 17).filter fun m =>
    decide (k ≤ (live.filter (· < m)).length) && decide (k ≤ (live.filter (m ≤ ·)).length)
  (argMin (fun m => if m < n then n - m else m - n) fits).getD n

/-- Whether a group can begin a turn now: none is under way, 10 µs have passed since its previous one and it is not recalibrated
(R257). -/
def State.canTurn (s : State) (g : Nat) : Bool :=
  let l := s.link
  let early := match (s.group g).lastTurn with | some t => decide (s.now < t + 10000000) | none => false
  let busy := match l.recal with | some (h, _) => h == g | none => false
  l.turning.isNone && !early && !busy

/-- The split the link moves to: that of the lease, else 8, under the floors of R360; with one live group the
direction whose oldest waiting flit is older, once the group can turn, and until then the one it carries. -/
def State.wantSplit (s : State) : Nat :=
  let l := s.link
  let asked := match l.lease with | some (_, n, _) => n | none => 8
  match l.liveGroups with
  | [] => l.target
  | [g] =>
    let oldest := fun (a : Bool) => argMin id ((s.crossing a).filterMap (·.cross))
    let now := if l.dir g then 16 else 0
    if !s.canTurn g then now
    else match oldest true, oldest false with
      | some a, some b => if a < b then 16 else 0
      | some _, none => 16
      | none, some _ => 0
      | none, none => now
  | _ => l.floorSplit asked

/-- The next group to turn on the way to a split (R257): groups below it in ascending order, else groups at or
above it in descending order. -/
def Link.nextTurn (l : Link) (n : Nat) : Option Nat :=
  match l.liveGroups.find? fun g => decide (g < n) && !l.dir g with
  | some g => some g
  | none => l.liveGroups.reverse.find? fun g => decide (n ≤ g) && l.dir g

/-- Begins the next turn where one is due: not within 10 µs of the group's previous turn and not while it is
recalibrated (R257). A message of which the group has sent a part is sent again whole by another (R359). -/
def State.beginTurn (s : State) : State :=
  let l := s.link
  match l.nextTurn l.target with
  | some g =>
    if s.canTurn g then { s with link := { l with
      turning := some (g, s.now), groups := l.groups.modify g fun y => { y with aToB := !y.aToB, retrain := 0, part := none } } }
    else s
  | none => s

/-- Recomputes the split and begins a turn. -/
def State.steer (s : State) : State :=
  ({ s with link := { s.link with target := s.wantSplit } }).beginTurn

/-- Rank of a pending request: job priority, request time, die A (R256); the least is granted. -/
def State.linkRank (s : State) (r : LinkReq) : Nat := ((7 - (s.slot r.slot).prio) * 2 ^ 64 + r.time) * 2 + r.die

/-- The arbiter decides (R256): grants where no lease is held, then steers. -/
def State.arbitrate (s : State) : State :=
  match s.link.lease with
  | some _ => s.steer
  | none =>
    match argMin s.linkRank s.link.pending with
    | none => s.steer
    | some r =>
      ({ s with link := { s.link with
          lease := some (r.slot, r.split, s.now)
          pending := s.link.pending.filter fun q => q.slot != r.slot } }).steer

/-- Ends the lease of a job, if it holds one. -/
def State.endLease (s : State) (slot : Nat) : State :=
  match s.link.lease with
  | some (h, _, _) => if h == slot then ({ s with link := { s.link with lease := none } }).arbitrate else s
  | none => s

/-- TREQ (R255): the new state and the result. -/
def State.treq (s : State) (slot die n : Nat) : State × Nat :=
  let others := s.link.pending.filter fun q => q.slot != slot
  if n = 0 then (({ s with link := { s.link with pending := others } }).endLease slot, 0)
  else if n = 1 ∨ 15 ≤ n then (s, 2)
  else match s.link.lease with
    | some (h, m, t) =>
      if h = slot then (({ s with link := { s.link with lease := some (h, n, t) } }).steer, 0)
      else if 8 ≤ (others.filter fun q => q.die == die).length then (s, 1)
      else ({ s with link := { s.link with lease := some (h, m, t), pending := others ++ [LinkReq.mk slot die n s.time] } }, 0)
    | none =>
      if 8 ≤ (others.filter fun q => q.die == die).length then (s, 1)
      else (({ s with link := { s.link with pending := others ++ [LinkReq.mk slot die n s.time] } }).arbitrate, 0)

/-- %linkdir (Table 11-14): a group removed from service carries nothing. -/
def State.linkdir (s : State) : DWord :=
  BitVec.ofNat 64 (sumBy (fun g => if s.link.dir g then 2 ^ g else 0) s.link.liveGroups)

/-- %linkstat for a job (Table 11-15). -/
def State.linkstat (s : State) (slot : Nat) : DWord :=
  let l := s.link
  let tg := match l.turning with | some (g, _) => g | none => 16
  let live := sumBy (fun g => 2 ^ g) l.liveGroups
  let lease := match l.lease with | some (h, _, _) => h | none => 0xFF
  let atob := (l.liveGroups.filter fun g => l.dir g && g != tg).length
  let own := l.pending.any fun q => q.slot == slot
  BitVec.ofNat 64 (live * 2 ^ 32 + lease * 2 ^ 24 + l.target * 2 ^ 19 + atob * 2 ^ 14
    + (if tg < 16 then 2 ^ 13 + tg * 2 ^ 8 else 0) + (if own then 2 ^ 12 else 0) + l.pending.length)

/-! ### Layer gates -/

/-- Changes a gate. -/
def State.modGate (s : State) (d layer : Nat) (f : Gate → Gate) : State :=
  s.modDie d fun x => { x with gates := x.gates.modify layer f }

/-- A request for Plumb from a wave of a die: from die B it goes over the link (R25). PVF, PGATE and PUNGATE are fixed-latency (R258),
so it takes effect as it is sent (log entry 69). -/
def State.toPlumb (s : State) (die : Nat) : State :=
  if die = 0 then s
  else { s with nextId := s.nextId + 1
                reqs := s.reqs ++ [{ unitReq with id := s.nextId, die := die, cross := some s.now, body := .message }] }

/-- PGATE (gate true) or PUNGATE of a layer of a die (R259): the new state and the result 0 to 3. An accepted
gate of the A- or C-layer begins the park of the die. Where several results apply, 3 comes before 2 and 2 before 1, and 3 is an
answer to PGATE alone, as Table 11-19 has it (DESIGN CHOICE, log entry 72). -/
def State.gateReq (s : State) (d layer : Nat) (gate : Bool) : State × Nat :=
  if gate && d == 0 && layer != 1 then (s, 3)
  else if (s.die d).gates.any (·.busy) then (s, 2)
  else if (s.gate d layer).gated == gate then (s, 1)
  else
    let s1 := s.modGate d layer fun g => { g with busy := true, req := gate, at_ := s.now }
    (if gate && layer != 0 then (s1.modDie d fun x => { x with parking := !x.parked }).requestAll fun w => w.die == d && w.unasked
     else s1, 0)

/-- s[sa] of PGATE and PUNGATE: reserved bits zero and a layer named (Table 11-17). -/
def gateArgOk (v : Nat) : Bool := v % 4 != 3 && v / 4 % 64 == 0 && decide (v < 2 ^ 9)

/-- %layergate of a die (Table 11-18). -/
def State.layergate (s : State) (d : Nat) : DWord :=
  let f := fun (p : Gate → Bool) => sumBy (fun i => if p (s.gate d i) then 2 ^ i else 0) (List.range 3)
  BitVec.ofNat 64 ((if (s.die d).parked then 2 ^ 11 else 0) + f (·.busy) * 2 ^ 8 + f (·.req) * 2 ^ 4 + f (·.gated))

/-- A system write of %layergate: one PGATE or PUNGATE for each bit of REQ that changes, in the order M, A, C
(R260). -/
def State.writeLayergate (s : State) (d : Nat) (v : DWord) : State :=
  (List.range 3).foldl (fun (s : State) i =>
    let want := v.getLsbD (4 + i)
    if (s.gate d i).req == want then s else (s.gateReq d i want).1) s

/-! ### The partition of a slice (R92, R93) -/

/-- %mlpartN (Table 4-8). -/
def Slice.part (x : Slice) : DWord :=
  BitVec.ofNat 64 ((if x.inSet then x.live.toNat else 0) * 2 ^ 32 + x.deadline * 2 ^ 24 + (if x.busy then 2 ^ 20 else 0)
    + x.short * 2 ^ 15 + x.scratch * 2 ^ 10 + x.queue * 2 ^ 5 + x.cache)

/-- Drops the short-lived lines of a slice whose bank is no longer a short-lived way. -/
def State.dropShort (s : State) (d n : Nat) : State :=
  { s with shorts := s.shorts.filter fun l => s.home l.line != 16 * d + n || (s.slice d n).shortBanks.contains l.bank }

/-- Cornerstone entry of a bank retired or rejoined (Table 19-5). -/
def State.cornerBank (s : State) (d n bank : Nat) (rejoined : Bool) : State :=
  s.cornerAdd d 6 (0x80 + n) (n * 2 ^ 8 + bank * 2 + if rejoined then 1 else 0)

/-- What Plumb keeps of a bank. -/
def Slice.healthOf (x : Slice) (b : Nat) : BankHealth := x.health.getD b {}

/-- Whether a bank has stayed below 95 °C for 1 s (R349). -/
def BankHealth.cooled (h : BankHealth) (now : Nat) : Bool := match h.coolSince with | some t => decide (t + 10 ^ 12 ≤ now) | none => false

/-- Whether a change of SCRATCH is under way in a slice: the window is to be rebuilt (R93, R376). -/
def Slice.rebuilds (x : Slice) : Bool := x.busy && x.wasScratch != x.scratch

/-- A write to %mlpartN, accepted whole or ignored whole (R93); slot is the writing job. Banks retired for temperature
that have cooled rejoin with it (R349). A change of SCRATCH begins a remap of the die's window when the change
completes. -/
def State.writeMlpart (s : State) (d n : Nat) (v : DWord) (slot : Option Nat) : State :=
  let old := s.slice d n
  let back := BitVec.ofNat 16 (sumBy (fun b => if old.hot.getLsbD b && (old.healthOf b).cooled s.now then 2 ^ b else 0) (List.range 16))
  let x := { old with live := old.live ||| back, hot := old.hot &&& ~~~back }
  let w := v.toNat
  let cache := w % 32
  let queue := w / 2 ^ 5 % 32
  let scratch := w / 2 ^ 10 % 32
  let short := w / 2 ^ 15 % 32
  let deadline := w / 2 ^ 24 % 256
  if x.busy || !x.inSet || decide (x.liveBanks.length < cache + queue + scratch + short) || deadline == 0
      || decide (50 < deadline) then s
  else
    let s1 := s.modSlice d n fun _ => { x with
      busy := true, wasScratch := x.scratch, since := s.nextId, by_ := slot
      cache := cache, queue := queue, scratch := scratch, short := short, deadline := deadline }
    ((List.range 16).foldl (fun (s : State) b => if back.getLsbD b then s.cornerBank d n b true else s) s1).dropShort d n

/-- The banks of a die's stacked-scratch window: scratch ways of the live banks by slice and bank (R94). -/
def Die.scratchList (x : Die) : List (Nat × Nat) :=
  (List.range 16).flatMap fun n => ((x.slices.getD n (Slice.reset n)).scratchBanks).map fun b => (n, b)

/-- Posts KIND 5 to each bound job, other than the writing one, with a non-zero grant on a die whose window is
lost or zero-filled (R341, R363, R377). -/
def State.scratchLost (s : State) (d : Nat) (but : Option Nat) : State :=
  (List.range 64).foldl (fun (s : State) n =>
    let x := s.slot n
    let size := (x.grant.getD d (0, 0)).2
    if x.bound && size != 0 && but != some n then
      s.postErr { kind := 5, slot := n, addr := d, ticket := size, run := 0xFFFFFFFF, ashlar := 0xFFFF, waveseq := 0xFFFFFFFF }
    else s) s

/-- Rebuilds and zero-fills the window of a die (R94, R95), for the job slot that asked for it (R377). -/
def State.rebuildWindow (s : State) (d : Nat) (by_ : Option Nat) : State :=
  (s.modDie d fun x => { x with banks := x.scratchList, stacked := [] }).scratchLost d by_

/-- A write to %mlremap (R95); a write of 1 while START is 1 is ignored. -/
def State.writeMlremap (s : State) (d : Nat) (v : DWord) (slot : Option Nat) : State :=
  if v.getLsbD 0 && !(s.die d).remap then s.modDie d fun x => { x with remap := true, remapBy := slot } else s

/-- %mlmapN (R96). -/
def State.mlmap (s : State) (d n : Nat) : DWord :=
  BitVec.ofNat 64 (sumBy (fun m => (let x := s.slice d (4 * n + m); if x.inSet then x.live.toNat else 0) * 2 ^ (16 * m)) (List.range 4))

end Sys2Proof.Machine
end

