-- ==== Sys2Proof/Machine/Scratch.lean ====
section
/-! DEFINITION. The atomic operations (R211), completion rings and
records (R230, R231), barrier objects (R221, R222) and gathering reductions (R226). -/

namespace Sys2Proof.Machine

/-! ### Atomic operations -/

/-- New value of a 4-byte location under an atomic (Table 10-4); y is the second operand of ACAS. -/
def AtomOp.word (op : AtomOp) (old x y : Word) : Word :=
  match op with
  | .add => old + x
  | .imin => if x.slt old then x else old
  | .imax => if old.slt x then x else old
  | .umin => if x.ult old then x else old
  | .umax => if old.ult x then x else old
  | .and => old &&& x
  | .or | .or8w => old ||| x
  | .xor => old ^^^ x
  | .xch => x
  | .cas => if old == x then y else old
  | .fadd => BitVec.ofNat 32 (Fmt.f32.addV .rne false (Fmt.f32.unpack old.toNat) (Fmt.f32.unpack x.toNat)).1

/-- New bytes of a location under an atomic with operand bytes. -/
def AtomOp.bytes (op : AtomOp) (old data : List Byte) : List Byte :=
  match op with
  | .or8w => List.zipWith (· ||| ·) old data
  | _ => toBytes 4 (op.word (BitVec.ofNat 32 (ofBytes old)) (BitVec.ofNat 32 (ofBytes (data.take 4)))
      (BitVec.ofNat 32 (ofBytes (data.drop 4)))).toNat

/-- Bytes with some of them replaced from an offset on. -/
def overlay (bs : List Byte) (off : Nat) (data : List Byte) : List Byte :=
  bs.mapIdx fun i b => if off ≤ i && decide (i < off + data.length) then data.getD (i - off) b else b

/-- A window of bytes from address a, after one lane's access to the same space has been performed. -/
def Item.cover (it : Item) (k : AccKind) (a : Nat) (bs : List Byte) : List Byte :=
  if it.addr + it.size ≤ a || decide (a + bs.length ≤ it.addr) then bs
  else
    let put := fun (data : List Byte) =>
      if a ≤ it.addr then overlay bs (it.addr - a) data else overlay bs 0 (data.drop (a - it.addr))
    match k with
    | .store | .strongStore _ => put (it.data.take it.size)
    | .atomic op => if a ≤ it.addr && decide (it.addr + it.size ≤ a + bs.length) then
        put (op.bytes ((bs.drop (it.addr - a)).take it.size) it.data) else bs
    | _ => bs

/-- n bytes of space 1 as a structure read at issue sees them: with the wave's earlier accesses to space 1 that
are still on their way performed (R110, R229). -/
def Ctx.scratchNow (x : Ctx) (a n : Nat) : List Byte :=
  x.s.reqs.foldl (fun bs r => match r.body with
    | .mem m => if r.wave == x.w.id && m.space == 1 then m.items.foldl (fun bs it => it.cover m.kind a bs) bs else bs
    | _ => bs) (x.s.scratchRead x.w a n)

/-! ### Barrier objects -/

/-- An arrival of k (R222); ARRIVED has 17 bits (Table 10-10). A die-scope arrival is noted with the phase it counts in (R223);
a phase that begins has none. -/
def Barrier.arrive (b : Barrier) (k : Nat) (wide : Bool) : Barrier :=
  match b.state with
  | .idle | .done => b
  | _ =>
    let c := if wide then { b with wide := nub (b.ph :: b.wide) } else b
    let n := (b.arrived + k) % 2 ^ 17
    if n < b.expect then { c with arrived := n, state := .counting }
    else
      let on := { c with ph := b.ph + 1, wide := c.wide.filter (· != b.ph + 1) }
      if b.auto then { on with arrived := n - b.expect, state := if n = b.expect then .armed else .counting }
      else { on with arrived := 0, state := .done }

/-- An arrival that a copy of a run makes on a barrier object of an ashlar, after its release; on an object of another run it is
discarded, as a BRARRIVE's is (R224, R242). -/
def State.copyArrive (s : State) (a x run : Nat) (wide : Bool) : State :=
  if (s.barrier a x).run == run then s.modBarrier a x fun b => b.arrive 1 wide else s

/-- The code of STATE (Table 10-10). -/
def BarState.code : BarState → Nat
  | .idle => 0
  | .armed => 1
  | .counting => 2
  | .done => 3

/-! ### Completion rings -/

/-- Entry count and scratch offset of a ring. -/
def CmRing.count (r : CmRing) : Nat := r.cfg.toNat / 2 ^ 32
def CmRing.offset (r : CmRing) : Nat := r.cfg.toNat % 2 ^ 32

/-- A power of two from 1 to a bound. -/
def pow2To (n bound : Nat) : Bool := decide (1 ≤ n) && decide (n ≤ bound) && 2 ^ Nat.log2 n == n

/-- Whether a ring is configured (R231). -/
def Wave.ringOk (w : Wave) (m : Nat) : Bool :=
  let r := w.cm.getD m {}
  pow2To r.count 256 && r.offset % 32 == 0 && w.inScratch r.offset (32 * r.count)

/-- Whether a RING field of a parameter block or layout record is allowed at issue: no record, or a configured
ring. -/
def Wave.ringField (w : Wave) (ring : Nat) : Bool := ring == 0xFF || (decide (ring ≤ 3) && w.ringOk ring)

/-- Changes a ring of a wave. -/
def State.modRing (s : State) (id m : Nat) (f : CmRing → CmRing) : State :=
  s.modWave id fun w => { w with cm := w.cm.modify m f }

/-- A completion record (Table 11-1). -/
structure CmRec where
  status : Nat
  code : Nat := 0
  tag : Nat := 0
  moved : Nat := 0
  refused : DWord := 0

/-- Its 32 bytes; TIME is %time when it is written. -/
def CmRec.bytes (r : CmRec) (time : Nat) : List Byte :=
  toBytes 1 r.status ++ toBytes 1 r.code ++ toBytes 2 r.tag ++ toBytes 4 r.moved ++ toBytes 8 r.refused.toNat
    ++ toBytes 8 time ++ toBytes 8 0

/-- Writes held records of a ring while it has room (R231); a draining wave's record that finds the ring full is
discarded. The arrival of a copy follows its record (R242). Fuel is the number of records held. -/
def State.ringGo (s : State) (id m : Nat) : Nat → State
  | 0 => s
  | fuel + 1 =>
    match s.wave? id with
    | none => s
    | some w =>
      let r := w.cm.getD m {}
      match r.held with
      | [] => s
      | rec_ :: rest =>
        let next := fun (s : State) =>
          let s1 := s.modRing id m fun r => { r with held := rest, after := r.after.tail }
          match r.after.headD none with
          | some (a, x, wide) => s1.copyArrive a x w.run wide
          | none => s1
        if (r.tail - r.head).toNat = r.count || r.count = 0 then
          if w.stat == .draining then (next s).ringGo id m fuel else s
        else
          let bs := rec_.take 16 ++ toBytes 8 s.time ++ rec_.drop 24
          let s1 := s.scratchWrite id (r.offset + r.tail.toNat % r.count * 32) bs
          (next (s1.modRing id m fun r => { r with tail := r.tail + 1 })).ringGo id m fuel

/-- Posts a completion record to a ring of a wave; 0xFF posts none. An arrival at an ashlar's object may follow it. -/
def State.ringPost (s : State) (id ring : Nat) (r : CmRec) (arrive : Option (Nat × Nat × Bool) := none) : State :=
  if 3 < ring then
    match arrive, s.wave? id with
    | some (a, x, wide), some w => s.copyArrive a x w.run wide
    | _, _ => s
  else
    let s1 := s.modRing id ring fun c => { c with held := c.held ++ [r.bytes s.time], after := c.after ++ [arrive] }
    s1.ringGo id ring (((s1.wave? id).map fun w => (w.cm.getD ring {}).held.length).getD 0)

/-- A write of %cmNhead: the program frees entries. -/
def State.writeCmHead (s : State) (id m : Nat) (v : DWord) : State :=
  let s1 := s.modRing id m fun r => { r with head := v }
  s1.ringGo id m (((s1.wave? id).map fun w => (w.cm.getD m {}).held.length).getD 0)

/-- A write of %cmNcfg: the ring's configuration, head and tail zero. -/
def State.writeCmCfg (s : State) (id m : Nat) (v : DWord) : State :=
  let s1 := s.modRing id m fun r => { r with cfg := v, head := 0, tail := 0 }
  s1.ringGo id m (((s1.wave? id).map fun w => (w.cm.getD m {}).held.length).getD 0)

/-! ### Gathering reductions -/

/-- Two values combined (R226). -/
def redCombine (op : Nat) (a b : Word) : Word :=
  match op with
  | 0 => a + b
  | 1 => BitVec.ofNat 32 (Fmt.f32.addV .rne false (Fmt.f32.unpack a.toNat) (Fmt.f32.unpack b.toNat)).1
  | 2 => if b.slt a then b else a
  | 3 => if a.slt b then b else a
  | 4 => BitVec.ofNat 32 (Fmt.f32.minmax false false a.toNat b.toNat).1
  | _ => BitVec.ofNat 32 (Fmt.f32.minmax false true a.toNat b.toNat).1

/-- Completes an open object: the value at the result address, the completion record, the object free (R226). -/
def State.completeReduction (s : State) (r : Reduction) (short : Bool) : State :=
  let s1 := (s.number (dieSrc (s.home (r.pa / 64) / 16)) (r.pa / 64) true).homeWrite r.pa (toBytes 4 (r.value.getD 0).toNat) true
  let desc := if r.ring.any fun p => s1.bad (p.1 / 64) then none else some (r.ring.flatMap fun p => s1.mem.readN p.1 p.2)
  let s2 := (s1.postTo r.slot desc ({ status := if short then 4 else 0, tag := r.tag, moved := r.count : CmRec }.bytes s.time)).1
  { s2 with reductions := s2.reductions.filter fun q => !(q.run == r.run && q.addr == r.addr) }

end Sys2Proof.Machine
end

