-- ==== Sys2Proof/Machine/Section.lean ====
section
/-! DEFINITION. Keystone entries (spec 05_ordering.md R115 to R121; 18_subsystem_faults.md R354 to R357): requests
performed at the key's home, grants, abandoned releases, and delivering results to outstanding instructions. -/

namespace Sys2Proof.Machine

/-! ### Results of outstanding instructions -/

/-- A home on a die answers an outstanding instruction: of a wave of the other die by a message over the link (R24). -/
def State.answer (s : State) (die wave op : Nat) (m : Mask) (ds : List (Nat × Dst)) : State :=
  match s.wave? wave with
  | none => s
  | some w =>
    if w.die == die then s.opReady wave op m ds
    else
      let r : Req := { id := s.nextId, wave := wave, run := w.run, slot := w.slot, ashlar := w.ashlar, op := some op, path := 6
                       write := false, read := false, die := die, cross := some s.now, body := .reply m ds
                       head := some (dieSrc die, 16 * w.die, s.seqOf (dieSrc die) (16 * w.die)) }
      let t := s.bump (dieSrc die) (16 * w.die)
      { t with nextId := s.nextId + 1, reqs := s.reqs ++ [r] }

/-- Takes lanes away from every outstanding instruction of a wave: an instruction without lanes left counts no
more on its scoreboard. -/
def Wave.dropLanes (w : Wave) (m : Mask) : Wave :=
  let ops := w.ops.map fun o => { o with lanes := o.lanes &&& ~~~m }
  let gone := ops.filter fun o => o.lanes == 0
  { w with ops := ops.filter fun o => o.lanes != 0
           sb := w.sb.mapIdx fun i n => n - (gone.filter fun o => o.sb == i).length }

/-! ### Entries -/

/-- The entry of a pair. -/
def State.keystone? (s : State) (run : Nat) (key : DWord) : Option Keystone :=
  s.keystones.find? fun e => e.run == run && e.key == key

/-- Entries of a slice's own table. -/
def State.tableUse (s : State) (home : Nat) : Nat :=
  (s.keystones.filter fun e => !e.overflow && s.keyHome e.key == home).length

/-- Allocates a zero entry where none exists, as an overflow entry when the table is full (R115, R120). -/
def State.keyAlloc (s : State) (run : Nat) (key : DWord) : State :=
  match s.keystone? run key with
  | some _ => s
  | none => { s with keystones := s.keystones ++
      [{ key := key, run := run, overflow := decide (1024 ≤ s.tableUse (s.keyHome key)) }] }

/-- Changes an entry. A change of NEXTSEQ ends the quiet of a reported stall (R357). -/
def State.modKey (s : State) (run : Nat) (key : DWord) (f : Keystone → Keystone) : State :=
  { s with keystones := updWhere (fun e => e.run == run && e.key == key) (fun e =>
      let g := f e
      let moved := g.nextSeq != e.nextSeq
      { g with waited := if moved || g.holder != e.holder then 0 else g.waited
               stalled := g.stalled && !moved }) s.keystones }

/-- Grant(E) (R116): the earliest waiter whose number is NEXTSEQ enters; p7 is written only when the last
holder abandoned the section (R220). -/
def State.keyGrant (s : State) (run : Nat) (key : DWord) : State :=
  match s.keystone? run key with
  | none => s
  | some e =>
    if e.holder.isSome then s
    else match e.waiters.find? fun w => w.2.2.1 == e.nextSeq with
      | none => s
      | some (wave, lane, seq, op) =>
        let s1 := s.modKey run key fun e => { e with
          holder := some (wave, lane)
          waiters := e.waiters.filter fun w => !(w.1 == wave && w.2.1 == lane && w.2.2.1 == seq) }
        s1.answer (s.keyHome key / 16) wave op (oneLane lane) (if e.abandoned then [(lane, .pred lane 7 true)] else [])

/-- Frees an entry whose OCLOSE is pending once it has no holder and no waiter (R116). -/
def State.keyFree (s : State) (run : Nat) (key : DWord) : State :=
  { s with keystones := s.keystones.filter fun e =>
      !(e.run == run && e.key == key && e.closing && e.holder.isNone && e.waiters.isEmpty) }

/-- A request of a lane performed at the home of its key (R116): the new state. reg is the register that
receives a ticket. -/
def State.keyRequest (s : State) (run : Nat) (op : OrdOp) (wave lane : Nat) (key : DWord) (seq : Word) (reg o : Nat) :
    State :=
  let m := oneLane lane
  let d := s.keyHome key / 16
  match op with
  | .take =>
    let s1 := s.keyAlloc run key
    let t := ((s1.keystone? run key).map (·.nextTkt)).getD 0
    (s1.modKey run key fun e => { e with nextTkt := e.nextTkt + 1 }).answer d wave o m [(lane, .vreg lane reg t)]
  | .base =>
    ((s.keyAlloc run key).modKey run key fun e => { e with nextSeq := seq, nextTkt := seq, base := seq }).answer d wave o m []
  | .enter =>
    ((s.keyAlloc run key).modKey run key fun e => { e with waiters := e.waiters ++ [(wave, lane, seq, o)] }).keyGrant run key
  | .try_ =>
    let s1 := s.keyAlloc run key
    match s1.keystone? run key with
    | none => s1
    | some e =>
      let ok := e.nextSeq == seq && e.holder.isNone && !e.abandoned
      let s2 := if ok then s1.modKey run key fun e => { e with holder := some (wave, lane) } else s1
      let s3 := if ok then s2 else
        s2.modWave wave fun w => w.modOp o fun o => { o with drops := o.drops ++ [(lane, key)] }
      s3.answer d wave o m [(lane, .pred lane 7 ok)]
  | .leave =>
    (((s.modKey run key fun e => { e with holder := none, abandoned := false, nextSeq := e.nextSeq + 1 }).keyGrant
      run key).keyFree run key).answer d wave o m []
  | .close => ((s.modKey run key fun e => { e with closing := true }).keyFree run key).answer d wave o m []

/-- A lane's section released abandoned (R356). -/
def State.keyAbandon (s : State) (run : Nat) (key : DWord) : State :=
  ((s.modKey run key fun e => { e with holder := none, abandoned := true, nextSeq := e.nextSeq + 1 }).keyGrant run key).keyFree
    run key

/-- The sections a lane is inside of. -/
def State.inside (s : State) (w : Wave) (lane : Nat) : List (DWord × Word) :=
  (w.lane lane).held.filter fun h =>
    match s.keystone? w.run h.1 with
    | some e => e.holder == some (w.id, lane)
    | none => false

/-- Lanes of a wave stop asking: their waiting and unperformed requests for sections are withdrawn. An entry whose OCLOSE is
pending is freed with its last waiter (R116). -/
def State.withdraw (s : State) (w : Wave) (m : Mask) : State :=
  let asks := fun (x : Nat × Nat × Word × Nat) => x.1 == w.id && laneBit m x.2.1
  let left := (s.keystones.filter fun e => e.waiters.any asks).map fun e => (e.run, e.key)
  left.foldl (fun (s : State) k => s.keyFree k.1 k.2) { s with
    keystones := s.keystones.map fun e => { e with waiters := e.waiters.filter fun x => !asks x }
    reqs := s.reqs.filter fun r => match r.body with
      | .order .enter l _ _ _ | .order .try_ l _ _ _ => !(r.wave == w.id && laneBit m l)
      | _ => true }

/-- Releases abandoned every section that lanes of a wave are inside of, posting KIND 3 for each (R341, R356): code
1 for the lanes that exit, 0 for lanes killed, seen at the clause of each lane. -/
def State.abandonAll (s : State) (id : Nat) (m exits : Mask) : State :=
  match s.wave? id with
  | none => s
  | some w =>
    let mine := (lanesOf m).flatMap fun l => (s.inside w l).map fun h => (l, h)
    let fmask := maskOf (mine.map (·.1))
    let s1 := s.withdraw w m
    let s2 := mine.foldl (fun (s : State) x =>
      (s.keyAbandon w.run x.2.1).postErr { kind := 3, slot := w.slot, node := w.node, run := w.run, code := if laneBit exits x.1 then 1 else 0
                                           addr := x.2.1.toNat, fmask := fmask.toNat, ticket := x.2.2.toNat
                                           ashlar := w.ashlar, waveseq := w.seqno.toNat, pc := (w.lane x.1).pc }) s1
    s2.modWave id fun w => w.modLanes m fun n => { n with held := [] }

/-- Lanes of a wave are killed at a clause boundary (R49, R354): they count as exited, their sections are released
abandoned, and their outstanding instructions write nothing. -/
def State.killLanes (s : State) (id : Nat) (m : Mask) : State :=
  (s.abandonAll id m 0).modWave id fun w =>
    (w.modLanes m fun n => { n with stat := .exited, also := [], fault := none, late := none, handler := false, heldP7 := none, retry := none }).dropLanes m

end Sys2Proof.Machine
end

