-- ==== Sys2Proof/Machine/Sched.lean ====
section
/-! DEFINITION. Graph runs, queue instances and reservations (spec 02_graphs.md R32, R46, R49; 03_scheduling.md R61, R63,
R64, R382; 18_subsystem_faults.md R343, R354), shared by instructions and by the scheduler's events. -/

namespace Sys2Proof.Machine

/-! ### Nodes and instances -/

/-- The used edges of a node with their indices (Table 2-2). -/
def Node.used (n : Node) : List (Nat × Edge) :=
  ((List.range 8).zip n.edges).filter fun e => e.2.emits != 0

/-- An edge of a node; an unused one where there is none. -/
def Node.edge (n : Node) (e : Nat) : Edge := n.edges.getD e ⟨0, 0, false⟩

/-- Queue instance of a node on a die. -/
def Run.inst (r : Run) (n d : Nat) : Inst := r.insts.getD (2 * n + d) {}

/-- Changes a queue instance. -/
def Run.modInst (r : Run) (n d : Nat) (f : Inst → Inst) : Run := { r with insts := r.insts.modify (2 * n + d) f }

/-- Records queued on chip and spilled. -/
def Inst.queued (i : Inst) : Nat := i.recs.length + sumBy (fun (b : Nat × List QRec) => b.2.length) i.spilled

/-- Records of an ordered node's target, or any other, that a request finds room for on a die (R61). -/
def Run.room (r : Run) (n d k : Nat) : Bool :=
  decide ((r.inst n d).recs.length + (r.inst n d).reserved + k ≤ ((r.node? n).map (·.qcap)).getD 0)

/-- Whether a node is ordered. -/
def Run.isOrdered (r : Run) (n : Nat) : Bool := ((r.node? n).map (·.ordered)).getD false

/-- The die whose instance takes a reservation of k slots on an edge from a die; none where there is no room
(R61). -/
def Run.pickDie (r : Run) (e : Edge) (d k : Nat) : Option Nat :=
  if r.isOrdered e.target then (if r.room e.target r.orderedDie k then some r.orderedDie else none)
  else if r.room e.target d k then some d
  else if !e.isLocal && r.room e.target (1 - d) k then some (1 - d)
  else none

/-- Reserves slots in an instance. -/
def Run.reserve (r : Run) (n d k : Nat) : Run := r.modInst n d fun i => { i with reserved := i.reserved + k }

/-- Returns slots to an instance. -/
def Run.giveBack (r : Run) (n d k : Nat) : Run := r.modInst n d fun i => { i with reserved := i.reserved - k }

/-- All reservations of a wave of a node on a die, made together or not at all (R61). -/
def Run.reserveAll (r : Run) (n : Node) (d : Nat) : Option (Run × List Resv) :=
  let w := if n.kind = 1 then 1 else n.width
  n.used.foldl (fun acc e =>
    match acc with
    | none => none
    | some (r, l) =>
      let k := w * e.2.emits
      match r.pickDie e.2 d k with
      | none => none
      | some t => some (r.reserve e.2.target t k, l ++ [{ edge := e.1, die := t, left := k : Resv }])) (some (r, []))

/-- Returns the remaining reservations of a list for a node of a run. -/
def Run.returnAll (r : Run) (n : Node) (l : List Resv) : Run :=
  l.foldl (fun r x => r.giveBack (n.edge x.edge).target x.die x.left) r

/-- Nodes that a node's edges reach in one step. -/
def Run.targets (r : Run) (n : Nat) : List Nat := ((r.node? n).map fun x => x.used.map (·.2.target)).getD []

/-- Sink distances (R63), by rounds: a node without used edges is 0, another one more than its least target. -/
def sinkRounds (nodes : List Node) : Nat → List Nat → List Nat
  | 0, l => l
  | fuel + 1, l =>
    sinkRounds nodes fuel (nodes.map fun n =>
      match n.used with
      | [] => 0
      | e :: es => min 255 (1 + es.foldl (fun m x => min m (l.getD x.2.target 255)) (l.getD e.2.target 255)))

/-- Sink distance of each node of a graph. -/
def sinkDistances (nodes : List Node) : List Nat := sinkRounds nodes nodes.length (nodes.map fun _ => 255)

/-! ### What keeps a run alive -/

/-- Waves and control threads of a run. -/
def State.wavesOf (s : State) (run : Nat) : List Wave := s.waves.filter (·.run == run)

/-- Open REFORM bins of a run. -/
def State.binsOf (s : State) (run : Nat) : Nat :=
  sumBy (fun a => (a.bins.filter fun b => match b with | some b => b.run == run | none => false).length) s.ashlars

/-- Records the fixed units hold for a run: batches taken, ring records binned and tile records not yet emitted, and the tile
record of each slot that a resolver or classifier works on. -/
def State.heldOf (s : State) (r : Run) : Nat :=
  sumBy (fun a => sumBy (fun b => if b.run == r.id then b.recs.length else 0) (a.rays ++ a.mlp)) s.ashlars
    + sumBy (fun c => (c.tiles.filter fun t => (t.state == .filled || t.state == .shading) && t.run == r.id).length) s.courses
    + sumBy (fun b => b.tiles.length + b.held) r.bins

/-- Slots that the waves and open bins of a run hold, and those of appends on their way: slots reserved by its waves and not yet
used or returned (R46). -/
def State.slotsHeld (s : State) (r : Run) : Nat :=
  sumBy (fun (w : Wave) => sumBy (·.left) w.resv) (s.wavesOf r.id)
    + sumBy (fun (a : Ashlar) => sumBy (fun (b : Option Bin) => match b with
        | some b => if b.run == r.id then sumBy (·.left) b.resv else 0
        | none => 0) a.bins) s.ashlars
    + sumBy (fun (q : Req) => if q.run == r.id && q.wave != 0 then (match q.body with | .append _ _ l _ => l.length | _ => 0) else 0) s.reqs

/-- The completion counter (R46). -/
def State.runCount (s : State) (r : Run) : Nat :=
  sumBy Inst.queued r.insts + (s.wavesOf r.id).length + s.binsOf r.id + s.heldOf r + s.slotsHeld r

/-! ### Spill areas (R382) -/

/-- The lowest run of k free units of an area of n units. -/
def freeUnits (used : List (Nat × Nat)) (n k : Nat) : Option Nat :=
  let cands := 0 :: used.map fun u => u.1 + u.2
  argMin id (cands.filter fun c => decide (c + k ≤ n) && used.all fun u => decide (c + k ≤ u.1) || decide (u.1 + u.2 ≤ c))

/-- Units of a run's spill area. -/
def Run.spillUnits (r : Run) : Nat := r.spillSize * 1024

/-- Units a batch of c records takes. -/
def batchUnits (c recsize : Nat) : Nat := 1 + (c * recsize + 63) / 64

/-- Units of a run's spill area in use: spilled batches, saved contexts and overflow entries. -/
def State.usedUnits (s : State) (r : Run) : List (Nat × Nat) :=
  ((List.range r.insts.length).flatMap fun i =>
      let size := ((r.node? (i / 2)).map (·.recsize)).getD 0
      (r.insts.getD i {}).spilled.map fun b => (b.1, batchUnits b.2.length size))
    ++ ((s.wavesOf r.id).filterMap fun w => if w.away then w.savedUnits else none)
    ++ ((s.keystones.filter (·.run == r.id)).filterMap fun e => e.unit.map fun u => (u, 1))

/-- A place for k units in a run's spill area; the failure's code of Table 18-3 and address else. -/
def State.spillPlace (s : State) (r : Run) (k : Nat) : (Nat × Nat) ⊕ Nat :=
  match freeUnits (s.usedUnits r) r.spillUnits k with
  | none => .inl (1, if r.spillSize = 0 then 0 else r.spillBase + r.spillSize * 2 ^ 16)
  | some u =>
    let va := r.spillBase + u * 64
    match (lineStarts va (k * 64)).find? fun a => (s.pathFault (dieTlb 0) r.slot a 1 { write := true }).isSome with
    | some a => .inl (2, a)
    | none => .inr u

/-- Bytes of a die's queue ways. -/
def State.queueBytes (s : State) (d : Nat) : Nat :=
  sumBy (fun n => (s.slice d n).queueBanks.length * 2 ^ 20) (List.range 16)

/-- The die whose queue ways take what a die saves: the other one while a die has no slice in the live set (R363). -/
def State.queueDie (s : State) (d : Nat) : Nat :=
  if (List.range 16).any fun n => (s.slice d n).inSet then d else 1 - d

/-- Bytes of a wave's saved context (R73). -/
def Wave.contextBytes (w : Wave) : Nat :=
  w.width * w.regs * 4 + 2048 + w.scrSize + 256 * sumBy List.length w.q + 64 * w.savedFifo.length

/-- FIFO entries of a wave that stay with its ashlar while it is saved: after a park or a wire failure (R73). -/
def State.fifoOf (s : State) (w : Wave) : Nat := ((s.ashlar w.ashlar).fifo.filter fun e => e.wave == w.id).length

/-- Bytes of a die's queue ways that saved contexts and overflow entries take, which rank ahead of queue records (R73, R120). -/
def State.queueUse (s : State) (d : Nat) : Nat :=
  sumBy (fun (w : Wave) =>
      if w.away && s.queueDie w.die == d && w.savedUnits.isNone then
        w.contextBytes + (if w.saveFor == 3 || w.saveFor == 4 then 64 * s.fifoOf w else 0)
      else 0) s.waves
    + sumBy (fun (e : Keystone) => if e.overflow && e.unit.isNone && s.keyHome e.key / 16 == d then 64 else 0) s.keystones

/-- Bytes of a die's queue ways that queue records take (R93). -/
def State.recUse (s : State) (d : Nat) : Nat :=
  sumBy (fun (r : Run) => sumBy (fun n =>
    sumBy (fun k => if s.queueDie k == d then (r.inst n k).recs.length * ((r.node? n).map (·.recsize)).getD 0 else 0) [0, 1])
      (List.range r.nodes.length)) s.runs

/-! ### Ending a run early -/

/-- The node on whose edges a tile slot's reservations are: the classifier's once it emits, the resolver's until then. -/
def Tile.holder (t : Tile) : Nat := if t.state == .shading then t.classifier else t.resolver

/-- Cancels a run (R49, R354): the first status recorded stands; queued and spilled records and those held in
fixed units are discarded with the slots reserved for them, open bins are freed, and its open reductions complete with status
SHORT. R42 has a wave at a REFORM retry after a bin has closed; a bin freed here has not closed, so no wave retries for it
(DESIGN CHOICE, log entry 70). -/
def State.cancelRun (s : State) (run : Nat) (st : Status) (node : Nat) : State :=
  match s.run? run with
  | none => s
  | some r =>
    if r.cancelling then s
    else
      let bins := s.ashlars.flatMap fun a => a.bins.filterMap fun b => match b with
        | some b => if b.run == run then some b else none
        | none => none
      let held := (bins.map fun (b : Bin) => (b.node, b.resv))
        ++ ((s.ashlars.flatMap fun a => a.rays ++ a.mlp).filter (·.run == run)).map (fun (b : Batch) => (b.node, b.resv))
        ++ ((s.courses.flatMap (·.tiles)).filter (·.run == run)).map (fun (t : Tile) => (t.holder, t.resv))
        ++ r.bins.map fun (b : Binning) => (b.node, b.resv)
      let s1 := s.modRun run fun r =>
        let r1 := { r with
          status := st, node := node, cancelling := true
          insts := r.insts.map fun (i : Inst) => { i with recs := [], spilled := [], back := 0 }
          bins := r.bins.map fun (b : Binning) => { b with prims := [], tiles := [], resv := [], held := 0, closed := true } }
        held.foldl (fun (r : Run) (b : Nat × List Resv) => match r.node? b.1 with | some n => r.returnAll n b.2 | none => r) r1
      let s2 := { s1 with
        ashlars := s1.ashlars.map fun (a : Ashlar) => { a with
          idleSince := if a.bins.any fun (b : Option Bin) => match b with | some x => x.run == run | none => false then s.now else a.idleSince
          rays := a.rays.filter fun (b : Batch) => b.run != run, mlp := a.mlp.filter fun (b : Batch) => b.run != run
          bins := a.bins.map fun (b : Option Bin) => match b with | some x => if x.run == run then none else some x | none => none }
        courses := s1.courses.map fun (c : Course) => { c with tiles := c.tiles.map fun (t : Tile) => if t.run == run then {} else t } }
      (s2.reductions.filter fun (x : Reduction) => x.run == run).foldl (fun (s : State) x => s.completeReduction x (x.count < x.expect)) s2

/-- A cancel accepted for a run (R49): one whose counter has reached zero with its roots fed ends OK. -/
def State.askCancel (s : State) (run : Nat) : State :=
  match s.run? run with
  | some r => if s.runCount r == 0 && r.rootsFed then s else s.cancelRun run .cancelled 0
  | none => s

/-- Ends a run with status FAULT by a condition of Table 18-3: KIND 2, then the cancel (R343). -/
def State.abortRun (s : State) (run code node addr : Nat) : State :=
  match s.run? run with
  | none => s
  | some r =>
    if r.cancelling then s
    else
      let s1 := if r.posted then s else s.postErr { kind := 2, slot := r.slot, node := node, run := run, code := code
                                                    addr := addr, ashlar := 0xFFFF, waveseq := 0xFFFFFFFF }
      (s1.modRun run fun r => { r with posted := true }).cancelRun run .fault node

/-- Ends a run by a control error: KIND 6, then the cancel (R371); the run's record names the node whose wave met it, as R322 has
it. -/
def State.controlError (s : State) (run code ashlar node : Nat) : State :=
  match s.run? run with
  | none => s
  | some r =>
    if r.cancelling then s
    else
      let s1 := if r.posted then s else s.postErr { kind := 6, slot := r.slot, run := run, code := code, ashlar := ashlar }
      (s1.modRun run fun r => { r with posted := true }).cancelRun run .fault node

/-- The live run of a job with a descriptor address (R251). -/
def State.runAt? (s : State) (slot desc : Nat) : Option Run := s.runs.find? fun r => r.slot == slot && r.desc == desc

/-- GSTATUS (Table 11-12): STATE and the completion counter saturated. -/
def State.gstatus (s : State) (slot desc : Nat) : Word :=
  match s.runAt? slot desc with
  | some r => BitVec.ofNat 32 ((if r.cancelling then 3 else 2) + min (s.runCount r) (2 ^ 24 - 1) * 2 ^ 8)
  | none => if s.launches.any fun l => l.slot == slot && l.desc == desc then 1 else 0

end Sys2Proof.Machine
end

