-- ==== Sys2Proof/Machine/Sregs.lean ====
section
/-! DEFINITION. Special registers (spec 07_encoding.md R168, Table 7-10; 17_isa_faults.md R332, R333): reading every
number, the writes at the end of a clause, and SGET, SSET, SREADV, SREADP (08_isa_scalar_flow.md R177). -/

namespace Sys2Proof.Machine

/-- %trapframe (Table 16-3): the top 2,304 bytes of private scratch; 0 when PSCR is 0. -/
def Wave.trapframe (w : Wave) : Nat := if w.scrSize = 0 then 0 else w.scrSize - 2304

/-- %vffree: free slots of an ashlar's vertical FIFO. -/
def State.vffree (s : State) (a : Nat) : Nat := 16 - (s.ashlar a).fifo.length

/-- %vfused: entries pushed by a wave and not yet popped, those saved with it that have not re-entered among them (R253). -/
def State.vfused (s : State) (w : Wave) : Nat :=
  w.savedFifo.length + ((s.ashlar w.ashlar).fifo.filter fun e => e.wave == w.id).length

/-- A bit mask of lanes as a doubleword. -/
def maskDword (m : Mask) : DWord := m

/-- The bits of a buffer-record register, by its number, that are not reserved (R7, Table 4-2). -/
def bufMask (n : Nat) : DWord := match n % 4 with | 2 => 0x03FFFFFFFFFFFFFF | 3 => 0 | _ => ~~~0

/-- A special register as it stands (Table 7-10); a reserved number reads zero. -/
def Ctx.special (x : Ctx) (n : Nat) : DWord :=
  let s := x.s
  let w := x.w
  let nat := BitVec.ofNat 64
  if n < 0x10 then
    [nat w.width, maskDword x.live, nat w.node, nat w.run, nat w.slot, nat w.ashlar, nat (s.clock (courseOf w.ashlar)),
     nat s.time, nat w.reccount, nat w.regs, nat w.scrBase, nat w.scrSize, nat w.shBase, nat w.shSize,
     nat (s.vffree w.ashlar), nat (s.vfused w)].getD n 0
  else if n < 0x18 then
    let r := w.cm.getD ((n - 0x10) / 2) {}
    if n % 2 = 0 then r.head else r.tail
  else if n < 0x1C then (w.cm.getD (n - 0x18) {}).cfg
  else if n = 0x20 then s.linkdir
  else if n = 0x21 then s.linkstat w.slot
  else if 0x30 ≤ n ∧ n < 0x40 then (s.slice w.die (n - 0x30)).part
  else if 0x40 ≤ n ∧ n < 0x44 then s.mlmap w.die (n - 0x40)
  else if n = 0x44 then nat (s.scrSize w.die)
  else if n = 0x45 then (if (s.die w.die).remap then 1 else 0)
  else if n = 0x46 then (if w.memstat then 1 else 0)
  else if n = 0x50 then w.trapen
  else if n = 0x51 then w.fpflags.setWidth 64
  else if n = 0x52 then w.trapvec
  else if n = 0x53 then nat w.trapframe
  else if n = 0x60 then nat w.energy
  else if n = 0x61 then nat (s.course (courseOf w.ashlar)).point
  else if n = 0x62 then s.layergate w.die
  else if n = 0x63 then (s.die w.die).parkcount
  else if n = 0x70 then w.prefdrop
  else if 0x71 ≤ n ∧ n < 0x80 then (s.ashlar w.ashlar).pmc.getD (n - 0x71) 0
  else if 0x80 ≤ n ∧ n < 0xC0 then w.b.getD (n - 0x80) 0 &&& bufMask n
  else 0

/-- Numbers whose access is RS (Table 7-10): %mlpart0 to %mlpart15, %mlremap and %layergate. -/
def rsNumber (n : Nat) : Bool := (decide (0x30 ≤ n) && decide (n < 0x40)) || n == 0x45 || n == 0x62

/-- Numbers that an SSET writes; every other one that is not reserved is RO and ignores it. -/
def writable (n : Nat) : Bool :=
  (decide (0x10 ≤ n) && decide (n < 0x18) && n % 2 == 0) || (decide (0x18 ≤ n) && decide (n < 0x1C)) || rsNumber n
    || n == 0x46 || n == 0x50 || n == 0x51 || n == 0x52 || (decide (0x80 ≤ n) && decide (n < 0xC0))

/-- Numbers whose write is an event of the table of its own: the completion rings and the RS registers. -/
def eventNumber (n : Nat) : Bool := (decide (0x10 ≤ n) && decide (n < 0x1C)) || rsNumber n

/-- Writable bits of %trapen (Table 16-2). -/
def trapenMask : DWord := 0x3F7FFE
/-- Writable bits of %trapvec (Table 16-3). -/
def trapvecMask : DWord := 0xFFFFFFFFFFF0

/-- An SSET at the end of its clause (R152), for the registers held in the wave; PHINT's class comes here as
0x60. Reserved fields are ignored (R333); %memstat is W1C. -/
def Wave.sset (w : Wave) (n : Nat) (v : DWord) : Wave :=
  if n = 0x46 then { w with memstat := w.memstat && !v.getLsbD 0 }
  else if n = 0x50 then { w with trapen := v &&& trapenMask }
  else if n = 0x51 then { w with fpflags := v.setWidth 6 }
  else if n = 0x52 then { w with trapvec := v &&& trapvecMask }
  else if n = 0x60 then { w with energy := v.toNat % 4 }
  else if 0x80 ≤ n ∧ n < 0xC0 then { w with b := w.b.set (n - 0x80) (v &&& bufMask n ||| w.b.getD (n - 0x80) 0 &&& ~~~bufMask n) }
  else if eventNumber n then { w with ssets := w.ssets ++ [(n, v)] }
  else w

/-- Performs the write of a special register that is an event of its own: the first one the wave has pending. -/
def State.ssetEvent (s : State) (id : Nat) (n : Nat) (v : DWord) : State :=
  match s.wave? id with
  | none => s
  | some w =>
    let s1 := s.modWave id fun w => { w with ssets := w.ssets.drop 1 }
    if n < 0x18 then s1.writeCmHead id ((n - 0x10) / 2) v
    else if n < 0x1C then s1.writeCmCfg id (n - 0x18) v
    else if n < 0x40 then s1.writeMlpart w.die (n - 0x30) v (some w.slot)
    else if n = 0x45 then s1.writeMlremap w.die v (some w.slot)
    else s1.writeLayergate w.die v

/-- SGET (R177). Reading %cmNtail is an acquire of the records it covers (Table 5-2); the L1 is invalidated at
device scope, the widest a record can name. -/
def execSget (d : SR) (n : B8) (s : State) : Out :=
  issue s { ct := true } fun x _ =>
    let k := n.toNat
    let y := x.put (.sreg d.toNat (x.special k))
    if 0x10 ≤ k ∧ k < 0x18 ∧ k % 2 = 1 then { y with s := y.s.acquireAt x.w.ashlar 4 } else y

/-- SSET (R177, R332): RS numbers need system privilege; a write to an RO number is ignored. -/
def execSset (a : SR) (n : B8) (s : State) : Out :=
  issue s { ct := true, priv := rsNumber n.toNat } fun x _ =>
    if writable n.toNat then { x with c := { x.c with specials := x.c.specials ++ [(n.toNat, x.sr a)] } } else x

/-- SREADV (R177): v of lane s[sa][5:0]; 0 for a lane at or above W. -/
def execSreadv (d a : SR) (v : B8) (s : State) : Out :=
  issue s { regs := [(v.toNat, 1)] } fun x _ =>
    let l := (x.sr a).toNat % 64
    x.put (.sreg d.toNat (if l < x.w.width then (x.w.vreg l v.toNat).setWidth 64 else 0))

/-- SREADP (R177): pN of every lane of the wave; N = 0 gives W ones. -/
def execSreadp (d : SR) (n : B8) (s : State) : Out :=
  issue s {} fun x _ =>
    x.put (.sreg d.toNat (maskOf ((List.range x.w.width).filter fun l => x.w.pred l n.toNat)))

end Sys2Proof.Machine
end

