-- ==== Sys2Proof/Machine/LaneMem.lean ====
section
/-! DEFINITION. Lane and scalar memory, atomic, strong, fence and monitor instructions
(spec 10_isa_memory_sync.md R208 to R218; 08_isa_scalar_flow.md R178, R179). A word checks its lanes' addresses
and sends a request; events translate and perform it and deliver its result. -/

namespace Sys2Proof.Machine

/-- Issue checks of each lane's access (Table 4-3): the items to access and the lanes that fault. -/
def Ctx.laneItems (x : Ctx) (m : Mask) (b : BX) (i : VR) (off size : Nat) (write strong : Bool)
    (data : Nat → List Byte) : List Item × List LaneFault :=
  let rs := (lanesOf m).map fun l =>
    (l, x.s.accessAt x.w (x.w.buf b.toNat) (x.vr l i).toNat off size write strong)
  (rs.filterMap fun r => match r.2 with
     | .inr a => some { lane := r.1, addr := a, size := size, data := data r.1
                        got := List.replicate size none, left := size }
     | .inl _ => none,
   rs.filterMap fun r => match r.2 with
     | .inl (c, a) => some { lane := r.1, cls := c, addr := a }
     | .inr _ => none)

/-- Bytes of registers r to r + n − 1 of a lane, the first size bytes. -/
def Ctx.regBytes (x : Ctx) (l r n size : Nat) : List Byte := (toBytes (4 * n) (x.vrun l r n)).take size

/-- A strong write is a narrow release when a release at its scope has no write-back (R107). -/
def Ctx.narrow (x : Ctx) (sc : Nat) : Bool :=
  sc == 1 || (sc == 2 && (x.s.course (courseOf x.w.ashlar)).fused)

/-- Whether a strong write of the lanes is a narrow release: its own role, or a FENCE before it (R103). -/
def Ctx.marks (x : Ctx) (m : Mask) (sc : Nat) (rel : Bool) : Bool :=
  (rel && x.narrow sc) || x.w.relFences.any fun f => f.1 &&& m != 0 && x.narrow (min f.2 sc)

/-- Adds the request of lanes of an access word that one thing holds: a release awaits the release actions at its scope; an acquire
holds the lanes' later path-L accesses. A strong write that a FENCE has made a release covers its lanes' earlier reads as well (R102,
R103). -/
def Ctx.sendPart (x : Ctx) (op : Nat) (lanes : Mask) (m : MemReq) : Ctx :=
  let strong := match m.kind with | .load | .store => false | _ => true
  let read := match m.kind with | .store | .strongStore _ => false | _ => true
  let write := match m.kind with | .store | .strongStore _ | .atomic _ => true | _ => false
  let rel := match m.kind with | .strongStore r => r | _ => false
  let acq := match m.kind with | .strongLoad a => a | _ => false
  let (x1, ended) := if rel then x.release lanes m.sc else (x, [])
  let extra := if write && strong && x.w.relFences.any fun f => f.1 &&& lanes != 0 then ended ++ x1.covered 1 lanes true true else ended
  let (x2, r) := x1.addReq lanes pathL read write strong (some op) extra (.mem { m with mark := write && strong && x.marks lanes m.sc rel })
  if acq then x2.holdOn pathL r lanes else x2

/-- Sends the requests of a lane access word: counts on the scoreboard, and faulting lanes are parked. -/
def Ctx.sendMem (x : Ctx) (m : Mask) (items : List Item) (faults : List LaneFault) (kind : AccKind) (b : BufRec)
    (sc : Nat) (dst : LoadDst) (regs : List Nat) (scalar : Bool) (lanes : Mask) : Ctx :=
  if items.isEmpty then x.raise m faults
  else
    let (x1, op) := x.newOp (maskOf (items.map (·.lane))) (.request 0) [] regs (some (if scalar then lanes else m))
    let of := fun (p : Mask) => items.filter fun it => scalar || laneBit p it.lane
    let x2 := (if scalar then [lanes] else x.parts lanes).foldl (fun (y : Ctx) p => y.sendPart op p
      { kind := kind, space := b.space, sc := sc, policy := b.policy, short := b.short && b.space == 0
        dst := dst, scalar := scalar, items := of p }) x1
    x2.settled.raise m faults

/-- A weak load of size bytes into n registers (R208, R209). -/
def loadWord (s : State) (t : VR) (b : BX) (i : VR) (o : BX) (p : PR) (size : Nat) (signed : Bool) : Out :=
  let n := max 1 (size / 4)
  issue s { pr := p, regs := [(t.toNat, n), (i.toNat, 1)] } fun x m =>
    let (items, faults) := x.laneItems m b i o.toNat size false false fun _ => []
    x.sendMem m items faults .load (x.w.buf b.toNat) 4 (.vregs t.toNat size signed)
      ((List.range n).map (t.toNat + ·)) false (maskOf (items.map (·.lane)))

/-- A weak store of size bytes from n registers (R208, R209). -/
def storeWord (s : State) (t : VR) (b : BX) (i : VR) (o : BX) (p : PR) (size : Nat) : Out :=
  let n := max 1 (size / 4)
  issue s { pr := p, regs := [(t.toNat, n), (i.toNat, 1)] } fun x m =>
    let (items, faults) := x.laneItems m b i o.toNat size true false fun l => x.regBytes l t.toNat n size
    x.sendMem m items faults .store (x.w.buf b.toNat) 4 .none [] false (maskOf (items.map (·.lane)))

/-- LDB (R208). -/
def execLdb (t : VR) (b : BX) (i : VR) (o : BX) (p : PR) (s : State) : Out := loadWord s t b i o p 1 false

/-- LDSB (R208). -/
def execLdsb (t : VR) (b : BX) (i : VR) (o : BX) (p : PR) (s : State) : Out := loadWord s t b i o p 1 true

/-- LDH (R208). -/
def execLdh (t : VR) (b : BX) (i : VR) (o : BX) (p : PR) (s : State) : Out := loadWord s t b i o p 2 false

/-- LDSH (R208). -/
def execLdsh (t : VR) (b : BX) (i : VR) (o : BX) (p : PR) (s : State) : Out := loadWord s t b i o p 2 true

/-- LDW (R208). -/
def execLdw (t : VR) (b : BX) (i : VR) (o : BX) (p : PR) (s : State) : Out := loadWord s t b i o p 4 false

/-- LDW2 (R208). -/
def execLdw2 (t : VR) (b : BX) (i : VR) (o : BX) (p : PR) (s : State) : Out := loadWord s t b i o p 8 false

/-- LDW4 (R208). -/
def execLdw4 (t : VR) (b : BX) (i : VR) (o : BX) (p : PR) (s : State) : Out := loadWord s t b i o p 16 false

/-- STB (R208). -/
def execStb (t : VR) (b : BX) (i : VR) (o : BX) (p : PR) (s : State) : Out := storeWord s t b i o p 1

/-- STH (R208). -/
def execSth (t : VR) (b : BX) (i : VR) (o : BX) (p : PR) (s : State) : Out := storeWord s t b i o p 2

/-- STW (R208). -/
def execStw (t : VR) (b : BX) (i : VR) (o : BX) (p : PR) (s : State) : Out := storeWord s t b i o p 4

/-- STW2 (R208). -/
def execStw2 (t : VR) (b : BX) (i : VR) (o : BX) (p : PR) (s : State) : Out := storeWord s t b i o p 8

/-- STW4 (R208). -/
def execStw4 (t : VR) (b : BX) (i : VR) (o : BX) (p : PR) (s : State) : Out := storeWord s t b i o p 16

/-- An atomic of size bytes with n operand registers (R210 to R212); x1 returns the old value. -/
def atomicWord (s : State) (t : VR) (b : BX) (i : VR) (sc : PR) (r : BitVec 1) (p : PR) (op : AtomOp)
    (size n : Nat) : Out :=
  issue s { pr := p, regs := [(t.toNat, n), (i.toNat, 1)] } fun x m =>
    let (items, faults) := x.laneItems m b i 0 size true true fun l => x.regBytes l t.toNat n (4 * n)
    let dst := if r = 1 then LoadDst.vregs t.toNat size false else .none
    x.sendMem m items faults (.atomic op) (x.w.buf b.toNat) sc.toNat dst
      (if r = 1 then (List.range (size / 4)).map (t.toNat + ·) else []) false (maskOf (items.map (·.lane)))

/-- AADD (R211). -/
def execAadd (t : VR) (b : BX) (i : VR) (sc : PR) (r : BitVec 1) (p : PR) (s : State) : Out :=
  atomicWord s t b i sc r p .add 4 1

/-- AIMIN (R211). -/
def execAimin (t : VR) (b : BX) (i : VR) (sc : PR) (r : BitVec 1) (p : PR) (s : State) : Out :=
  atomicWord s t b i sc r p .imin 4 1

/-- AIMAX (R211). -/
def execAimax (t : VR) (b : BX) (i : VR) (sc : PR) (r : BitVec 1) (p : PR) (s : State) : Out :=
  atomicWord s t b i sc r p .imax 4 1

/-- AUMIN (R211). -/
def execAumin (t : VR) (b : BX) (i : VR) (sc : PR) (r : BitVec 1) (p : PR) (s : State) : Out :=
  atomicWord s t b i sc r p .umin 4 1

/-- AUMAX (R211). -/
def execAumax (t : VR) (b : BX) (i : VR) (sc : PR) (r : BitVec 1) (p : PR) (s : State) : Out :=
  atomicWord s t b i sc r p .umax 4 1

/-- AAND (R211). -/
def execAand (t : VR) (b : BX) (i : VR) (sc : PR) (r : BitVec 1) (p : PR) (s : State) : Out :=
  atomicWord s t b i sc r p .and 4 1

/-- AOR (R211). -/
def execAor (t : VR) (b : BX) (i : VR) (sc : PR) (r : BitVec 1) (p : PR) (s : State) : Out :=
  atomicWord s t b i sc r p .or 4 1

/-- AXOR (R211). -/
def execAxor (t : VR) (b : BX) (i : VR) (sc : PR) (r : BitVec 1) (p : PR) (s : State) : Out :=
  atomicWord s t b i sc r p .xor 4 1

/-- AXCH (R211). -/
def execAxch (t : VR) (b : BX) (i : VR) (sc : PR) (r : BitVec 1) (p : PR) (s : State) : Out :=
  atomicWord s t b i sc r p .xch 4 1

/-- ACAS (R211). -/
def execAcas (t : VR) (b : BX) (i : VR) (sc : PR) (r : BitVec 1) (p : PR) (s : State) : Out :=
  atomicWord s t b i sc r p .cas 4 2

/-- AFADD (R211). -/
def execAfadd (t : VR) (b : BX) (i : VR) (sc : PR) (r : BitVec 1) (p : PR) (s : State) : Out :=
  atomicWord s t b i sc r p .fadd 4 1

/-- AOR8W (R211). -/
def execAor8w (t : VR) (b : BX) (i : VR) (sc : PR) (r : BitVec 1) (p : PR) (s : State) : Out :=
  atomicWord s t b i sc r p .or8w 32 8

/-- SLD (R213): an acquire when x1 is set. -/
def execSld (t : VR) (b : BX) (i : VR) (sc : PR) (r : BitVec 1) (p : PR) (s : State) : Out :=
  issue s { pr := p, regs := regsV [t, i] } fun x m =>
    let (items, faults) := x.laneItems m b i 0 4 false true fun _ => []
    x.sendMem m items faults (.strongLoad (r = 1)) (x.w.buf b.toNat) sc.toNat (.vregs t.toNat 4 false)
      [t.toNat] false (maskOf (items.map (·.lane)))

/-- SST (R213): a release when x1 is set. -/
def execSst (t : VR) (b : BX) (i : VR) (sc : PR) (r : BitVec 1) (p : PR) (s : State) : Out :=
  issue s { pr := p, regs := regsV [t, i] } fun x m =>
    let (items, faults) := x.laneItems m b i 0 4 true true fun l => x.regBytes l t.toNat 1 4
    x.sendMem m items faults (.strongStore (r = 1)) (x.w.buf b.toNat) sc.toNat .none [] false
      (maskOf (items.map (·.lane)))

/-- A scalar access (R178, R179): index s[sa][31:0], made once and counted as an access of every lane of the
subgroup; a failing check faults them all. -/
def scalarMem (s : State) (d a : SR) (b : BX) (i : BitVec 5) (size : Nat) (kind : AccKind) : Out :=
  issue s { ct := true } fun x m =>
    let rec_ := x.w.buf b.toNat
    let write := match kind with | .store | .strongStore _ => true | _ => false
    let strong := match kind with | .load | .store => false | _ => true
    match x.s.accessAt x.w rec_ ((x.sr a).toNat % 2 ^ 32) i.toNat size write strong with
    | .inl (c, addr) => x.raiseAll m c (addr := addr)
    | .inr addr =>
      let it : Item := { lane := leader m, addr := addr, size := size
                         data := if write then toBytes size (x.sr d).toNat else []
                         got := List.replicate size none, left := size }
      x.sendMem m [it] [] kind rec_ 4 (if write then .none else .sreg d.toNat size)
        (if write then [] else [128 + d.toNat]) true m

/-- SLDW (R178). -/
def execSldw (d a : SR) (b : BX) (i : BitVec 5) (s : State) : Out := scalarMem s d a b i 4 .load
/-- SLDD (R178). -/
def execSldd (d a : SR) (b : BX) (i : BitVec 5) (s : State) : Out := scalarMem s d a b i 8 .load
/-- SSTW (R178). -/
def execSstw (d a : SR) (b : BX) (i : BitVec 5) (s : State) : Out := scalarMem s d a b i 4 .store
/-- SSTD (R178). -/
def execSstd (d a : SR) (b : BX) (i : BitVec 5) (s : State) : Out := scalarMem s d a b i 8 .store
/-- SLDWA (R178, R179): an acquire at device scope. -/
def execSldwa (d a : SR) (b : BX) (i : BitVec 5) (s : State) : Out := scalarMem s d a b i 4 (.strongLoad true)
/-- SSTDR (R178, R179): a release at device scope. -/
def execSstdr (d a : SR) (b : BX) (i : BitVec 5) (s : State) : Out := scalarMem s d a b i 8 (.strongStore true)

/-- FENCE (R108, R214): kind 0 ACQ, 1 REL, 2 ACQREL, 3 FULL; a zero path mask orders nothing. -/
def execFence (sc : PR) (src dst : SR) (kind : BitVec 2) (s : State) : Out :=
  issue s { ct := true } fun x m =>
    if src = 0 || dst = 0 then x
    else
      let rel := kind != 0
      let acq := kind != 1
      let paths := (List.range 6).filter fun i => dst.getLsbD i
      let part := fun (y : Ctx) (p : Mask) =>
        let (z, f) := y.addFence p (y.covered src.toNat p rel acq) rel acq (kind = 3) sc.toNat
        paths.foldl (fun (y : Ctx) q => y.holdOn q f p) z
      let x2 := (x.parts m).foldl part x
      let x3 := if rel && dst.getLsbD 0 then
          x2.modW fun w => { w with relFences := nub ((m, sc.toNat) :: w.relFences) }
        else x2
      x3.settled

/-- Records the late fault of lanes for the word in execution (R312). -/
def Ctx.lateAll (x : Ctx) (m : Mask) (cls code addr : Nat) (service : Bool) : Ctx :=
  let id := x.s.nextId
  let f : FaultRec := { set := id, cls := cls, code := code, late := true, index := x.c.index, pc := x.c.pc
                        header := x.c.raw, word := x.c.word, amask := m, addr := addr, service := service }
  { x with s := { x.s with nextId := id + 1 }
           w := x.w.modLanes m fun l => l.addLate x.w.servedSet f }

/-- MONITOR (R216): an 8-byte aligned doubleword of space 0 or 2, without SHORT or RO. The entry it arms replaces an older one. -/
def execMonitor (d a : SR) (b : BX) (c : BitVec 5) (s : State) : Out :=
  issue s { ct := true } fun x m =>
    let rec_ := x.w.buf b.toNat
    if (rec_.space != 0 && rec_.space != 2) || rec_.short then x.raiseAll m cProtection
    else match x.s.accessAt x.w rec_ ((x.sr a).toNat % 2 ^ 32) 0 8 true true with
    | .inl (cl, addr) => x.raiseAll m cl (addr := addr)
    | .inr addr =>
      let it : Item := { lane := leader m, addr := addr, size := 8, got := List.replicate 8 none, left := 8 }
      x.sendMem m [it] [] (.monitor c.toNat (x.sr d)) rec_ 4 .none [] true m

/-- Course clock of an ashlar in MHz (Table 1-3). -/
def pointMHz (p : Nat) : Nat := [500, 700, 900, 1050, 1250, 1400, 1500, 1600].getD p 1250

/-- MWAIT (R217): the deadline is fixed at issue; 0 means none. Its MATCH is an acquire. -/
def execMwait (d a : SR) (s : State) : Out :=
  issue s { ct := true } fun x m =>
    let n := (x.sr a).toNat
    let dl := if n = 0 then none
      else some (x.s.now + n * 1000000 / pointMHz (x.s.course (courseOf x.w.ashlar)).point)
    let (x1, op) := x.newOp m (.mwait dl d.toNat false none) [] [128 + d.toNat]
    (x1.holdOn pathL op m).modW fun w => { w with waitSince := x.w.waitFrom x.s.now }

/-- MCANCEL (R218): a posted strong request to the home of the doubleword. R218 gives no fate to a record of space 1, 3 or 4, to
SHORT or to an address that is not aligned: the first faults PROTECTION as in MONITOR, SHORT is ignored, and the line is that
of the first byte. It neither reads nor writes and the spec names no permission for it: the model has it need the leaf's R, as
MONITOR does, with a late PROTECTION fault without it (DESIGN CHOICE, log entry 70). -/
def execMcancel (a : SR) (b : BX) (s : State) : Out :=
  issue s { ct := true } fun x m =>
    let rec_ := x.w.buf b.toNat
    if rec_.space != 0 && rec_.space != 2 then x.raiseAll m cProtection
    else match x.s.accessAt x.w rec_ ((x.sr a).toNat % 2 ^ 32) 0 8 false false with
    | .inl (cl, addr) => x.raiseAll m cl (addr := addr)
    | .inr addr =>
      if rec_.space = 2 then
        (x.addReq m pathL false false true none [] (.cancelWatch 2 (x.s.windowAddr x.w addr))).1
      else match x.s.pathFault x.w.ashlar x.w.slot addr 8 { read := true } with
      | some (cl, code) => x.lateAll m cl (pathCode cl code) addr (pathService cl code)
      | none => (x.addReq m pathL false false true none [] (.cancelWatch 0 (x.s.paOf x.w.ashlar x.w.slot addr))).1

end Sys2Proof.Machine
end

