-- ==== Sys2Proof/Machine/Sync.lean ====
section
/-! DEFINITION. Ordered sections, barrier objects and gathering reductions as instructions
(spec 10_isa_memory_sync.md R219 to R226; 05_ordering.md R115 to R122; 17_isa_faults.md R337): checks at issue and
the requests sent. -/

namespace Sys2Proof.Machine

/-! ### Ordered sections -/

/-- Keys of the fixed units have key[63:56] = 0xFF (R122). -/
def fixedKey (k : DWord) : Bool := k.toNat / 2 ^ 56 == 0xFF

/-- Sends one keystone request per lane in ascending order (R219), each behind what that lane must await; each lane's completion
counts. Where the answer is an acquire, each lane's later accesses on path L wait for its own (R117, R220). -/
def Ctx.sendOrd (x : Ctx) (lanes : List Nat) (op : OrdOp) (t k : VR) (regs : List Nat) (extra : Nat → List (Nat × Mask))
    (hold : Bool) : Ctx :=
  if lanes.isEmpty then x
  else
    let m := maskOf lanes
    let (x1, o) := x.newOp m (.request 0) [] regs
    let x2 := lanes.foldl (fun (y : Ctx) l =>
      (y.addReq (oneLane l) pathL true true true (some o) (extra l)
        (.order op l (x.vpair l k.toNat) (x.vr l t) t.toNat)).1) x1
    (if hold then lanes.foldl (fun (y : Ctx) l => y.holdOn pathL o (oneLane l)) x2 else x2).settled

/-- A keystone word whose lanes fault PROTECTION on a fixed-unit key (R122). -/
def ordFree (s : State) (t k : VR) (p : PR) (op : OrdOp) (regs : List Nat) (named : List (Nat × Nat)) : Out :=
  issue s { pr := p, regs := (k.toNat, 2) :: named } fun x m =>
    let ls := lanesOf m
    let bad := ls.filter fun l => fixedKey (x.vpair l k.toNat)
    (x.sendOrd (ls.filter fun l => !fixedKey (x.vpair l k.toNat)) op t k regs (fun _ => []) false).raise m
      (bad.map fun l => { lane := l, cls := cProtection })

/-- OTAKE (R116, R219): the ticket arrives in vt. -/
def execOtake (t k : VR) (p : PR) (s : State) : Out := ordFree s t k p .take [t.toNat] [(t.toNat, 1)]

/-- OBASE (R116, R219). -/
def execObase (t k : VR) (p : PR) (s : State) : Out := ordFree s t k p .base [] [(t.toNat, 1)]

/-- OCLOSE (R116, R219). -/
def execOclose (k : VR) (p : PR) (s : State) : Out := ordFree s 0 k p .close [] []

/-- Whether a lane may ask for a section (R119, R337): at most two keys count as held, and a second must be
greater. -/
def Lane.mayEnter (n : Lane) (key : DWord) : Bool :=
  match n.held with
  | [] => true
  | [h] => h.1.ult key
  | _ => false

/-- OENTER and OTRY: a request that breaks R119 faults SECTION ORDER and is not sent; a key counts as held
from the issue. Entering is an acquire (R220). -/
def ordEnter (s : State) (t k : VR) (p : PR) (op : OrdOp) : Out :=
  issue s { pr := p, regs := [(k.toNat, 2), (t.toNat, 1)] } fun x m =>
    let ls := lanesOf m
    let may := fun l => (x.w.lane l).mayEnter (x.vpair l k.toNat)
    let good := ls.filter may
    let x1 := x.modW fun w => good.foldl (fun (w : Wave) l =>
      w.modLane l fun n => { n with held := n.held ++ [(x.vpair l k.toNat, x.vr l t)] }) w
    let x2 := x1.modW fun w => { w with waitSince := w.waitFrom x.s.now }
    (x2.sendOrd good op t k [199] (fun _ => []) true).raise m
      ((ls.filter fun l => !may l).map fun l => { lane := l, cls := cSection })

/-- OENTER (R116, R117, R219). -/
def execOenter (t k : VR) (p : PR) (s : State) : Out := ordEnter s t k p .enter

/-- OTRY (R116, R219). -/
def execOtry (t k : VR) (p : PR) (s : State) : Out := ordEnter s t k p .try_

/-- OLEAVE (R116, R219, R220): a release at device scope; by a lane that does not hold the key SECTION ORDER. -/
def execOleave (k : VR) (p : PR) (s : State) : Out :=
  issue s { pr := p, regs := [(k.toNat, 2)] } fun x m =>
    let ls := lanesOf m
    let holds := fun l => (x.w.lane l).held.any fun h => h.1 == x.vpair l k.toNat
    let good := ls.filter holds
    let (x1, ends) := (x.parts (maskOf good)).foldl (fun (y : Ctx × List (Mask × List (Nat × Mask))) p =>
      let (z, e) := y.1.release p 4
      (z, y.2 ++ [(p, e)])) (x, [])
    let extra := fun (l : Nat) => ((ends.find? fun e => laneBit e.1 l).map (·.2)).getD []
    let x2 := x1.modW fun w => good.foldl (fun (w : Wave) l =>
      w.modLane l fun n => { n with held := n.held.filter fun h => h.1 != x.vpair l k.toNat }) w
    (x2.sendOrd good .leave 0 k [] extra false).raise m
      ((ls.filter fun l => !holds l).map fun l => { lane := l, cls := cSection })

/-! ### Barrier objects -/

/-- A request from a wave of another run on an owned object faults PROTECTION (R224). -/
def Ctx.barForeign (x : Ctx) (n : Nat) : Bool :=
  let b := x.s.barrier x.w.ashlar n
  b.state != .idle && b.run != x.w.run

/-- A BAR command (R162, R222): only the leader's registers are read. -/
def barWord (s : State) (p : PR) (regs : List (Nat × Nat)) (own : Bool) (n : BX) (f : Ctx → Mask → Ctx) : Out :=
  issue s { ct := true, pr := p, regs := regs } fun x m =>
    if own && x.barForeign n.toNat then x.raiseAll m cProtection else f x m

/-- Sends a request to a barrier object of an ashlar. -/
def Ctx.sendBar (x : Ctx) (m : Mask) (ashlar : Nat) (n : BX) (op : BarOp) (o : Option Nat)
    (extra : List (Nat × Mask)) : Ctx :=
  ((x.addReq m pathL true true false o extra (.barrier op ashlar n.toNat m)).1).settled

/-- BINIT (R222): EXPECT in bits [15:0] of va, AUTO in bit 16. R222 has bits [31:17] zero and gives no fate to others: they are
not read (DESIGN CHOICE, log entry 70). -/
def execBinit (a : VR) (n : BX) (p : PR) (s : State) : Out :=
  barWord s p [(a.toNat, 1)] true n fun x m =>
    let v := (x.vr (leader m) a).toNat
    x.sendBar m x.w.ashlar n (.init (v % 2 ^ 16) (v / 2 ^ 16 % 2 == 1)) none []

/-- BARRIVE (R222, R223): a release at ashlar scope; imm7[6] writes PH before the arrival in every lane of
Active. The token has fixed latency (Table 10-11), so it is PH as the word issues. -/
def execBarrive (a : VR) (n : BX) (i : VR) (p : PR) (s : State) : Out :=
  barWord s p (if i.getLsbD 6 then [(a.toNat, 1)] else []) true n fun x m =>
    let (x1, extra) := x.release m 1
    let ph := (x.s.barrier x.w.ashlar n.toNat).ph
    let x2 := if i.getLsbD 6 then x1.mapI m a fun _ => ph.setWidth 32 else x1
    x2.sendBar m x.w.ashlar n (.arrive (i.toNat % 64 + 1) none) none extra

/-- BWAIT (R222, R223): completes when PH differs from the token. -/
def execBwait (a : VR) (n : BX) (p : PR) (s : State) : Out :=
  barWord s p [(a.toNat, 1)] true n fun x m =>
    let (x1, o) := x.newOp m (.barrier n.toNat ((x.vr (leader m) a).setWidth 16)) []
    x1.holdOn pathL o m

/-- BSYNC (R222, R223): one arrival, then waits for PH to differ from its value before the arrival. -/
def execBsync (n : BX) (p : PR) (s : State) : Out :=
  barWord s p [] true n fun x m =>
    let (x1, extra) := x.release m 1
    let (x2, o) := x1.newOp m (.request 0) []
    (x2.sendBar m x.w.ashlar n .sync (some o) extra).holdOn pathL o m

/-- BRARRIVE (R222, R223): an arrival at die scope on the object of an ashlar of the die. -/
def execBrarrive (a : VR) (n : BX) (i : SR) (p : PR) (s : State) : Out :=
  barWord s p [(a.toNat, 1)] false n fun x m =>
    let (x1, extra) := x.release m 3
    x1.sendBar m (x.w.die * 64 + (x.vr (leader m) a).toNat % 64) n (.remote (i.toNat + 1)) none extra

/-- BTEST (R222, R223): p7 and va in every lane of Active when the request is performed. -/
def execBtest (a : VR) (n : BX) (p : PR) (s : State) : Out :=
  barWord s p [(a.toNat, 1)] true n fun x m =>
    let (x1, o) := x.newOp m (.request 0) [] [a.toNat, 199]
    (x1.sendBar m x.w.ashlar n (.test a.toNat ((x.vr (leader m) a).setWidth 16)) (some o) []).holdOn pathL o m

/-! ### Gathering reductions -/

/-- Address-path fault of a virtual address named by a command, as class, code of pathFault and ADDR. -/
def Ctx.vaFault (x : Ctx) (va n : Nat) (k : Need) : Option (Nat × Nat × Nat) :=
  (x.s.pathFault x.w.ashlar x.w.slot va n k).map fun f => (f.1, f.2, va)

/-- Physical addresses and lengths of the parts of n bytes, line by line. -/
def Ctx.partsOf (x : Ctx) (va n : Nat) : List (Nat × Nat) :=
  (linePieces va n).map fun p => (x.s.paOf x.w.ashlar x.w.slot p.2.1, p.2.2)

/-- A RED command (R225): its addresses are translated at issue, and an address-path fault parks every lane of
Active. The result address is 4-byte aligned and written; the descriptor is read. -/
def redWord (s : State) (p : PR) (a : VR) (n : Nat) (ring : Bool) (f : Ctx → Nat → RedOp) (rel : Bool) : Out :=
  issue s { ct := true, pr := p, regs := [(a.toNat, n)] } fun x m =>
    let l := leader m
    let addr := (x.vpair l a.toNat).toNat
    let rg := (x.vpair l (a.toNat + 2)).toNat
    let fl := if addr % 4 != 0 then some (cProtection, 0, addr)
      else match x.vaFault addr 4 { write := true } with
        | some e => some e
        | none => if ring then x.vaFault rg 32 { read := true } else none
    match fl with
    | some (c, code, va) => x.raisePath m c code va false
    | none =>
      let x0 := x.onState fun s =>
        let t := s.touchRange x.w.ashlar x.w.slot addr 4 true
        if ring then t.touchRange x.w.ashlar x.w.slot rg 32 false else t
      let (x1, extra) := if rel then x0.release m 4 else (x0, [])
      ((x1.addReq m pathL true true true none extra (.reduce (f x l) addr (x.s.paOf x.w.ashlar x.w.slot addr))).1).settled

/-- ROPEN (R225, R226). R225 gives no fate to bits above v[va + 4][24:0] or v[va + 5][15:0], which are not read, or to a count
above 2^24, which is taken as it stands (DESIGN CHOICE, log entry 70). -/
def execRopen (a : VR) (o p : PR) (s : State) : Out :=
  redWord s p a 6 true (fun x l => .open_ (x.partsOf (x.vpair l (a.toNat + 2)).toNat 32)
    ((x.w.vreg l (a.toNat + 4)).toNat % 2 ^ 25) ((x.w.vreg l (a.toNat + 5)).toNat % 2 ^ 16) o.toNat) false

/-- RCONTRIB (R112, R225, R226): a release at device scope. -/
def execRcontrib (a : VR) (p : PR) (s : State) : Out :=
  redWord s p a 3 false (fun x l => .contrib (x.w.vreg l (a.toNat + 2))) true

/-- RCLOSE (R225, R226). -/
def execRclose (a : VR) (p : PR) (s : State) : Out := redWord s p a 2 false (fun _ _ => .close) false

end Sys2Proof.Machine
end

