-- ==== Sys2Proof/Machine/Engine.lean ====
section
/-! DEFINITION. Matrix and async-copy commands as instructions (spec 11_isa_engines.md R228 to R243, R262): the checks
at issue on parameter blocks and layout records, and the commands sent to the engines. -/

namespace Sys2Proof.Machine

/-! ### Parameter blocks (Table 11-4) -/

/-- A little-endian field of a structure. -/
def field (b : List Byte) (lo n : Nat) : Nat := ofBytes ((b.drop lo).take n)

/-- A matrix parameter block. -/
structure MatBlock where
  act : Nat
  m : Nat
  kch : Nat
  afmt : Nat
  wfmt : Nat
  ascale : Nat
  wscale : Nat
  out : Nat
  oq : Bool
  ofmt : Nat
  epi : Nat
  bias : Nat
  acc : Nat
  ring : Nat
  tag : Nat
  reserved : Nat

/-- The fields of a parameter block. -/
def matBlock (b : List Byte) : MatBlock where
  act := field b 0 4
  m := field b 4 2
  kch := field b 6 2
  afmt := field b 8 1
  wfmt := field b 9 1
  ascale := field b 10 2
  wscale := field b 12 2
  out := field b 14 4 % 2 ^ 31
  oq := field b 14 4 / 2 ^ 31 == 1
  ofmt := field b 18 1
  epi := field b 19 1
  bias := field b 20 4
  acc := field b 24 1
  ring := field b 25 1
  tag := field b 26 2
  reserved := field b 28 36

/-- Bytes of an output row (R237). -/
def MatBlock.rowBytes (b : MatBlock) : Nat := 64 * codeBits b.ofmt / 8

/-- Bytes written to the destination by a whole stream (R237). -/
def MatBlock.total (b : MatBlock) : Nat := b.m * b.rowBytes

/-- Whether a format may have scales (R235). -/
def scaledFmt (f : Nat) : Bool := f == 3 || f == 4 || f == 5

/-- The checks of MSTREAM at issue (R235). -/
def MatBlock.ok (b : MatBlock) (w : Wave) : Bool :=
  match chunkLen b.afmt b.wfmt with
  | none => false
  | some k =>
    let blocks := b.kch * k / 32
    b.reserved == 0 && decide (1 ≤ b.m) && decide (b.m ≤ 256) && decide (1 ≤ b.kch) && decide (b.kch ≤ 64)
      && [0, 1, 2, 3, 4, 5, 6, 9].contains b.ofmt && decide (b.epi ≤ 4) && decide (b.acc ≤ 1)
      && w.ringField b.ring
      && b.act % 64 == 0 && w.inRegion b.act (64 * b.kch * b.m)
      && (b.ascale == 0xFFFF || (scaledFmt b.afmt && w.inRegion (16 * b.ascale) (b.m * blocks)))
      && (b.wscale == 0xFFFF || (scaledFmt b.wfmt && w.inRegion (16 * b.wscale) (64 * blocks)))
      && (b.bias == 0xFFFFFFFF || (b.bias % 4 == 0 && w.inRegion b.bias 256))
      && (if b.oq then decide (b.out < 16) else b.out % 64 == 0 && w.inRegion b.out b.total)
      && (b.acc == 0 || (b.ofmt == 0 && !b.oq))

/-! ### The MAT group -/

/-- Whether the array of the wave's ashlar is bound to the wave's node (R69, R232). -/
def Ctx.bound (x : Ctx) : Bool := (x.s.ashlar x.w.ashlar).array.bound == some (x.w.run, x.w.node)

/-- A MAT word: PROTECTION outside the bound node (R331), then its own check, then its command. -/
def matWord (s : State) (p : PR) (regs : List (Nat × Nat)) (f : Ctx → Mask → Option Ctx) : Out :=
  issue s { pr := p, regs := regs } fun x m =>
    if !x.bound then x.raiseAll m cProtection
    else match f x m with
      | some y => y
      | none => x.raiseAll m cProtection

/-- Sends a matrix command to the array's queue (R228), on path M. -/
def Ctx.sendMat (x : Ctx) (m : Mask) (c : MatCmd) : Ctx :=
  let (y, r) := x.addReq m pathM true true false none [] (.matrix c false)
  y.modW fun w => { w with lastMat := r }

/-- MLDW (R232, R233). -/
def execMldw (a : VR) (p : PR) (s : State) : Out :=
  matWord s p [(a.toNat, 1)] fun x m =>
    let off := (x.vr (leader m) a).toNat
    if off % 64 == 0 && x.w.inRegion off 4096 then some (x.sendMat m (.mldw off)) else none

/-- MSWAP (R232, R236). -/
def execMswap (p : PR) (s : State) : Out := matWord s p [] fun x m => some (x.sendMat m .mswap)

/-- MSTREAM (R232, R234, R235): the parameter block is read at issue. -/
def execMstream (a : VR) (p : PR) (s : State) : Out :=
  matWord s p [(a.toNat, 1)] fun x m =>
    let off := (x.vr (leader m) a).toNat
    if off % 64 == 0 && x.w.inScratch off 64 then
      let b := x.scratchNow off 64
      if (matBlock b).ok x.w then some (x.sendMat m (.mstream b)) else none
    else none

/-- MDRAIN (R238): an acquire of the wave's earlier matrix commands. -/
def execMdrain (p : PR) (s : State) : Out :=
  matWord s p [] fun x m =>
    let (y, o) := x.newOp m (.mdrain (x.w.lastMat + 1)) []
    some (y.holdOn pathL o m)

/-! ### Layout records (Table 11-8) -/

/-- A tensor layout record. -/
structure Layout where
  base : Nat
  size : List Nat
  stride : List Nat
  dst : Nat
  mask : DWord
  dpitch : Nat
  box : List Nat                       -- extents
  esize : Nat
  swizzle : Nat
  dims : Nat
  bar : Nat
  arrive : Bool
  ring : Nat
  tag : Nat
  scope : Nat
  skip : Bool
  reserved : Nat

/-- The fields of a layout record. -/
def layout (b : List Byte) : Layout where
  base := field b 0 8
  size := (List.range 4).map fun i => field b (8 + 4 * i) 4
  stride := (List.range 3).map fun i => field b (24 + 4 * i) 4
  dst := field b 36 4
  mask := BitVec.ofNat 64 (field b 40 8)
  dpitch := field b 48 2
  box := (List.range 4).map fun i => field b (50 + i) 1 + 1
  esize := field b 54 1
  swizzle := field b 55 1 % 8
  dims := field b 55 1 / 16 % 4 + 1
  bar := field b 56 1 % 16
  arrive := field b 56 1 / 128 == 1
  ring := field b 57 1
  tag := field b 58 2
  scope := field b 60 1 % 8
  skip := field b 61 1 % 2 == 1
  reserved := field b 55 1 / 8 % 2 + field b 55 1 / 64 + field b 56 1 / 16 % 8 + field b 60 1 / 8 + field b 61 1 / 2 + field b 62 2

/-- Elements in a dimension of the box. -/
def Layout.ext (l : Layout) (i : Nat) : Nat := l.box.getD i 1

/-- Bytes of an element. -/
def Layout.bytes (l : Layout) : Nat := 2 ^ l.esize

/-- First byte and bytes of the scratch footprint; a swizzle permutes 16-byte units within 128 bytes (R78). -/
def Layout.footprint (l : Layout) : Nat × Nat :=
  let last := l.dst + (l.ext 1 * l.ext 2 * l.ext 3 - 1) * l.dpitch + l.ext 0 * l.bytes
  if l.swizzle = 2 then (l.dst / 128 * 128, (last + 127) / 128 * 128 - l.dst / 128 * 128) else (l.dst, last - l.dst)

/-- The checks of a copy at issue (R240, R241); kinds: 0 load, 1 multicast, 2 store, 3 gather, 4 scatter. -/
def Layout.ok (l : Layout) (x : Ctx) (kind index : Nat) : Bool :=
  l.reserved == 0 && decide (l.scope ≤ 5) && decide (l.esize ≤ 4) && (l.swizzle == 0 || l.swizzle == 2)
    && ((List.range 4).all fun i => i < l.dims || l.ext i == 1)
    && decide (l.ext 0 * l.bytes ≤ l.dpitch) && x.w.ringField l.ring
    && (if kind = 1 then l.mask != 0 && l.arrive else l.mask == 0)
    && (let (a, n) := l.footprint
        if kind = 1 then decide (a + n ≤ [32, 64, 80].getD ((x.s.ashlar x.w.ashlar).split - 1) 32 * 4096)
        else x.w.inScratch a n)
    && (kind < 3 || (index % 4 == 0 && x.w.inScratch index (4 * l.ext 1)))

/-! ### The CP group -/

/-- A copy command (R239): the layout record is read and checked at issue, and the leader's coordinates are
kept with the command. -/
def copyWord (s : State) (a : VR) (p : PR) (kind : Nat) : Out :=
  issue s { ct := true, pr := p, regs := [(a.toNat, 5)] } fun x m =>
    let r := fun i => x.w.vreg (leader m) (a.toNat + i)
    let off := (r 0).toNat
    if off % 64 == 0 && x.w.inScratch off 64 then
      let b := x.scratchNow off 64
      if (layout b).ok x kind (r 2).toNat then
        let c : Copy := { kind := kind, lay := b, c := (List.range 4).map fun i => (r (i + 1)).toInt
                          index := (r 2).toNat }
        let (y, id) := x.addReq m pathA true true false none [] (.copy c)
        y.modW fun w => { w with batchOpen := w.batchOpen ++ [id] }
      else x.raiseAll m cProtection
    else x.raiseAll m cProtection

/-- CPLOAD (R239). -/
def execCpload (a : VR) (p : PR) (s : State) : Out := copyWord s a p 0
/-- CPLOADM (R239, R244). -/
def execCploadm (a : VR) (p : PR) (s : State) : Out := copyWord s a p 1
/-- CPSTORE (R239). -/
def execCpstore (a : VR) (p : PR) (s : State) : Out := copyWord s a p 2
/-- CPGATH (R239). -/
def execCpgath (a : VR) (p : PR) (s : State) : Out := copyWord s a p 3
/-- CPSCAT (R239). -/
def execCpscat (a : VR) (p : PR) (s : State) : Out := copyWord s a p 4

/-- Whether a batch still has a copy that has not completed (R243). -/
def State.batchLive (s : State) (b : List Nat) : Bool := b.any fun c => (s.req? c).isSome

/-- Closes the open batch if it is not empty (R243); batches that have finished are forgotten. -/
def State.closeBatch (s : State) (w : Wave) : Wave :=
  { w with batches := (w.batches ++ [w.batchOpen]).filter s.batchLive, batchOpen := [] }

/-- CPCOMMIT (R243). -/
def execCpcommit (p : PR) (s : State) : Out :=
  issue s { ct := true, pr := p } fun x _ => x.modW x.s.closeBatch

/-- CPWAIT (R243): closes the open batch, then waits until at most n closed batches are unfinished; an
acquire. -/
def execCpwait (n : VR) (p : PR) (s : State) : Out :=
  issue s { ct := true, pr := p } fun x m =>
    let (y, o) := (x.modW x.s.closeBatch).newOp m (.cpwait n.toNat) []
    y.holdOn pathL o m

end Sys2Proof.Machine
end

