-- ==== Sys2Proof/Machine/Record.lean ====
section
/-! DEFINITION. Queue registers, record appends and reservations, graph launches and the vertical FIFO as
instructions (spec 11_isa_engines.md R246 to R253, R262; 05_ordering.md R109; 17_isa_faults.md R339). -/

namespace Sys2Proof.Machine

/-! ### Queue registers -/

/-- Rows of queue register q. -/
def Wave.rows (w : Wave) (q : Nat) : List (List Word) := w.q.getD q []

/-- Little-endian words of bytes. -/
def wordsOf : List Byte → List Word
  | a :: b :: c :: d :: rest => BitVec.ofNat 32 (ofBytes [a, b, c, d]) :: wordsOf rest
  | _ => []

/-- Whether an uncompleted MSTREAM of the wave outputs to queue register q (R262). -/
def State.streamTo (s : State) (wave q : Nat) : Bool :=
  s.reqs.any fun r => r.wave == wave && match r.body with
    | .matrix (.mstream b) _ => (matBlock b).oq && (matBlock b).out == q
    | _ => false

/-- QPUSH (R246, R247): a row of 256 bytes of scratch, read at issue. -/
def execQpush (a : VR) (q : BX) (p : PR) (s : State) : Out :=
  issue s { pr := p, regs := [(a.toNat, 1)] } fun x m =>
    let off := (x.vr (leader m) a).toNat
    if off % 4 == 0 && x.w.inScratch off 256 && !x.s.streamTo x.w.id q.toNat then
      let row := wordsOf (x.scratchNow off 256)
      x.modW fun w => { w with q := w.q.modify q.toNat (· ++ [row]) }
    else x.raiseAll m cProtection

/-- QPOP and QPEEK (R246, R247): wait for a row; part p of it goes to the lanes. -/
def popWord (s : State) (a : VR) (q : BX) (part : BitVec 2) (p : PR) (keep : Bool) : Out :=
  issue s { pr := p, regs := [(a.toNat, 1)], bad := fun x => decide (64 ≤ part.toNat * x.w.width) } fun x m =>
    (x.newOp m (.qpop q.toNat part.toNat a.toNat keep) [] [a.toNat]).1

/-- QPOP (R246). -/
def execQpop (a : VR) (q : BX) (part : BitVec 2) (p : PR) (s : State) : Out := popWord s a q part p false
/-- QPEEK (R246). -/
def execQpeek (a : VR) (q : BX) (part : BitVec 2) (p : PR) (s : State) : Out := popWord s a q part p true

/-- QLEVEL (R246). -/
def execQlevel (a : VR) (q : BX) (p : PR) (s : State) : Out :=
  issue s { pr := p, regs := [(a.toNat, 1)] } fun x m =>
    x.mapI m a fun _ => BitVec.ofNat 32 (x.w.rows q.toNat).length

/-! ### Reservations of a wave -/

/-- Remaining slots of a wave on an edge (R61, R250). -/
def Wave.slotsLeft (w : Wave) (e : Nat) : Nat := sumBy (·.left) (w.resv.filter (·.edge == e))

/-- Die of the instance a wave's reservation on an edge is in; its own die where it holds none. -/
def Wave.resvDie (w : Wave) (e : Nat) : Nat := ((w.resv.find? (·.edge == e)).map (·.die)).getD w.die

/-- Takes one slot on an edge: the reservations after, and the instance's die. -/
def takeSlot (e : Nat) : List Resv → List Resv × Nat
  | [] => ([], 0)
  | r :: rs =>
    if r.edge == e && r.left != 0 then ({ r with left := r.left - 1 } :: rs, r.die)
    else let (l, d) := takeSlot e rs; (r :: l, d)

/-- Adds slots on an edge in the instance of a die. -/
def addSlots (e d n : Nat) (l : List Resv) : List Resv :=
  if l.any fun r => r.edge == e && r.die == d then
    updWhere (fun r => r.edge == e && r.die == d) (fun (r : Resv) => { r with left := r.left + n }) l
  else l ++ [{ edge := e, die := d, left := n }]

/-- The wave's node; none where its run is no longer live. -/
def Ctx.node? (x : Ctx) : Option Node := x.s.node? x.w.run x.w.node

/-- Edge e of the wave's node; an unused one where there is none. -/
def Ctx.edge (x : Ctx) (e : Nat) : Edge := (x.node?.map (·.edge e)).getD ⟨0, 0, false⟩

/-- Record size of the target of an edge. -/
def Ctx.recSize (x : Ctx) (e : Nat) : Nat :=
  ((x.s.node? x.w.run (x.edge e).target).map (·.recsize)).getD 0

/-- Whether an edge's target is a binning node, whose records belong to mesh groups (R266). -/
def Ctx.toBinning (x : Ctx) (e : Nat) : Bool :=
  ((x.s.node? x.w.run (x.edge e).target).map fun n => n.kind == 2 && n.fixunit == 1).getD false

/-- Registers an append names: va where the edge is unused, else its records (R330). -/
def appendRegs (s : State) (a : VR) (e c : Nat) : List (Nat × Nat) :=
  match s.ctx? with
  | none => []
  | some x => [(a.toNat, max 1 ((c + 1) * (x.recSize e / 4)))]

/-- Whether the run of an append's registers passes v127 (Table 17-3). -/
def Ctx.appendRange (x : Ctx) (a : VR) (e c : Nat) : Bool :=
  (x.edge e).emits != 0 && decide (128 < a.toNat + (c + 1) * (x.recSize e / 4))

/-- A record of a lane on an edge. -/
def Ctx.qrec (x : Ctx) (e lane : Nat) (bytes : List Byte) : QRec where
  bytes := bytes
  ashlar := if (x.edge e).isLocal then some x.w.ashlar else none
  group := if x.toBinning e then (x.w.groups.find? (·.1 == lane)).map (fun g => g.2 * 256 + x.w.node) else none

/-- Sends records on an edge as releases of lanes at device scope (R109, R249): each takes a slot, and those of
one instance travel together on path Q. A record goes with the scratch offset it is still to be read from, if it has one. -/
def Ctx.sendRecs (x : Ctx) (lanes : Mask) (e : Nat) (recs : List (QRec × List Nat)) : Ctx :=
  if recs.isEmpty then x
  else
    let (resv, placed) := recs.foldl (fun (acc : List Resv × List (Nat × QRec × List Nat)) r =>
      let (l, d) := takeSlot e acc.1
      (l, acc.2 ++ [(d, r)])) (x.w.resv, [])
    let (x1, extra) := (x.modW fun w => { w with resv := resv }).release lanes 4
    let node := (x.edge e).target
    ([0, 1].foldl (fun (y : Ctx) d =>
      let mine := (placed.filter (·.1 == d)).map (·.2)
      if mine.isEmpty then y
      else (y.addReq lanes pathQ false true false none extra (.append node d (mine.map (·.1)) (mine.flatMap (·.2)))).1) x1).settled

/-- QAPPEND (R249): the lanes for whose records slots are left append; the others fault BUDGET. -/
def execQappend (a : VR) (e : PR) (c : BX) (p : PR) (s : State) : Out :=
  let k := c.toNat + 1
  issue s { ct := true, pr := p, regs := appendRegs s a e.toNat c.toNat
            bad := fun x => x.appendRange a e.toNat c.toNat } fun x m =>
    if (x.edge e.toNat).emits = 0 then x.raiseAll m cProtection
    else
      let ls := lanesOf m
      let n := x.recSize e.toNat / 4
      let good := ls.take (x.w.slotsLeft e.toNat / k)
      let recs := good.flatMap fun l => (List.range k).map fun r =>
        (x.qrec e.toNat l (toBytes (4 * n) (x.vrun l (a.toNat + r * n) n)), [])
      (x.sendRecs (maskOf good) e.toNat recs).raise m
        ((ls.drop good.length).map fun l => { lane := l, cls := cBudget })

/-- QAPPENDL (R229, R249): the leader appends records, a release for every lane in Active; they are read from scratch once that
release has been performed. -/
def execQappendl (a : VR) (e : PR) (c : BX) (p : PR) (s : State) : Out :=
  let k := c.toNat + 1
  issue s { ct := true, pr := p, regs := [(a.toNat, 1)] } fun x m =>
    let l := leader m
    let size := x.recSize e.toNat
    let off := (x.vr l a).toNat
    if (x.edge e.toNat).emits = 0 then x.raiseAll m cProtection
    else if x.w.slotsLeft e.toNat < k then x.raise m [{ lane := l, cls := cBudget }]
    else if off % 16 == 0 && x.w.inScratch off (k * size) then
      x.sendRecs m e.toNat ((List.range k).map fun r => (x.qrec e.toNat l (List.replicate size 0), [off + r * size]))
    else x.raiseAll m cProtection

/-- A Q word that names an edge: PROTECTION on an unused one (R262). -/
def edgeWord (s : State) (e : PR) (p : PR) (regs : List (Nat × Nat)) (f : Ctx → Mask → Ctx) : Out :=
  issue s { ct := true, pr := p, regs := regs } fun x m =>
    if (x.edge e.toNat).emits = 0 then x.raiseAll m cProtection else f x m

/-- QRSV (R250): all or nothing, without waiting, in the instance reserved on e. -/
def execQrsv (a : VR) (e : PR) (n : B8) (p : PR) (s : State) : Out :=
  edgeWord s e p [(a.toNat, 1)] fun x m =>
    let d := x.w.resvDie e.toNat
    let t := (x.edge e.toNat).target
    let k := n.toNat
    let ok := ((x.s.run? x.w.run).map fun r => r.room t d k).getD false
    let x1 := if ok then
        { x with s := x.s.modRun x.w.run fun r => r.reserve t d k
                 w := { x.w with resv := addSlots e.toNat d k x.w.resv } }
      else x
    (x1.newOp m .ready ((lanesOf m).map fun l =>
      (l, .vreg l a.toNat (if ok then BitVec.ofNat 32 k else 0)))).1

/-- QFLUSH (R250): the remaining reservation on e goes back. -/
def execQflush (e : PR) (p : PR) (s : State) : Out :=
  edgeWord s e p [] fun x _ =>
    let mine := x.w.resv.filter (·.edge == e.toNat)
    { x with s := x.s.modRun x.w.run fun r => match x.node? with
               | some n => r.returnAll n mine
               | none => r
             w := { x.w with resv := updWhere (·.edge == e.toNat) (fun (r : Resv) => { r with left := 0 }) x.w.resv } }

/-- QLEFT (R250). -/
def execQleft (a : VR) (e : PR) (p : PR) (s : State) : Out :=
  edgeWord s e p [(a.toNat, 1)] fun x m =>
    (x.newOp m .ready ((lanesOf m).map fun l =>
      (l, .vreg l a.toNat (BitVec.ofNat 32 (x.w.slotsLeft e.toNat))))).1

/-! ### Graph launches (R251) -/

/-- A G word: the descriptor address in the leader's v[va], v[va + 1] is 64-byte aligned and translates with read
permission, or every lane of Active faults. -/
def graphWord (s : State) (a : VR) (p : PR) (f : Ctx → Mask → Nat → Ctx) : Out :=
  issue s { ct := true, pr := p, regs := [(a.toNat, 2)] } fun x m =>
    let va := (x.vpair (leader m) a.toNat).toNat
    if va % 64 != 0 then x.raiseAll m cProtection (addr := va)
    else match x.vaFault va 64 { read := true } with
      | some (c, code, addr) => x.raisePath m c code addr false
      | none => f (x.onState fun s => s.touchRange x.w.ashlar x.w.slot va 64 false) m va

/-- GLAUNCH (R109, R251): the launch goes to the scheduler once its release is performed. -/
def execGlaunch (a : VR) (p : PR) (s : State) : Out :=
  graphWord s a p fun x m va =>
    let l := oneLane (leader m)
    let (x1, f) := x.addFence l (x.covered 1 l true true) true false false 4
    let l : Launch := { id := x1.s.nextId, slot := x.w.slot, desc := va, die := some x.w.die, after := some f }
    ({ x1 with s := { x1.s with nextId := x1.s.nextId + 1, launches := x1.s.launches ++ [l] } }).settled

/-- GCANCEL (R49, R251). The wave's own clause goes on to its end. -/
def execGcancel (a : VR) (p : PR) (s : State) : Out :=
  graphWord s a p fun x _ va =>
    match x.s.runAt? x.w.slot va with
    | some r =>
      let s1 := x.s.askCancel r.id
      { x with s := s1, w := { x.w with watch := (s1.wave? x.w.id).bind (·.watch) } }
    | none => x

/-- GSTATUS (Table 11-12). -/
def execGstatus (a : VR) (p : PR) (s : State) : Out :=
  graphWord s a p fun x m va =>
    (x.newOp m .ready ((lanesOf m).map fun l => (l, .vreg l a.toNat (x.s.gstatus x.w.slot va)))).1

/-! ### The vertical FIFO (R252) -/

/-- ps of n cycles of an ashlar's course. -/
def State.cyclesPs (s : State) (ashlar n : Nat) : Nat :=
  (n * 1000000 + pointMHz (s.course (courseOf ashlar)).point - 1) / pointMHz (s.course (courseOf ashlar)).point

/-- An entry enters a FIFO: it goes on the bus, or waits in the push buffer while the bus is stopped (R252, R361). -/
def Ashlar.pushEntry (x : Ashlar) (e : FifoEntry) : Ashlar :=
  { x with fifo := x.fifo ++ [if x.fifoStop then { e with held := some 0 } else e] }

/-- The held entries of a FIFO replayed from a time on, one each cycle, each available 7 cycles after its last beat; what was delivered
stands (R361). -/
def replay (now cycle : Nat) : List FifoEntry → List FifoEntry
  | [] => []
  | e :: r => match e.held with
    | none => e :: replay now cycle r
    | some _ => { e with at_ := now + 7 * cycle, held := none } :: replay (now + cycle) cycle r

/-- VFPUSH (R167, R252): the 64 bytes of lanes 16 × ix4 on, available 8 cycles after issue. -/
def execVfpush (a : VR) (i : BX) (p : PR) (s : State) : Out :=
  issue s { pr := p, regs := [(a.toNat, 1)], bad := fun x => decide (x.w.width / 16 ≤ i.toNat) } fun x _ =>
    let bs := (List.range 16).flatMap fun k => toBytes 4 (x.vr (16 * i.toNat + k) a).toNat
    let e : FifoEntry := { wave := x.w.id, bytes := bs, at_ := x.s.now + x.s.cyclesPs x.w.ashlar 8 }
    { x with s := (x.s.modAshlar x.w.ashlar (·.pushEntry e)).count x.w.ashlar 22 1 x.w.slot }

/-- VFPOP (R252): control threads only. -/
def execVfpop (d : SR) (s : State) : Out :=
  issue s { ct := true, bad := fun x => !x.w.isThread } fun x m =>
    (x.newOp m (.vfpop d.toNat) [] ((List.range 8).map fun i => 128 + d.toNat + i)).1

/-- VFFREE (R252). -/
def execVffree (d : SR) (s : State) : Out :=
  issue s { ct := true } fun x _ => x.put (.sreg d.toNat (BitVec.ofNat 64 (x.s.vffree x.w.ashlar)))

end Sys2Proof.Machine
end

