-- ==== Sys2Proof/Machine/Place.lean ====
section
/-! DEFINITION. What a wave needs of an ashlar and gets there: the placement steps (spec 03_scheduling.md R68 to R71), the
state a wave starts with (02_graphs.md R34, R35), REFORM bins and filing (R42 to R44). -/

namespace Sys2Proof.Machine

/-! ### Resources in use -/

/-- Register-file bytes of a wave (R68 step 3). -/
def regBytes (width regs : Nat) : Nat := width * ((regs + 7) / 8) * 8 * 4

/-- Waves and control threads with a context on an ashlar. -/
def State.residentOn (s : State) (a : Nat) : List Wave := s.waves.filter fun w => w.ashlar == a && w.stat != .saved

/-- Open REFORM bins of an ashlar. -/
def Ashlar.openBins (x : Ashlar) : List Bin := x.bins.filterMap id

/-- Wave contexts in use on an ashlar: waves, open bins, batches of matrix nodes (R282). -/
def State.contexts (s : State) (a : Nat) : Nat :=
  ((s.residentOn a).filter fun w => !w.isThread).length + (s.ashlar a).openBins.length + (s.ashlar a).mlp.length

/-- Control threads resident on an ashlar. -/
def State.threads (s : State) (a : Nat) : Nat := ((s.residentOn a).filter (·.isThread)).length

/-- Register-file bytes in use on an ashlar. -/
def State.regsUsed (s : State) (a : Nat) : Nat :=
  sumBy (fun w => regBytes w.width w.regs) (s.residentOn a)
    + sumBy (fun b => regBytes b.width b.regs) (s.ashlar a).openBins

/-- Granules of the scratch share of a split (Table 2-1). -/
def splitGranules (n : Nat) : Nat := [32, 64, 80].getD (n - 1) 80

/-- Granules of the current scratch share, below which regions may be placed (R68 step 4). -/
def Ashlar.granules (x : Ashlar) : Nat := splitGranules x.split

/-- Granule runs in use: private regions and node-shared regions. -/
def Ashlar.usedGranules (x : Ashlar) : List (Nat × Nat) :=
  (x.regions.map fun r => (r.2.1, r.2.2)) ++ (x.residents.map fun r => (r.base, r.granules))

/-- A place for a private and, disjoint from it, a node-shared run of granules: the lowest private one that
leaves room for the shared one. -/
def findGranules (used : List (Nat × Nat)) (n pscr sscr : Nat) : Option (Nat × Nat) :=
  let starts := (0 :: used.map fun u => u.1 + u.2)
  let ok := starts.filterMap fun c =>
    if decide (c + pscr ≤ n) && used.all fun u => u.2 == 0 || pscr == 0 || decide (c + pscr ≤ u.1) || decide (u.1 + u.2 ≤ c)
    then (freeUnits (((c, pscr) :: used).filter (·.2 != 0)) n sscr).map fun d => (c, d)
    else none
  argMin (·.1) ok

/-- Places on an ashlar for the private region of a wave of a node and, disjoint from it, a node-shared one. A restore takes the
granules the region had: %scratchbase, which R52 restores as it was saved, is where the region lies (R88); only where the ashlar's
share does not reach so far does it take the lowest run (DEDUCED, log entry 70). -/
def Ashlar.places (used : List (Nat × Nat)) (n : Nat) (wave : Option Wave) (pscr sscr : Nat) : Option (Nat × Nat) :=
  let at_ := (wave.map fun w => w.scrBase / 4096).getD 0
  if wave.isSome && pscr != 0 && decide (at_ + pscr ≤ n) then
    if used.all fun u => u.2 == 0 || decide (at_ + pscr ≤ u.1) || decide (u.1 + u.2 ≤ at_) then
      (freeUnits (((at_, pscr) :: used).filter (·.2 != 0)) n sscr).map fun d => (at_, d)
    else none
  else findGranules used n pscr sscr

/-- Longest free run of granules. -/
def longestRun (used : List (Nat × Nat)) (n : Nat) : Nat :=
  ((List.range (n + 1)).reverse.find? fun k => (freeUnits (used.filter (·.2 != 0)) n k).isSome).getD 0

/-- Units of an energy class (R70). -/
def energyUnits (c : Nat) : Nat := 2 ^ c

/-- Units resident on a course: its waves and control threads, and the matrix-node batches taken there. -/
def State.courseEnergy (s : State) (c : Nat) : Nat :=
  sumBy (fun (w : Wave) =>
      if courseOf w.ashlar != c || w.stat == .saved then 0
      else if w.stat == .restoring then energyUnits (((s.node? w.run w.node).map (·.energy)).getD w.energy)
      else energyUnits w.energy) s.waves
    + sumBy (fun a => sumBy (fun (b : Batch) => energyUnits (((s.node? b.run b.node).map (·.energy)).getD 0)) (s.ashlar a).mlp)
        ((List.range 8).map fun i => 8 * c + i)

/-- Waves of a node in flight on the device, open bins included. -/
def State.inFlight (s : State) (run n : Nat) : Nat :=
  (s.waves.filter fun w => w.run == run && w.node == n).length
    + sumBy (fun a => (a.openBins.filter fun b => b.run == run && b.node == n).length) s.ashlars

/-! ### The placement steps (R68) -/

/-- Marks of what an ashlar is reserved for: the head wave of one class of an instance of a run, a saved wave, the group of a
retired ashlar. -/
def instToken (run i : Nat) (cls : Option Nat × Option Nat) : Nat :=
  3 * ((run * 65536 + i) * 65536 + (match cls.1 with | some a => a + 1 | none => 0) * 256 + match cls.2 with | some c => c + 1 | none => 0)
def waveToken (id : Nat) : Nat := 3 * id + 1
def groupToken (a : Nat) : Nat := 3 * a + 2

/-- What is to be placed. -/
structure Want where
  run : Nat
  n : Nat
  node : Node
  die : Nat
  token : Nat                          -- of R60's reservation
  course : Option Nat := none          -- course-bound records (R275)
  wave : Option Wave := none           -- a saved wave to be restored

/-- Whether a node runs as control threads. -/
def Node.isControl (n : Node) : Bool := n.kind == 1

/-- The residency of a node on an ashlar. -/
def State.residency? (s : State) (a run n : Nat) : Option Residency :=
  (s.ashlar a).residents.find? fun r => r.run == run && r.node == n

/-- Whether placing the wave makes its node resident with a prologue to run. -/
def State.needsPrologue (s : State) (q : Want) (a : Nat) : Bool :=
  q.node.prologue != 0 && (s.residency? a q.run q.n).isNone && !q.node.isControl

/-- Whether an ashlar belongs to a saved wave that must return to it, or to a group held for it (R291, R362). -/
def State.awaited (s : State) (a : Nat) (own : Option Wave) : Bool :=
  s.waves.any fun w => w.stat == .saved && w.savedAt == some a && w.saveFor == 3 && (own.map (·.saveFor)) != some 3

/-- The steps of R68 that fail for a wave on an ashlar, 1 to 9. A node that becomes resident there needs room for
its prologue wave too. -/
def State.failedSteps (s : State) (q : Want) (a : Nat) : List Nat :=
  let x := s.ashlar a
  let c := s.course (courseOf a)
  let nd := q.node
  let k := if s.needsPrologue q a then 2 else 1
  let resident := (s.residency? a q.run q.n).isSome
  let held := match x.reservedFor with | some t => t != q.token | none => false
  let gated := (s.gate (dieOf a) 1).gated || (s.gate (dieOf a) 2).gated || (s.gate (dieOf a) 1).busy || (s.gate (dieOf a) 2).busy
  let pscr := nd.pscr
  let sscr := if resident then 0 else nd.sscr
  let granulesOk :=
    match Ashlar.places x.usedGranules x.granules q.wave pscr sscr with
    | none => false
    | some (c, d) => k == 1 || (freeUnits (((c, pscr) :: (d, sscr) :: x.usedGranules).filter (·.2 != 0)) x.granules pscr).isSome
  let fails := [
    s.dieHeld (dieOf a) || x.retired || held || gated || s.awaited a q.wave
      || (match q.course with | some c => courseOf a != c | none => false),
    if nd.isControl then decide (4 ≤ s.threads a) else decide (32 < s.contexts a + k),
    decide (524288 < s.regsUsed a + k * regBytes nd.width nd.regs),
    !granulesOk,
    nd.split != 0 && (nd.split != x.split || (match x.splitNext with | some n => n != nd.split | none => false)),
    (nd.l1mode != 0 && (nd.l1mode == 2) != c.fused) || c.l1next.isSome,
    nd.matrix && (match x.array.bound with | some b => b != (q.run, q.n) | none => false),
    decide (c.budget < s.courseEnergy (courseOf a) + k * energyUnits nd.energy),
    q.wave.isNone && nd.maxwaves != 0 && decide (nd.maxwaves ≤ s.inFlight q.run q.n)]
  (List.range 9).filterMap fun i => if fails.getD i false then some (i + 1) else none

/-- Waves resident on an ashlar, control threads aside. -/
def State.load (s : State) (a : Nat) : Nat := ((s.residentOn a).filter fun w => !w.isThread).length

/-- Ashlars of a die. -/
def dieAshlars (d : Nat) : List Nat := (List.range 64).map (64 * d + ·)

/-- The ashlar on which a wave is placed: one that passes, where the node is resident, else the one with the
fewest resident waves, the lowest on a tie; a wave bound to its ashlar goes there only. -/
def State.pickAshlar (s : State) (q : Want) (only : Option Nat) : Option Nat :=
  let ok := (dieAshlars q.die).filter fun a =>
    (match only with | some o => o == a | none => true) && (s.failedSteps q a).isEmpty
  match ok.find? fun a => (s.residency? a q.run q.n).isSome with
  | some a => some a
  | none => argMin s.load ok

/-! ### Starting a wave -/

/-- The node's constant and buffer-record tables as 64 doublewords each, as they stood at the launch (R35, R99), or the
address at which a read of them fails (TABLEFAULT). -/
def State.tables (s : State) (run d slot : Nat) (n : Node) : Nat ⊕ (List DWord × List DWord) :=
  let u := dieTlb d
  let bad := fun (va len : Nat) => (lineStarts va len).find? fun a =>
    (s.pathFault u slot a 1 { read := true }).isSome || !s.cleanVa u slot a 1
  let words := fun (va k : Nat) => (List.range 64).map fun i =>
    if i < k then BitVec.ofNat 64 (ofBytes (s.readCode run u slot (va + 8 * i) 8)) else 0
  match bad n.ktab (8 * n.kcount), bad n.buftab (32 * n.bcount) with
  | some a, _ => .inl (max a n.ktab)
  | none, some a => .inl (max a n.buftab)
  | none, none => .inr (words n.ktab n.kcount, words n.buftab (4 * n.bcount))

/-- The scheduler's reads of a node's tables: the pages accessed (R84), the packets sent (R21). -/
def State.touchTables (s : State) (d slot : Nat) (n : Node) : State :=
  (s.unitTouch (dieSrc d) (dieTlb d) slot n.ktab (8 * n.kcount) false).unitTouch (dieSrc d) (dieTlb d) slot n.buftab (32 * n.bcount) false

/-- A lane at a program counter with register values. -/
def startLane (active : Bool) (pc regs : Nat) (v : List Word) (since : Nat := 0) : Lane :=
  { stat := if active then .run else .inactive, pc := pc, since := since
    v := (v ++ List.replicate (regs - v.length) 0).take regs }

/-- Scalars of a control thread: s0 = 1, s1, then the record's doublewords (R34). -/
def threadScalars (seqno : DWord) (rec_ : List Byte) : List DWord :=
  (List.range 64).map fun i =>
    if i = 0 then 1 else if i = 1 then seqno
    else BitVec.ofNat 64 (ofBytes ((rec_.drop (8 * (i - 2))).take 8))

/-- A wave or control thread of a node at its start (Table 2-4, R34); pc is ENTRY, PROLOGUE or a bin's. -/
def startWave (id run slot n : Nat) (nd : Node) (a : Nat) (seqno : DWord) (pc : Nat) (recs : List (List Byte))
    (lanes : Nat) (k b : List DWord) (now : Nat) : Wave where
  id := id
  run := run
  slot := slot
  node := n
  die := dieOf a
  ashlar := a
  width := nd.width
  regs := nd.regs
  div := nd.div
  matrix := nd.matrix
  reccount := if nd.isControl then 1 else recs.length
  seqno := seqno
  lanes :=
    if nd.isControl then [startLane true pc 0 []]
    else (List.range nd.width).map fun i => startLane (decide (i < lanes)) pc nd.regs (wordsOf (recs.getD i []))
  s :=
    if nd.isControl then threadScalars seqno (recs.getD 0 [])
    else (List.range 64).map fun i => if i = 0 then BitVec.ofNat 64 recs.length else if i = 1 then seqno else 0
  k := k
  b := b
  j := List.replicate 8 0
  sb := List.replicate 6 0
  q := List.replicate 16 []
  cm := List.replicate 4 {}
  trapen := BitVec.ofNat 64 nd.trapen &&& trapenMask
  trapvec := BitVec.ofNat 64 nd.trappc &&& trapvecMask
  energy := nd.energy
  scrSize := 4096 * nd.pscr
  shSize := 4096 * nd.sscr
  placedAt := now

/-- Entry to retention takes 2 µs and so does its exit (R305), in ps. -/
def retentionPs : Nat := 2000000

/-- An ashlar on which something is placed leaves retention: after its entry, if that is still under way, and 2 µs (R305). -/
def Ashlar.leave (x : Ashlar) (now : Nat) : Ashlar :=
  match x.retained with
  | some t => { x with retained := none, wakes := max now (t + retentionPs) + retentionPs }
  | none => x

/-- Gives a wave a zero-filled private region at a granule and the node's shared region, and adds it. -/
def State.takeOn (s : State) (w : Wave) (granule shared : Nat) : State :=
  let w1 := { w with scrBase := 4096 * granule, shBase := 4096 * shared }
  let s1 := s.modAshlar w.ashlar fun (x : Ashlar) => { x with
    regions := if w.scrSize = 0 then x.regions else x.regions ++ [(w.id, granule, w.scrSize / 4096)]
    scratch := x.scratch.clear (4096 * granule) w.scrSize }
  { s1.modAshlar w.ashlar (·.leave s.now) with waves := s1.waves ++ [w1] }

/-- Makes a node resident on an ashlar: its shared region, zero-filled, and the array of a MATRIX node (R36, R69). -/
def State.makeResident (s : State) (a run n : Nat) (nd : Node) (base : Nat) (ready : Bool) : State :=
  s.modAshlar a fun (x : Ashlar) => { x with
    residents := x.residents ++ [{ run := run, node := n, ready := ready, base := base, granules := nd.sscr, matrix := nd.matrix }]
    scratch := x.scratch.clear (4096 * base) (4096 * nd.sscr)
    array := if nd.matrix then { x.array with bound := some (run, n) } else x.array }

/-! ### REFORM -/

/-- Slots a filed lane carries on its wave's reservations: at most EMITS on each edge (R44). -/
def carrySlots (n : Node) (l : List Resv) : List Resv × List Resv :=
  l.foldl (fun (acc : List Resv × List Resv) r =>
    let had := sumBy (fun (x : Resv) => if x.edge == r.edge then x.left else 0) acc.2
    let k := min r.left ((n.edge r.edge).emits - had)
    (acc.1 ++ [{ r with left := r.left - k }], if k = 0 then acc.2 else acc.2 ++ [{ r with left := k }])) ([], [])

/-- Records that a mesh group of a lane is closed (R266). -/
def State.closeGroup (s : State) (w : Wave) (lane : Nat) : State :=
  match w.groups.find? (·.1 == lane) with
  | some g => s.modRun w.run fun r => { r with closedGroups := nub (r.closedGroups ++ [(w.node, g.2)]) }
  | none => s

/-- closeGroup for the lanes of a mask. -/
def State.closeGroups (s : State) (w : Wave) (m : Mask) : State :=
  (lanesOf m).foldl (fun (s : State) l => s.closeGroup w l) s

/-- What a lane takes into a bin: its registers and predicates, and its history (R42, R109). -/
def State.filed (s : State) (w : Wave) (lane : Nat) : FiledLane :=
  let n := w.lane lane
  { v := n.v, p := n.p
    past := ((s.reqs.filter fun r => r.wave == w.id && laneBit r.lanes lane).map (·.id))
      ++ ((w.past.filter fun p => laneBit p.2 lane).map (·.1))
    hold := (w.hold.filter fun h => laneBit h.lanes lane && !s.isDone (h.on, h.of)).map fun h => (h.path, h.on, h.of)
    rel := (w.relFences.filter fun f => laneBit f.1 lane).map (·.2) }

/-- Files one lane into the bin of its key, opening one where none has room (R42); none where the lane must
wait. -/
def State.fileLane (s : State) (id lane pc : Nat) : Option State :=
  match s.wave? id with
  | none => none
  | some w =>
    match s.node? w.run w.node with
    | none => none
    | some nd =>
      let x := s.ashlar w.ashlar
      let mine := fun (b : Option Bin) => match b with
        | some b => b.run == w.run && b.node == w.node && b.pc == pc && decide (b.lanes.length < b.width)
        | none => false
      let (left, carried) := carrySlots nd w.resv
      let enter := fun (b : Bin) => some { b with
        lanes := b.lanes ++ [s.filed w lane], resv := carried.foldl (fun l r => addSlots r.edge r.die r.left l) b.resv }
      let slot : Option (Nat × Bin) :=
        match (List.range 64).find? fun i => mine (x.bins.getD i none) with
        | some i => (x.bins.getD i none).map fun b => (i, b)
        | none =>
          match (List.range 64).find? fun i => (x.bins.getD i none).isNone with
          | some i =>
            if decide (32 ≤ s.contexts w.ashlar) || decide (524288 < s.regsUsed w.ashlar + regBytes w.width w.regs) then none
            else some (i, { run := w.run, slot := w.slot, node := w.node, pc := pc, width := w.width, regs := w.regs, since := s.now })
          | none => none
      match slot with
      | none => none
      | some (i, b) =>
        let s1 := (s.modAshlar w.ashlar fun (x : Ashlar) => { x with bins := x.bins.set i (enter b) }).count w.ashlar 17 1 w.slot
        some ((s1.modWave id fun w => { w.modLane lane fun n => { n with stat := .filed, also := [], v := n.v.map fun _ => 0 } with resv := left }).closeGroup w lane)

/-- Files the lanes of a wave parked at a REFORM, in lane order, once its scoreboards are zero (R42); lanes that find no bin stay, and
try again once a bin has closed. A position filed reads as zero afterwards (R204). -/
def State.fileLanes (s : State) (id : Nat) : State :=
  match s.wave? id with
  | none => s
  | some w =>
    let waits := w.lanes.any fun n => match n.stat with | .parked (.reform _) => true | _ => false
    if !w.refiles || !waits || w.sb.any (· != 0) || w.stat != .resident then s
    else
      ((List.range w.lanesN).foldl (fun (acc : State × Bool) l =>
        if acc.2 then acc
        else match (w.lane l).stat with
          | .parked (.reform pc) => match acc.1.fileLane id l pc with
            | some t => (t, false)
            | none => (acc.1, true)
          | _ => acc) (s.modWave id fun w => { w with refiles := false }, false)).1

end Sys2Proof.Machine
end

