-- ==== Sys2Proof/Machine/Clause.lean ====
section
/-! DEFINITION. The life of a clause: subgroups and their choice (spec 02_graphs.md R37, R38), the clause checks
(17_isa_faults.md R324), runnability (07_encoding.md R153, R154; 11_isa_engines.md R228, R243, R247), the words in
order (R152) and what takes effect at the end (R149, R150). -/

namespace Sys2Proof.Machine

/-! ### Words by class -/

/-- Engine class of a primary (Tables 7-5 to 7-9); none where it belongs to every class (R324). -/
def engineClass (opc : Nat) : Option Nat :=
  if opc ≤ 0x2F then some 1
  else if opc ≤ 0x4C then some 2
  else if opc ≤ 0x4E then some 4
  else if opc = 0x4F then none
  else if opc ≤ 0x55 then some 0
  else if opc = 0x5C then some 3
  else if opc = 0x60 then some 4
  else if opc = 0x64 ∨ opc = 0x65 then some 5
  else if 0x68 ≤ opc ∧ opc ≤ 0x6F then some 6
  else if opc = 0x70 ∨ opc = 0x71 then some 5
  else if opc = 0x72 ∨ opc = 0x73 then some 0
  else if opc = 0x74 ∨ opc = 0x75 then some 6
  else if opc = 0x76 then some 1
  else none

/-- Words that the transfer-position row of Table 17-1 names: the primary and sub-operation alone decide. -/
def isTransfer (w : Nat) : Bool :=
  let opc := w / 2 ^ 25 % 128
  let sub4 := w / 2 ^ 21 % 16
  let sub5 := w / 2 ^ 20 % 32
  opc == 0x68 || opc == 0x69 || opc == 0x6A || opc == 0x74 || (opc == 0x6B && decide (sub4 ≤ 3))
    || (opc == 0x6C && sub4 == 1) || (opc == 0x6D && sub4 == 1) || (opc == 0x6E && decide (sub5 ≤ 1))
    || (opc == 0x75 && decide (sub5 ≤ 2))

/-- The variable-latency instructions (R153). -/
def isVariable : Instr → Bool
  | .rcp .. | .rsq .. | .sqrt .. | .exp2 .. | .log2 .. | .sin .. | .cos .. | .tanh .. => true
  | .ldb .. | .ldsb .. | .ldh .. | .ldsh .. | .ldw .. | .ldw2 .. | .ldw4 .. => true
  | .stb .. | .sth .. | .stw .. | .stw2 .. | .stw4 .. => true
  | .aadd .. | .aimin .. | .aimax .. | .aumin .. | .aumax .. | .aand .. | .aor .. | .axor .. => true
  | .axch .. | .acas .. | .afadd .. | .aor8w .. | .sld .. | .sst .. | .monitor .. | .mwait .. => true
  | .otake .. | .oenter .. | .oleave .. | .otry .. | .obase .. | .oclose .. => true
  | .bwait .. | .bsync .. | .btest .. | .sldw .. | .sldd .. | .sstw .. | .sstd .. | .sldwa .. | .sstdr .. => true
  | .sdiv .. | .sdivu .. | .srem .. | .sremu .. | .mdrain .. | .cpwait .. | .qrsv .. | .qleft .. => true
  | .gstatus .. | .vfpop .. | .qpop .. | .qpeek .. => true
  | _ => false

/-! ### Headers -/

/-- The fields of a header word (Table 7-1). -/
def headerOf (w : Word) : Header :=
  let x := w.toNat
  { n := bits x 24 21, ec := bits x 20 18, wait := bits x 17 12, sb := bits x 11 9, vt := bits x 8 6, rm := bits x 5 4
    fz := x / 8 % 2 == 1, y := x / 4 % 2 == 1, d := x / 2 % 2 == 1 }

/-- The header checks of Table 17-1. -/
def headerOk (w : Word) : Bool :=
  let h := headerOf w
  w.toNat / 2 ^ 25 == 0x7F && h.n != 0 && decide (h.sb ≤ 5) && decide (h.vt ≤ 2) && w.toNat % 2 == 0

/-- Whether a word at an index of a clause passes the word-class and transfer-position checks. -/
def wordOk (h : Header) (i : Nat) (w : Word) : Bool :=
  (h.ec == 7 || match engineClass (w.toNat / 2 ^ 25) with | some c => c == h.ec | none => true)
    && (!isTransfer w.toNat || i + 1 == h.n)

/-- The lowest index of an offending word (R324). -/
def firstBad (h : Header) (ws : List Word) : Option Nat :=
  (List.range ws.length).find? fun i => !wordOk h i (ws.getD i 0)

/-- What stands at a clause start. -/
inductive Head where
  | noFetch (cls code addr : Nat)           -- the fetch fails
  | bad (index : Nat) (raw word0 : Word)    -- ILLEGAL CLAUSE
  | ok (raw : Word) (ws : List Word)
  deriving DecidableEq, Repr

/-- Words from an address, or the class, code and address of the first that cannot be fetched. -/
def State.fetchWords (s : State) (w : Wave) (va : Nat) : Nat → (Nat × Nat × Nat) ⊕ List Word
  | 0 => .inr []
  | n + 1 =>
    match s.fetch w va with
    | .inl c => .inl (c.1, c.2, va)
    | .inr x => match State.fetchWords s w (va + 4) n with
      | .inl e => .inl e
      | .inr xs => .inr (x :: xs)

/-- A subgroup: lanes with one program counter and one word to issue again (R37, R320). -/
structure Sub where
  pc : Nat
  idx : Nat
  retry : Option (Nat × Nat × Word)
  lanes : Mask
  deriving DecidableEq, Repr

/-- The clause and index a subgroup issues next. -/
def Sub.at_ (g : Sub) : Nat × Nat := match g.retry with | some (pc, i, _) => (pc, i) | none => (g.pc, g.idx)

/-- What a subgroup finds at its clause; a word issued again is under the header it had. -/
def State.headAt (s : State) (w : Wave) (g : Sub) : Head :=
  let pc := g.at_.1
  let raw : (Nat × Nat) ⊕ Word := match g.retry with | some (_, _, h) => .inr h | none => s.fetch w pc
  match raw with
  | .inl c => .noFetch c.1 c.2 pc
  | .inr raw =>
    let word0 := match s.fetch w (pc + 4) with | .inr x => x | .inl _ => 0
    if !headerOk raw then .bad 0 raw word0
    else match s.fetchWords w (pc + 4) (headerOf raw).n with
      | .inl (c, code, va) => .noFetch c code va
      | .inr ws => match firstBad (headerOf raw) ws with
        | some i => .bad i raw word0
        | none => .ok raw ws

/-! ### Subgroups -/

/-- Adds a lane to the subgroup of its key. -/
def addLane (l : Nat) (n : Lane) : List Sub → List Sub
  | [] => [⟨n.pc, n.idx, n.retry, oneLane l⟩]
  | g :: gs =>
    if g.pc == n.pc && g.idx == n.idx && g.retry == n.retry then { g with lanes := g.lanes ||| oneLane l } :: gs
    else g :: addLane l n gs

/-- The subgroups of a wave (R37): its running lanes by program counter. -/
def Wave.subgroups (w : Wave) : List Sub :=
  (List.range w.lanesN).foldl (fun gs l =>
    let n := w.lane l
    if n.stat == .run then addLane l n gs else gs) []

/-- Whether a lane is parked for an OENTER. -/
def Lane.atEnter (n : Lane) (o : Nat) : Bool := match n.stat with | .parked (.oenter k) => k == o | _ => false

/-- Whether scoreboard n counts nothing but OENTERs whose lanes are parked for them (R117). -/
def Wave.sbClear (w : Wave) (n : Nat) : Bool :=
  w.sb.getD n 0 == 0
    || (w.ops.filter (·.sb == n)).all fun o => o.isEnter && (lanesOf o.lanes).all fun l => (w.lane l).atEnter o.id

/-- Whether the scoreboards named by a mask are clear. -/
def Wave.sbsClear (w : Wave) (mask : Nat) : Bool :=
  (List.range 6).all fun n => mask / 2 ^ n % 2 == 0 || w.sbClear n

/-- Parks the lanes whose ungranted OENTER counts on a scoreboard that their next clause's WAIT names (R117). -/
def State.parkEnters (s : State) (w : Wave) : Wave :=
  let es := w.ops.filter Op.isEnter
  if es.isEmpty then w
  else
    w.subgroups.foldl (fun (w : Wave) g =>
      match s.headAt w g with
      | .ok raw _ =>
        es.foldl (fun (w : Wave) o =>
          if (headerOf raw).wait / 2 ^ o.sb % 2 == 1 then
            w.modLanes (o.lanes &&& g.lanes) fun n => { n with stat := .parked (.oenter o.id) }
          else w) w
      | _ => w) w

/-! ### Runnability -/

/-- Commands of an ashlar's matrix queue that the array has not taken up (R228). -/
def State.matQueue (s : State) (a : Nat) : Nat :=
  (s.reqs.filter fun r => r.ashlar == a && match r.body with
    | .matrix _ _ => !(s.ashlar a).array.streams.any (·.req == r.id)
    | _ => false).length

/-- Whether a request is an arrival on a barrier object or a contribution to a reduction, which the copy engine carries (R228). -/
def ReqBody.carried : ReqBody → Bool
  | .barrier (.arrive ..) .. | .barrier .sync .. | .barrier (.remote _) .. | .reduce (.contrib _) .. => true
  | _ => false

/-- Whether a request stands in the copy queue of its ashlar (R228). -/
def ReqBody.inCopyQueue (b : ReqBody) : Bool := b.carried || match b with | .copy c => c.queued | _ => false

/-- Commands of an ashlar's copy queue (R228). -/
def State.copyQueue (s : State) (a : Nat) : Nat := (s.reqs.filter fun r => r.ashlar == a && r.body.inCopyQueue).length

/-- Room for every word of a clause, whatever its predicate (R153, R154, R228, R243, R247). FIFO entries saved with the wave that
have not re-entered go before its next ones (R253). -/
def State.room (s : State) (w : Wave) (h : Header) (ws : List Word) : Bool :=
  let is := ws.filterMap fun x => (decode x).toOption
  let count := fun (p : Instr → Bool) => (is.filter p).length
  let pushes := count fun i => match i with | .vfpush .. => true | _ => false
  let mats := count fun i => match i with | .mldw .. | .mswap .. | .mstream .. => true | _ => false
  let copies := count fun i => match i with
    | .cpload .. | .cploadm .. | .cpstore .. | .cpgath .. | .cpscat .. => true | _ => false
  let arrivals := count fun i => match i with | .barrive .. | .bsync .. | .brarrive .. | .rcontrib .. => true | _ => false
  let closes := count fun i => match i with | .cpcommit .. | .cpwait .. => true | _ => false
  let rows := fun (q : Nat) => count fun i => match i with | .qpush _ n _ => n.toNat == q | _ => false
  decide (w.sb.getD h.sb 0 + count isVariable ≤ 255)
    && (pushes == 0 || (w.savedFifo.isEmpty && decide (pushes ≤ s.vffree w.ashlar)))
    && (mats == 0 || decide (s.matQueue w.ashlar + mats ≤ 16))
    && (copies + arrivals == 0 || decide (s.copyQueue w.ashlar + copies + arrivals ≤ 16))
    && (closes == 0 || decide ((w.batches.filter s.batchLive).length + min closes (copies + if w.batchOpen.isEmpty then 0 else 1) ≤ 15))
    && (List.range 16).all fun q => rows q == 0 || decide ((w.rows q).length + rows q ≤ 4)

/-- Whether a subgroup is runnable (R38): a clause that fails its checks or its fetch always is. -/
def State.subRunnable (s : State) (w : Wave) (g : Sub) : Bool :=
  match s.headAt w g with
  | .ok raw ws => w.sbsClear (headerOf raw).wait && s.room w (headerOf raw) ws
  | _ => true

/-- What a lane is parked for, in the order of its words. -/
def Lane.parks (n : Lane) : List Park := match n.stat with | .parked p => p :: n.also | _ => []

/-- Whether a lane waits at a REFORM, or will once what else parks it has ended (R42). -/
def Lane.atReform (n : Lane) : Bool := n.parks.any fun p => match p with | .reform _ => true | _ => false

/-- A lane once some of what parks it has ended: it goes on where nothing parks it any more. -/
def Lane.free (n : Lane) (ends : Park → Bool) (clauses : Nat) : Lane :=
  match n.stat with
  | .parked p => match (p :: n.also).filter (!ends ·) with
    | [] => { n with stat := .run, also := [], since := clauses, waited := 0 }
    | q :: qs => { n with stat := .parked q, also := qs, waited := if ends p then 0 else n.waited }
  | _ => n

/-- Whether a wave may issue at all: resident (a save asked for waits its turn), at a boundary, nothing of its last
clause pending, not parked as a whole by a D bit or a BRKPT (R154, R166), not at a REFORM, its run not cancelled (R49), its
ashlar out of retention (R305), and its course and die neither parked nor switching clocks (R303). -/
def State.mayIssue (s : State) (w : Wave) : Bool :=
  (w.stat == .resident || w.stat == .saveAsked) && w.clause.isNone && w.ssets.isEmpty && !w.drains && !w.broke
    && !s.dieHeld w.die && !(s.ashlar w.ashlar).retired && decide ((s.ashlar w.ashlar).wakes ≤ s.now)
    && !((s.run? w.run).map (·.cancelling)).getD false && (s.course (courseOf w.ashlar)).vf != .switching
    && w.lanes.all fun n => !n.atReform

/-- Runnable subgroups of a wave that may issue. -/
def State.runnables (s : State) (w : Wave) : List Sub :=
  if s.mayIssue w then w.subgroups.filter (s.subRunnable w) else []

/-- Order of program counters. -/
def Sub.key (g : Sub) : Nat := g.at_.1 * 16 + g.at_.2

/-- Clause count at which a subgroup falls due (R38): the least of its lanes'. -/
def Wave.deadline (w : Wave) (g : Sub) : Nat :=
  ((argMin (fun (n : Nat) => n) ((lanesOf g.lanes).map fun l => (w.lane l).since)).getD 0) + 64

/-- The subgroup that issues next (R38). -/
def State.choose (s : State) (w : Wave) : Option Sub :=
  let gs := s.runnables w
  match argMin Sub.key gs with
  | none => none
  | some l =>
    let now := w.clauses + 1
    let others := gs.filter (· != l)
    if (List.range 64).any fun k => decide (k + 1 ≤ (others.filter fun g => decide (w.deadline g ≤ now + k)).length) then
      argMin (fun g => w.deadline g * 2 ^ 80 + g.key) gs
    else some l

/-- Parks running lanes of a mask. -/
def Wave.park (w : Wave) (m : Mask) (why : Park) : Wave :=
  w.modLanes m fun n => if n.stat == .run then { n with stat := .parked why } else n

/-- A lane parked at the end of its clause: for each of the words that park it (R149, R166), a fault apart. -/
def Lane.parkAlso (n : Lane) (why : Park) : Lane :=
  match n.stat with
  | .run => { n with stat := .parked why }
  | .parked p => if p == .fault then n else { n with also := n.also ++ [why] }
  | _ => n

/-- Parks lanes at the end of their clause. -/
def Wave.parkEnd (w : Wave) (m : Mask) (why : Park) : Wave := w.modLanes m fun n => n.parkAlso why

/-- Whether a clause of a wave takes a vector pipe of its ashlar, and whether it takes the scalar stream (R74). -/
def Wave.takesPipe (w : Wave) (ec : Nat) : Bool := !(w.isThread || ec == 0)
def Wave.takesScalar (w : Wave) (ec : Nat) : Bool := w.isThread || ec == 0 || ec == 7

/-- Whether the units that a clause of a wave needs are free: of an ashlar's four vector pipes and its scalar stream, a clause in
execution holds its own until its last word (R74). -/
def State.unitsFree (s : State) (w : Wave) (ec : Nat) : Bool :=
  let busy := fun (takes : Wave → Nat → Bool) => (s.waves.filter fun v => v.ashlar == w.ashlar && match v.clause with
    | some c => takes v c.hdr.ec
    | none => false).length
  (!w.takesPipe ec || decide (busy Wave.takesPipe < 4)) && (!w.takesScalar ec || decide (busy Wave.takesScalar < 1))

/-- Whether the chosen subgroup of a wave waits for a unit. -/
def State.unitWaits (s : State) (w : Wave) (g : Sub) : Bool :=
  match s.headAt w g with
  | .ok raw _ => !s.unitsFree w (headerOf raw).ec
  | _ => false

/-! ### Waking and ending -/

/-- Whether the scoreboards count nothing but OENTERs not granted, whose lanes a D bit parks (R117, R154). -/
def Wave.drained (w : Wave) : Bool :=
  (List.range 6).all fun n => w.sb.getD n 0 == 0
    || (w.ops.filter (·.sb == n)).all fun o => o.isEnter && o.done &&& o.lanes == 0

/-- Makes parked lanes run again where what they wait for on scoreboards has ended. At the end of a D drain, lanes whose OENTER is
not granted stay parked for it (R117). -/
def Wave.wake (w : Wave) : Wave :=
  let ended := w.drains && w.drained
  let w1 := { w with
    drains := w.drains && !ended
    lanes := w.lanes.map fun n => n.free (fun p => match p with
      | .drain => ended
      | .sbwait m => w.sbsClear m
      | _ => false) w.clauses }
  if ended then (w.ops.filter Op.isEnter).foldl (fun (w : Wave) o => w.park o.lanes (.oenter o.id)) w1 else w1

/-- Whether a wave has a lane that is neither inactive, exited nor filed. -/
def Wave.active (w : Wave) : Bool := w.lanes.any fun n => !(n.gone || n.stat == .inactive)

/-- A wave whose active lanes have all gone drains (R45); records its rings cannot hold are discarded (R231). -/
def State.checkDrain (s : State) (id : Nat) : State :=
  match s.wave? id with
  | none => s
  | some w =>
    if w.active || (w.stat != .resident && w.stat != .saveAsked) || w.clause.isSome then s
    else
      let s1 := s.modWave id fun w => { w with stat := .draining, saveFor := 0 }
      (List.range 4).foldl (fun (s : State) m => s.ringGo id m (w.cm.getD m {}).held.length) s1

/-- Where a parked or running lane resumes when a late fault is taken (R312): its program counter, which is the word it has to
issue again where it has one. -/
def Lane.lateResume (n : Lane) : Nat × Nat :=
  let wait := n.parks.findSome? fun p => match p with | .join pc | .rejoin _ pc => some pc | _ => none
  match wait, n.retry with
  | some pc, _ => (pc, 0)
  | none, some (pc, i, _) => (pc, i)
  | none, none => (n.pc, n.idx)

/-- Whether a lane may take its late fault now. -/
def Lane.takes (n : Lane) : Bool := n.late.isSome && n.fault.isNone && n.stat != .parked .fault

/-- The set of a wave that a lane's late fault joins while it waits to be routed: that of other lanes of its instruction at its
resume point (DEDUCED, log entry 21). -/
def Wave.openSet (w : Wave) (f : FaultRec) (resume : Nat × Nat) : Option Nat :=
  if f.op = 0 then none
  else w.lanes.findSome? fun n => match n.fault with
    | some g => if g.late && g.op == f.op && (g.resumePc, g.resumeIdx) == resume then some g.set else none
    | none => none

/-- Takes the late faults of a wave at a boundary (R312): lanes of one instruction and one resume point form a
set. -/
def State.takeLate (s : State) (id : Nat) : State :=
  match s.wave? id with
  | none => s
  | some w =>
    let key := fun (n : Lane) => ((n.late.map fun f => (f.op, if f.op = 0 then f.set else 0)).getD (0, 0), n.lateResume)
    let keys := nub ((w.lanes.filter Lane.takes).map key)
    if keys.isEmpty || w.clause.isSome then s
    else
      let w1 := { w with lanes := w.lanes.map fun n =>
        match n.late with
        | some f =>
          if n.takes then
            { n with late := none, waited := 0, also := []
                     fault := some { f with set := (w.openSet f n.lateResume).getD (s.nextId + (keys.takeWhile (· != key n)).length)
                                            resumePc := n.lateResume.1, resumeIdx := n.lateResume.2 }
                     stat := if n.gone then n.stat else .parked .fault }
          else n
        | none => n }
      { s.setWave w1 with nextId := s.nextId + keys.length }

/-- Everything a boundary of a wave decides once its lanes have moved: late faults, reconvergence, filing and
draining. -/
def State.boundary (s : State) (id : Nat) : State :=
  let s1 := (s.takeLate id).modWave id fun w => w.reconverge.wake
  ((s1.fileLanes id).modWave id Wave.reconverge).checkDrain id

/-! ### Trap returns (R320) -/

/-- A lane's program counter at a clause and index: an index at or beyond N is the next sequential clause. -/
def State.normal (s : State) (w : Wave) (pc idx : Nat) : Nat × Nat :=
  match s.fetch w pc with
  | .inr raw => if headerOk raw && decide ((headerOf raw).n ≤ idx) then (nextClause pc (headerOf raw).n, 0) else (pc, idx)
  | .inl _ => (pc, idx)

/-- TRET at the end of its clause: the lanes' registers come back from the frame in scratch, and they leave
handler state. -/
def State.trapReturnEnd (s : State) (w : Wave) (m : Mask) (kind : Nat) : Wave :=
  let fr := s.scratchRead w w.trapframe 2304
  let d := fun off => field fr off 8
  let pc := d 0x08 / 16 * 16
  let resume := s.normal w (d 0x38 / 16 * 16 % 2 ^ 64) (d 0x38 % 16)
  let q := if kind = 0 then m else if kind = 1 then 0 else m &&& ~~~w.lastMask
  let w1 := { w with s := w.s.mapIdx fun i x => if i < 8 then BitVec.ofNat 64 (d (0x40 + 8 * i)) else x }
  { w1 with lanes := w1.lanes.mapIdx fun l n =>
      if laneBit m l then
        let p : BitVec 8 := (List.range 7).foldl (fun p k => putBit p (k + 1) (d (0x80 + 8 * k) / 2 ^ l % 2 == 1)) n.p
        let v := n.v.mapIdx fun r x =>
          if w.regs - 8 ≤ r then BitVec.ofNat 32 (field fr (0x100 + 4 * (64 * (r + 8 - w.regs) + l)) 4) else x
        { n with
          v := v
          p := match n.heldP7 with | some b => putBit p 7 b | none => p
          heldP7 := none
          handler := false
          pc := resume.1
          idx := resume.2
          retry := if laneBit q l && headerOk w.frameHdr then some (pc, w.frameIdx, w.frameHdr) else none }
      else n }

/-! ### The end of a clause -/

/-- Moves the lanes of the subgroup on (R149, R150, R180). -/
def Ctx.moveOn (x : Ctx) : Wave :=
  let c := x.c
  let last := !c.only
  { x.w with lanes := x.w.lanes.mapIdx fun l n =>
      if laneBit x.live l then
        let n1 := { n with retry := none, since := x.w.clauses, waited := 0 }
        match c.xfer.find? (·.1 == l) with
        | some (_, t) => { n1 with pc := t, idx := 0 }
        | none => if last then { n1 with pc := x.seqPc, idx := 0 } else n1
      else if laneBit c.out l then
        match n.fault with
        | some f =>
          -- R329: a late fault of an earlier word is the one recorded
          let (pc, idx) := if n.late.isSome then (f.pc, f.index) else (f.resumePc, f.resumeIdx)
          let n1 := { n with retry := none, since := x.w.clauses, waited := 0, pc := pc, idx := idx }
          if n.late.isSome then { n1 with fault := none } else { n1 with stat := .parked .fault }
        | none => n
      else n }

/-- The D bit (R154): the wave parks, all its subgroups, until the scoreboards are zero. -/
def Wave.drain (w : Wave) : Wave := if w.sb.all (· == 0) then w else { w.park (~~~0) .drain with drains := true }

/-- A fault of a clause is routed under the values that stood before an SSET of the clause (R333): an issue fault, and a late
fault of one of its words detected while it is in execution. -/
def Lane.routedBy (pc : Nat) (under : Option (DWord × DWord)) (n : Lane) : Lane :=
  let put := fun (f : FaultRec) => if f.pc == pc && under.isSome then { f with under := under } else f
  { n with fault := n.fault.map put, late := n.late.map put }

/-- A park at the end of a clause: a sleep counts its cycles from there (R166). -/
def Park.from_ (p : Park) (clock : Nat) : Park := match p with | .sleep n => .sleep (clock + n) | _ => p

/-- Whether a park is of the whole wave. -/
def Park.whole : Park → Bool
  | .brkpt _ => true
  | _ => false

/-- Ends the clause in execution (R149, R150, R152): pending results, special registers, the lanes' moves, parks,
exits and the drain. A lane that exits with an OENTER not granted asks no more, but the OENTER counts on its scoreboard on: R117
lets it count until every lane has been granted or parked and does not speak of an exit (DESIGN CHOICE, log entry 70). -/
def Ctx.endClause (x : Ctx) : State :=
  let c := x.c
  let live := x.live
  let w0 := x.w.writes (c.pend.map (·.dst))
  let w1 := c.specials.foldl (fun (w : Wave) p => w.sset p.1 p.2) w0
  let w2 := ({ x with w := w1 }).moveOn
  let w3 := match c.tret with | some k => x.s.trapReturnEnd w2 live k | none => w2
  let w4 := c.parks.foldl (fun (w : Wave) p =>
    if p.2.whole then w.park p.1 p.2 else w.parkEnd p.1 (p.2.from_ (x.s.clock (courseOf x.w.ashlar)))) w3
  let w5 := w4.parkEnd (c.reform &&& live) (.reform x.seqPc)
  let exits := c.exits &&& live
  let under := if w1.trapen == w0.trapen && w1.trapvec == w0.trapvec then none else some (w0.trapen, w0.trapvec)
  let w6 := { (w5.modLanes exits fun n => { n with pc := c.pc }).modLanes (c.out ||| c.lanes) (Lane.routedBy c.pc under) with
    clause := none, yielded := c.yield || c.hdr.y, refiles := w5.refiles || c.reform &&& live != 0, broke := w5.broke || c.parks.any (·.2.whole) }
  let killed := if ((x.s.run? w6.run).map (·.cancelling)).getD false then ~~~exits else 0
  let s1 := (x.s.setWave w6).abandonAll w6.id (exits ||| killed) exits
  let s2 := (s1.closeGroups w6 exits).modWave w6.id fun w =>
    let w7 := w.modLanes exits fun n => { n with stat := .exited, also := [], handler := false, heldP7 := none }
    if c.hdr.d then w7.drain else w7
  { s2.boundary w6.id with cur := none }

/-! ### Words in order -/

/-- The results of earlier words that the word at index i sees (R152). -/
def Ctx.catchUp (x : Ctx) : Ctx :=
  let due := x.c.pend.filter fun p => decide (p.at_ ≤ x.c.index)
  { x with w := x.w.writes (due.map (·.dst)), c := { x.c with pend := x.c.pend.filter fun p => !decide (p.at_ ≤ x.c.index) } }

/-- Counts the issue of a word (R308 events 3 to 5): a clause holds its unit for one cycle a word, a vector pipe unless its
class is S or its issuer a control thread, the scalar stream for those and for class G (R74). -/
def Ctx.countWord (x : Ctx) : State :=
  let scalar := x.w.isThread || x.c.hdr.ec == 0
  ((x.s.count x.w.ashlar 3 1 x.w.slot).count x.w.ashlar 4 (if scalar then 0 else 1) x.w.slot).count x.w.ashlar 5
    (if scalar || x.c.hdr.ec == 7 then 1 else 0) x.w.slot

/-- Makes the word at the clause's index the one in execution. -/
def Ctx.load (x : Ctx) (w : Word) : Ctx :=
  let y := x.catchUp
  { y with s := y.countWord, c := { y.c with word := w } }

/-- After a word: the next index, or the end of the clause when no word or no lane is left (R311). -/
def Ctx.advance (x : Ctx) : State :=
  let next := match x.c.jump with | some j => j | none => x.c.index + 1
  let y := { x with c := { x.c with index := next, jump := none } }
  if x.c.only || decide (x.c.hdr.n ≤ next) || y.live == 0 then y.endClause else y.done

/-! ### The start of a clause -/

/-- Faults found at a clause start: the lanes of the subgroup park (R180, R324). -/
def State.headFault (s : State) (w : Wave) (g : Sub) (f : FaultRec) : State :=
  let w1 := w.modLanes g.lanes fun n =>
    { n with stat := .parked .fault, since := w.clauses, waited := 0, retry := none
             fault := some { f with set := s.nextId, amask := g.lanes } }
  let s1 := { s.setWave w1 with nextId := s.nextId + 1 }
  { s1.boundary w.id with cur := none }

/-- The words of a clause are fetched: their pages are accessed, and the instruction memory holds their lines (R84, R86). -/
def State.fetched (s : State) (w : Wave) (g : Sub) (raw : Word) : State :=
  let n := if headerOk raw then 4 * ((headerOf raw).n + 1) else 4
  (lineStarts g.at_.1 n).foldl (fun (s : State) a => s.imemFill w.ashlar w.slot w.run a)
    ((s.noteMisses w.ashlar w.slot (lineStarts g.at_.1 n)).touchRange w.ashlar w.slot g.at_.1 n false)

/-- A fetch that fails is a late fault of the arriving lanes at the clause start (R180, R309); it has no word to retry, and the
lanes resume at their program counter (R312). -/
def State.fetchFault (s : State) (w : Wave) (g : Sub) (cls code addr : Nat) : State :=
  let s1 := (s.noteMisses w.ashlar w.slot [addr]).touchRange w.ashlar w.slot g.at_.1 (addr - g.at_.1) false
  s1.headFault w g { set := 0, cls := cls, code := pathCode cls code, late := true, pc := g.at_.1, addr := addr
                     resumePc := g.at_.1, resumeIdx := g.at_.2, service := pathService cls code }

/-- ILLEGAL CLAUSE (R317, R324). -/
def State.clauseFault (s : State) (w : Wave) (g : Sub) (index : Nat) (raw word0 : Word) : State :=
  (s.fetched w g raw).headFault w g { set := 0, cls := cIllegalClause, index := index, pc := g.at_.1, header := raw, word := word0
                                      resumePc := g.at_.1, resumeIdx := 0 }

/-- The wave with the clause count advanced, and lanes of subgroups not runnable due no earlier than now. -/
def State.countClause (s : State) (w : Wave) : Wave :=
  let idle := (w.subgroups.filter fun g => !s.subRunnable w g).foldl (fun m g => m ||| g.lanes) (0 : Mask)
  let k := w.clauses + 1
  { (w.modLanes idle fun n => { n with since := k }) with clauses := k, yielded := false }

/-- The wave that issues next is set as the focus, its OENTER lanes parked. -/
def State.focus (s : State) (id : Nat) : State :=
  match s.wave? id with
  | some w => { s.setWave (s.parkEnters w) with cur := some id }
  | none => s

/-- Begins the clause of a subgroup under a header. -/
def State.enterClause (s : State) (w : Wave) (g : Sub) (raw : Word) : State :=
  let h := headerOf raw
  let w1 := s.countClause w
  let w2 := { w1 with lanes := w1.lanes.mapIdx fun l n => if laneBit g.lanes l then { n with since := w1.clauses } else n }
  let c : Clause := { pc := g.at_.1, hdr := h, raw := raw, index := g.at_.2, lanes := g.lanes
                      jump := match g.retry with
                        | some (pc, _, _) => if pc == g.pc then some g.idx else none
                        | none => none
                      only := match g.retry with | some (pc, _, _) => pc != g.pc | none => false }
  let s1 := ((s.fetched w g raw).count w.ashlar 2 1 w.slot).modRun w.run fun r => { r with resident := nub (r.resident ++ [(w.ashlar, w.node)]) }
  let x : Ctx := ⟨s1, w2, c⟩
  if h.n ≤ c.index then x.endClause else x.done

/-- A header of a clause at a boundary of the wave in focus: its chosen subgroup begins the clause, or raises
ILLEGAL CLAUSE, or faults in the fetch of a word (R148, R324). -/
def State.beginClause (s : State) (w : Wave) (g : Sub) (raw : Word) : State :=
  match s.headAt w g with
  | .noFetch c k a => s.fetchFault (s.countClause w) g c k a
  | .bad i _ w0 => s.clauseFault (s.countClause w) g i raw w0
  | .ok _ _ => s.enterClause w g raw

/-- CLAUSE HEADER (R147, R148, R324): begins the clause of the wave in focus; at an instruction index it is an
illegal encoding (R326). -/
def execClauseHeader (n : BX) (e : PR) (w : SR) (s1 v : PR) (r : BitVec 2) (f y d : BitVec 1) (s : State) : Out :=
  match s.ctx? with
  | some x => .next x.illegal.done
  | none =>
    match s.cur.bind s.wave? with
    | none => .refused .noClause
    | some x => match s.choose x with
      | none => .next { s with cur := none }
      | some g =>
        if s.unitWaits x g then .next { s with cur := none }
        else .next (s.beginClause x g (encode (.clauseHeader n e w s1 v r f y d)))

/-! ### Issuing -/

/-- Paths whose earlier fence holds a word as it issues: words that act on a FIFO or a queue register, or read a structure from
scratch, at issue (R102, R108, R110, R247). The spec has the fence hold the access and says no more of the word: here the word
waits to issue (DESIGN CHOICE, log entry 70). -/
def heldPaths : Instr → List Nat
  | .qpush .. => [pathQ, pathL]
  | .qpop .. | .qpeek .. | .vfpush .. | .vfpop .. => [pathQ]
  | .mldw .. | .mstream .. => [pathM]
  | .cpload .. | .cploadm .. | .cpstore .. | .cpgath .. | .cpscat .. => [pathA]
  | _ => []

/-- Whether the next word of a clause waits for a fence that holds it; not in a run that is cancelled, whose clauses only end. -/
def Ctx.wordHeld (x : Ctx) (i : Instr) : Bool :=
  let m := x.act (x.c.word.setWidth 3)
  !((x.s.run? x.w.run).map (·.cancelling)).getD false && x.w.hold.any fun h => (heldPaths i).contains h.path && h.lanes &&& m != 0 && !x.s.isDone (h.on, h.of)

/-- Whether the next word of the clause that a wave has in execution waits: its course switches clocks (R303), or a fence holds it. -/
def State.wordWaits (s : State) (w : Wave) : Bool :=
  match w.clause with
  | none => false
  | some c =>
    (s.course (courseOf w.ashlar)).vf == .switching || match s.fetch w (c.pc + 4 * (c.index + 1)) with
      | .inr word => match decode word with
        | .ok i => ((Ctx.mk { s with cur := some w.id } w c).load word).wordHeld i
        | .error _ => false
      | .inl _ => false

/-- The instruction a wave issues next: the word at its clause's index, or the header of its chosen subgroup's
clause. None where the state answered has already taken what was found instead: nothing to issue, a fetch that
fails, a word that is no instruction (R326), a clause start that is no header (R324); and where the word or the header waits: for
a fence, for the clock switch of its course (R303), for a unit (R74). -/
def State.fetchInstr (s : State) (id : Nat) : State × Option Instr :=
  match s.wave? id with
  | none => (s, none)
  | some w =>
    match w.clause with
    | some c =>
      let x : Ctx := ⟨{ s with cur := some id }, w, c⟩
      let va := c.pc + 4 * (c.index + 1)
      if (s.course (courseOf w.ashlar)).vf == .switching then (s, none)
      else match s.fetch w va with
        | .inl (cls, code) => (({ x with c := { c with word := 0 } }.catchUp.raisePath x.live cls code va true).advance, none)
        | .inr word =>
          let y := x.load word
          match decode word with
          | .ok i => if y.wordHeld i then (s, none) else (y.done, some i)
          | .error _ => (y.illegal.advance, none)
    | none =>
      let s1 := s.focus id
      match s1.wave? id with
      | none => (s1, none)
      | some x => match s1.choose x with
        | none => ({ s1 with cur := none }, none)
        | some g => if s1.unitWaits x g then (s, none) else match s1.headAt x g with
          | .noFetch c k a => (s1.fetchFault (s1.countClause x) g c k a, none)
          | .bad i raw w0 =>
            match decodeTableWord 32 raw.toNat with
            | some (.clauseHeader n e w sb v r f y d) => (s1, some (.clauseHeader n e w sb v r f y d))
            | _ => (s1.clauseFault (s1.countClause x) g i raw w0, none)
          | .ok raw _ => (s1, some (decodeHeader raw.toNat))

/-- After an instruction of a wave: a word advances its clause, a header has begun one. -/
def State.finishInstr (s : State) (id : Nat) (began : Bool) : State :=
  if began then s
  else match s.wave? id with
    | none => s
    | some w => match w.clause with
      | none => s
      | some c => (Ctx.mk s w c).advance

/-- Whether a wave stands at a clause boundary. -/
def State.atBoundary (s : State) (id : Nat) : Bool := ((s.wave? id).map fun w => w.clause.isNone).getD true

end Sys2Proof.Machine
end

