-- ==== Sys2Proof/Machine/Trap.lean ====
section
/-! DEFINITION. Taking a fault (spec 16_traps.md R312 to R323): routing of a fault set to the handler, to system service or
to the end of the run; the trap frame; the watchdog; replies of system software; lanes killed (02_graphs.md R49). -/

namespace Sys2Proof.Machine

/-! ### Fault sets -/

/-- Lanes of a fault set. -/
def Wave.setLanes (w : Wave) (n : Nat) : Mask := w.maskWhere fun l => (l.fault.map (·.set)) == some n

/-- Whether a set has a lane in handler state, or one that has exited. -/
def Wave.setGone (w : Wave) (n : Nat) : Bool :=
  (lanesOf (w.setLanes n)).any fun l => (w.lane l).handler || (w.lane l).gone

/-- Whether the wave has a service outstanding, or one that begins once it is saved. -/
def Wave.serving (w : Wave) : Bool := w.ticket.isSome || w.svcAsked

/-- Whether a delivery of the wave is live: a lane in handler state or an outstanding service (R318, R321). -/
def Wave.delivering (w : Wave) : Bool := w.serving || w.lanes.any (·.handler)

/-- The set that is routed next (R314): the earliest parked; a set of handler or exited lanes at once, another only when no
delivery is live. -/
def Wave.nextSet (w : Wave) : Option Nat :=
  let sets := nub (w.lanes.filterMap fun l => l.fault.map (·.set))
  let ready := sets.filter fun n => (w.setGone n || !w.delivering) && !(w.serving && n == w.svcSet)
  argMin (fun n => n) (if w.clause.isSome then [] else ready)

/-- A lane's recorded fault. -/
def Wave.faultOf (w : Wave) (l : Nat) : FaultRec := ((w.lane l).fault).getD { set := 0, cls := 0 }

/-- %trapen and %trapvec under which a lane's fault is routed: those before an SSET of its clause (R333), else the
wave's. -/
def Wave.trapRegs (w : Wave) (l : Nat) : DWord × DWord := ((w.faultOf l).under).getD (w.trapen, w.trapvec)

/-- EN bit of a lane's class in %trapen (Table 16-2). -/
def Wave.enabled (w : Wave) (l : Nat) : Bool :=
  let c := (w.faultOf l).cls
  decide (1 ≤ c) && decide (c ≤ 14) && (w.trapRegs l).1.getLsbD c

/-- Handler address of a fault set. -/
def Wave.setVec (w : Wave) (n : Nat) : DWord := (w.trapRegs ((lanesOf (w.setLanes n)).headD 0)).2

/-- Whether a lane's fault may go to system service (R314 rule 3). -/
def State.serviceable (s : State) (w : Wave) (l : Nat) : Bool := (w.faultOf l).service && (s.slot w.slot).fsvc

/-- Rule 1 of R314. -/
def State.unserviced (s : State) (w : Wave) (n : Nat) : Bool :=
  let f := lanesOf (w.setLanes n)
  (f.any fun l => !w.enabled l && !s.serviceable w l) || w.setGone n || w.stat == .draining
    || (w.isThread && f.any fun l => !s.serviceable w l)

/-- Rule 2 of R314. -/
def Wave.handles (w : Wave) (n : Nat) : Bool :=
  w.setVec n != 0 && decide (16 ≤ w.regs) && w.scrSize != 0
    && (lanesOf (w.setLanes n)).any w.enabled

/-- The least class of a list of lanes. -/
def Wave.leastClass (w : Wave) (ls : List Nat) : Nat := ((ls.map fun l => (w.faultOf l).cls).foldl min 255)

/-! ### Delivery (R315, R317) -/

/-- The trap frame of a set delivered with class c (Table 16-4); the register images hold every lane of the
wave. -/
def Wave.frame (w : Wave) (n c : Nat) : List Byte :=
  let all := lanesOf (w.setLanes n)
  let fm := all.filter fun l => (w.faultOf l).cls == c
  let f := w.faultOf (fm.headD 0)
  let raised := fm.foldl (fun (g : Flags) l => g ||| (w.faultOf l).raised) 0
  let w0 := c + f.code * 2 ^ 8 + f.index * 2 ^ 16 + if f.late then 2 ^ 20 else 0
  toBytes 8 w0 ++ toBytes 8 f.pc ++ toBytes 4 f.word.toNat ++ toBytes 4 f.header.toNat
    ++ toBytes 8 (maskOf fm).toNat ++ toBytes 8 f.amask.toNat ++ toBytes 8 f.addr
    ++ toBytes 8 (raised.toNat * 2 ^ 8 + (raised &&& ((w.trapRegs (fm.headD 0)).1.extractLsb' 16 6)).toNat) ++ toBytes 8 (f.resumePc / 16 * 16 + f.resumeIdx)
    ++ ((List.range 8).flatMap fun i => toBytes 8 (w.sreg i).toNat)
    ++ ((List.range 7).flatMap fun i => toBytes 8 (w.maskWhere fun l => l.p.getLsbD (i + 1)).toNat)
    ++ List.replicate 72 0
    ++ ((List.range 8).flatMap fun r => (List.range 64).flatMap fun l => toBytes 4 (((w.lane l).v.getD (w.regs - 8 + r) 0)).toNat)

/-- Whether a fault is a WATCHDOG of a wait at a clause start, which has no word to issue again (R319). -/
def FaultRec.waits (f : FaultRec) : Bool := f.cls == cWatchdog && f.resumePc == f.pc

/-- Delivers a set to the handler. -/
def State.deliver (s : State) (w : Wave) (n : Nat) : State :=
  let all := w.setLanes n
  let enabled := (lanesOf all).filter w.enabled
  let c := w.leastClass enabled
  let fm := (lanesOf all).filter fun l => (w.faultOf l).cls == c
  let f := w.faultOf (fm.headD 0)
  let s1 := s.scratchWrite w.id w.trapframe (w.frame n c)
  s1.modWave w.id fun w0 => { (w0.modLanes all fun l =>
      { l with stat := .run, pc := (w0.setVec n).toNat, idx := 0, handler := true, fault := none, retry := none
               since := w0.clauses, waited := 0 }) with
    lastMask := maskOf fm, frameIdx := f.index, frameHdr := if f.waits then 0 else f.header }

/-! ### Unserviced faults and service (R321, R322) -/

/-- The fault record of a set (Table 16-8). -/
def State.faultRecord (s : State) (w : Wave) (n kind ticket : Nat) : ErrRec :=
  let all := lanesOf (w.setLanes n)
  let c := w.leastClass all
  let fm := all.filter fun l => (w.faultOf l).cls == c
  let f := w.faultOf (fm.headD 0)
  { kind := kind, cls := c, slot := w.slot, node := w.node, run := w.run, time := s.time, pc := f.pc, word := f.word.toNat
    index := f.index, late := f.late, code := f.code, fmask := (maskOf fm).toNat, addr := f.addr, ticket := ticket
    ashlar := w.ashlar, waveseq := if w.isThread then 0xFFFFFFFF else w.seqno.toNat % 2 ^ 32 }

/-- A fault that ends the run (R322): the first posts KIND 0; later ones are discarded. The lanes stay parked. -/
def State.endByFault (s : State) (w : Wave) (n : Nat) : State :=
  let clear := fun (w : Wave) => w.modLanes (w.setLanes n) fun l => { l with fault := none }
  match s.run? w.run with
  | none => s.modWave w.id clear
  | some r =>
    if r.cancelling || r.posted then s.modWave w.id clear
    else
      let s1 := (s.postErr (s.faultRecord w n 0 0)).modRun w.run fun r => { r with posted := true }
      (s1.cancelRun w.run .fault w.node).modWave w.id clear

/-- The service of a saved wave begins (R321 steps 2 and 3): its record of KIND 1, then the slot's vector. -/
def State.beginService (s : State) (id : Nat) : State :=
  match s.wave? id with
  | none => s
  | some w =>
    if !(w.svcAsked && w.stat == .saved) then s
    else
      let t := (s.slot w.slot).ticket
      let s1 := (s.postErr (s.faultRecord w w.svcSet 1 t)).modSlot w.slot fun x => { x with ticket := (x.ticket + 1) % 2 ^ 32 }
      (s1.msi w.slot).modWave id fun w => { w with ticket := some t, svcAsked := false }

/-- Sends a set to system service (R321): the wave is saved first. -/
def State.sendService (s : State) (w : Wave) (n : Nat) : State :=
  ({ s with nextId := s.nextId + 1 }.modWave w.id fun w => { w with
    svcAsked := true, svcSet := n, saveSeq := if w.away then w.saveSeq else s.nextId
    saveFor := if w.away && w.saveFor != 1 then w.saveFor else 2
    stat := if w.away then w.stat else .saveAsked }).beginService w.id

/-- Routes the next fault set of a wave by R314. -/
def State.routeFault (s : State) (id : Nat) : State :=
  match s.wave? id with
  | none => s
  | some w => match w.nextSet with
    | none => s
    | some n =>
      if s.unserviced w n then s.endByFault w n
      else if w.handles n then (if w.away then s else s.deliver w n)
      else if (lanesOf (w.setLanes n)).all (s.serviceable w) then s.sendService w n
      else s.endByFault w n

/-- FAULT ROUTING (R314). -/
def execFaultRouting (s : State) : Out := .next (s.routeFault s.evt.a)

/-! ### System service -/

/-- The wave with an outstanding ticket of a slot. -/
def State.ticketed (s : State) (slot ticket : Nat) : Option Wave :=
  s.waves.find? fun w => w.slot == slot && w.ticket == some ticket

/-- The lanes of a served set go on: at the faulting word again, as RETRY does (R321). -/
def Wave.serviceDone (w : Wave) : Wave :=
  { (w.modLanes (w.setLanes w.svcSet) fun l => match l.fault with
      | some f => { l with stat := .run, fault := none, since := w.clauses, waited := 0, pc := f.resumePc, idx := f.resumeIdx
                           retry := if headerOk f.header then some (f.pc, f.index, f.header) else none }
      | none => l) with ticket := none, stat := if w.stat == .saveAsked then .resident else w.stat }

/-- FSVCREPLY with RESUME (R321): a ticket that is not outstanding is ignored. -/
def execFsvcreplyResume (s : State) : Out :=
  match s.ticketed s.evt.a s.evt.b with
  | none => .next s
  | some w => .next (s.modWave w.id Wave.serviceDone)

/-- FSVCREPLY with KILL (R321): the fault becomes unserviced. -/
def execFsvcreplyKill (s : State) : Out :=
  match s.ticketed s.evt.a s.evt.b with
  | none => .next s
  | some w => .next ((s.endByFault w w.svcSet).modWave w.id fun w =>
      { w with ticket := none, stat := if w.stat == .saveAsked then .resident else w.stat })

/-! ### Killed lanes -/

/-- Whether the lanes of a wave of a cancelled run are killed now (R49): at a boundary. -/
def State.killable (s : State) (w : Wave) : Bool :=
  w.clause.isNone && w.active && ((s.run? w.run).map (·.cancelling)).getD false

/-- LANE KILL (R49, R354): all lanes of a wave of a cancelled run at its clause boundary; a saved wave frees its
saved context and drains where it was. -/
def execLaneKill (s : State) : Out :=
  let w := s.evt.a
  match s.wave? w with
  | none => .next s
  | some x =>
    if !s.killable x then .next s
    else
      let live := x.maskWhere fun n => !(n.gone || n.stat == .inactive)
      let s1 := (s.killLanes w live).closeGroups x live
      let s2 := s1.modWave w fun y => { y with ticket := none, svcAsked := false, ssets := [], drains := false, broke := false, saveFor := 0
                                               stat := if y.away then .saved else .resident }
      .next ((s2.modWave w Wave.reconverge).checkDrain w)

/-! ### Waits that end with time -/

/-- SLEEP END (R166): lanes whose sleep has lasted its cycles run again, where nothing else parks them. -/
def execSleepEnd (s : State) : Out :=
  let id := s.evt.a
  let t := s.modWave id fun x =>
    if x.away then x
    else x.modLanes s.evt.mask fun n =>
      n.free (fun p => match p with | .sleep t => decide (t ≤ s.clock (courseOf x.ashlar)) | _ => false) x.clauses
  .next (if t.atBoundary id then t.boundary id else t)

/-- The 100 ms of the watchdog, in ps (R319). -/
def watchdogPs : Nat := 100000000000

/-- A lane's WATCHDOG fault at the place where it waits (R319), and whether the lane leaves a JOIN or REJOIN. -/
def State.watchFault (s : State) (w : Wave) (l : Nat) : FaultRec :=
  let n := w.lane l
  let word := fun va => match s.fetch w va with | .inr x => x | .inl _ => 0
  let base : FaultRec := { set := 0, cls := cWatchdog, late := true, amask := oneLane l }
  match n.stat with
  | .parked (.join pc) | .parked (.rejoin _ pc) =>
    let h := word pc
    let k := (headerOf h).n
    { base with pc := pc, header := h, index := k - 1, word := word (pc + 4 * k), resumePc := nextClause pc k, resumeIdx := 0 }
  | _ =>
    let pc := n.lateResume.1
    { base with pc := pc, header := word pc, index := 0, word := word (pc + 4), resumePc := pc, resumeIdx := 0 }

/-- Removes a lane parked at a JOIN or REJOIN from the top entry's mask or from jN (R319). -/
def Wave.unjoin (w : Wave) (l : Nat) : Wave :=
  match (w.lane l).stat with
  | .parked (.join _) => { w with stack := match w.stack with
      | (t, m) :: rest => (t, m &&& ~~~oneLane l) :: rest
      | [] => [] }
  | .parked (.rejoin j _) => { w with j := w.j.modify j (· &&& ~~~oneLane l) }
  | _ => w

/-- WATCHDOG (R319): lanes of one place that have waited 100 ms fault together. -/
def execWatchdog (s : State) : Out :=
  let w := s.evt.a
  match s.wave? w with
  | none => .next s
  | some x =>
    let due := (lanesOf s.evt.mask).filter fun l =>
      let n := x.lane l
      decide (watchdogPs ≤ n.waited) && n.fault.isNone && !n.gone && n.stat != .parked .fault && n.stat != .inactive
    if due.isEmpty || x.clause.isSome || !s.counting then .next s
    else
      let f := s.watchFault x (due.headD 0)
      let same := due.filter fun l => s.watchFault x l == { f with amask := oneLane l }
      let m := maskOf same
      let y := same.foldl Wave.unjoin x
      let z := y.modLanes m fun n =>
        { n with waited := 0, stat := .parked .fault, also := [], fault := some { f with set := s.nextId, amask := m }
                 pc := f.resumePc, idx := f.resumeIdx, retry := none }
      .next ({ s with nextId := s.nextId + 1 }.setWave z |>.boundary w)

end Sys2Proof.Machine
end

