-- ==== Sys2Proof/Machine/MemEvents.lean ====
section
/-! DEFINITION. Memory accesses after their issue (spec 04_memory.md R79, R84, R87, R89, R97; 05_ordering.md R100, R105 to R107,
R114; 01_organisation.md R21; 18_subsystem_faults.md R344, R345, R348, R350): translation, L1, packets performed at their
homes, promotion, watch entries, late faults. -/

namespace Sys2Proof.Machine

/-! ### Outstanding instructions -/

/-- Lanes of an outstanding instruction complete without a value: it counts no more once none is left. -/
def Wave.opLess (w : Wave) (id : Nat) (m : Mask) : Wave :=
  match w.ops.find? (·.id == id) with
  | none => w
  | some o =>
    if o.lanes &&& ~~~m == 0 then { w with ops := w.ops.filter (·.id != id), sb := w.sb.modify o.sb (· - 1) }
    else w.modOp id fun o => { o with lanes := o.lanes &&& ~~~m }

/-- What a boundary decides, where the wave stands at one. -/
def State.poke (s : State) (id : Nat) : State := if s.atBoundary id then s.boundary id else s

/-- Lanes of an outstanding instruction take a late fault (R312); a scalar access faults every lane of its
subgroup. -/
def State.lateLanes (s : State) (r : Req) (m : Mask) (cls code : Nat) (service : Bool) (addr : Nat → Nat) : State :=
  match r.op, s.wave? r.wave with
  | some op, some w =>
    match w.ops.find? (·.id == op) with
    | none => s
    | some o =>
      let late := fun (l : Nat) (n : Lane) =>
        if laneBit m l then n.addLate w.servedSet { set := s.nextId, cls := cls, code := code, late := true, index := o.index, pc := o.pc
                                                    header := o.header, word := o.word, amask := o.all, addr := addr l, service := service, op := o.id }
        else n
      let w1 := { w with lanes := w.lanes.mapIdx late }
      ({ s.setWave (w1.opLess op m) with nextId := s.nextId + 1 }).poke r.wave
  | _, _ => s

/-! ### Data coming back -/

/-- Bytes of an item from an offset on have come back. -/
def Item.fill (it : Item) (off : Nat) (bs : List Byte) : Item :=
  { it with got := it.got.mapIdx fun i b => if off ≤ i && decide (i < off + bs.length) then some (bs.getD (i - off) 0) else b
            left := it.left - bs.length }

/-- The bytes an item has received. -/
def Item.bytes (it : Item) : List Byte := it.got.map fun b => b.getD 0

/-- What a completed item writes. -/
def LoadDst.values (d : LoadDst) (it : Item) : List (Nat × Dst) :=
  match d with
  | .none => []
  | .sreg n _ => [(it.lane, .sreg n (BitVec.ofNat 64 (ofBytes it.bytes)))]
  | .vregs t size signed =>
    if size < 4 then
      let v := BitVec.ofNat (8 * size) (ofBytes it.bytes)
      [(it.lane, .vreg it.lane t (if signed then v.signExtend 32 else v.setWidth 32))]
    else (wordsOf it.bytes).mapIdx fun i x => (it.lane, .vreg it.lane (t + i) x)

/-- Lanes an item completes: its own, or the whole subgroup of a scalar access. -/
def MemReq.lanesOf (m : MemReq) (r : Req) (it : Item) : Mask := if m.scalar then r.lanes ||| oneLane it.lane else oneLane it.lane

/-- Ends an access whose every byte has been performed. -/
def State.endMem (s : State) (id : Nat) : State :=
  match s.req? id with
  | some r => match r.body with
    | .mem m =>
      if m.items.all fun it => it.left == 0 then
        let s1 := match m.kind with
          | .strongLoad true => s.acquireAt r.ashlar m.sc
          | _ => s
        (s1.dropReq id).settle
      else s
    | _ => s
  | none => s

/-- Bytes of a lane's access have been performed at an offset: read, or written. -/
def State.itemDone (s : State) (id lane off : Nat) (bs : List Byte) : State :=
  match s.req? id with
  | some r => match r.body with
    | .mem m =>
      let items := updWhere (·.lane == lane) (fun (it : Item) => it.fill off bs) m.items
      let s1 := s.modReq id fun r => { r with body := .mem { m with items := items } }
      let s2 := match items.find? (·.lane == lane), r.op with
        | some it, some op => if it.left == 0 then s1.opReady r.wave op (m.lanesOf r it) (m.dst.values it) else s1
        | _, _ => s1
      s2.endMem id
    | _ => s
  | none => s

/-- Lanes of an access fault late and leave it. -/
def State.itemsFault (s : State) (r : Req) (m : MemReq) (lanes : Mask) (cls code : Nat) (service : Bool) : State :=
  let bad := m.items.filter fun it => laneBit lanes it.lane
  let s1 := s.modReq r.id fun q => { q with body := match q.body with
    | .mem m => .mem { m with items := m.items.filter fun it => !laneBit lanes it.lane }
    | b => b }
  let all := if m.scalar then r.lanes ||| lanes else lanes
  (s1.lateLanes r all cls code service fun l =>
    ((bad.find? fun it => m.scalar || it.lane == l).map (·.addr)).getD 0).endMem r.id

/-! ### Accesses of spaces 1 to 4 -/

/-- Reads n bytes of a space other than 0 as a wave sees it. -/
def State.spaceRead (s : State) (w : Wave) (space a n : Nat) : List Byte :=
  if space = 1 then s.scratchRead w a n
  else if space = 2 then (s.die w.die).stacked.readN (s.windowAddr w a) n
  else
    let c := s.course (courseOf w.ashlar)
    (if space = 3 then c.tileMem else c.primMem).readN a n

/-- Writes bytes to a space other than 0. -/
def State.spaceWrite (s : State) (w : Wave) (space a : Nat) (bs : List Byte) : State :=
  if space = 1 then s.scratchWrite w.id a bs
  else if space = 2 then
    let va := s.windowAddr w a
    let s1 := s.modDie w.die fun d => { d with stacked := d.stacked.writeN va bs }
    (lineStarts va bs.length).foldl (fun (s : State) l => s.rewatch 2 w.die (l / 64)) s1
  else s.modCourse (courseOf w.ashlar) fun c => { c with tileMem := c.tileMem.writeN a bs }

/-- A strong write performed on a line clears its mark; one that is a narrow release marks it with its ashlar (R107). -/
def State.marked (s : State) (k : LineKind) (line : Nat) (mark : Bool) (ashlar : Nat) : State :=
  let s1 := s.unmark k line
  if mark then { s1 with marks := { kind := k, line := line, ashlar := ashlar } :: s1.marks } else s1

/-- The packet of an ashlar's space-2 access to the slice of its line (R21); beyond the lines of space 0 it has a number of its own. -/
def State.windowPacket (s : State) (r : Req) (die va : Nat) (write : Bool) : State :=
  s.numberTo r.ashlar (s.windowHome die va) (2 ^ 38 + va / 64) write

/-! ### Watch entries -/

/-- The slice whose table holds a watch entry: the home of its line, or of its window line. -/
def State.watchHome (s : State) (x : Watch) (die : Nat) : Nat :=
  if x.space = 0 then s.home (x.addr / 64) else s.windowHome die x.addr

/-- Takes a wave's entry away: a waiting MWAIT returns MATCH for a flagged entry and else a code. -/
def State.loseWatch (s : State) (w : Wave) (code : Nat) : Wave :=
  match w.watch with
  | some x => { s.wakeMwaits w (if x.flagged then 0 else code) with watch := none }
  | none => w

/-- Arms a wave's entry with the value read (R114); the entry armed longest ago goes when the slice holds 256. -/
def State.arm (s : State) (id : Nat) (x : Watch) (v : DWord) : State :=
  match s.wave? id with
  | none => s
  | some w =>
    let home := s.watchHome x w.die
    let others := s.waves.filter fun y => y.id != id && match y.watch with
      | some z => s.watchHome z y.die == home
      | none => false
    let s1 :=
      if others.length < 256 then s
      else match argMin (fun (y : Wave) => (y.watch.map (·.armedAt)).getD 0) others with
        | some y => s.modWave y.id (s.loseWatch · 3)
        | none => s
    { (s1.modWave id fun w => { w with watch := some { x with flagged := watchHolds x.cmp v x.value, armedAt := s.nextId } }) with
      nextId := s1.nextId + 1 }

/-- A wave's entry disarmed by its own MCANCEL: no wake-up, and an MWAIT that waits goes on waiting (R218). -/
def State.dropWatch (s : State) (w : Wave) : Wave :=
  match w.watch with
  | some x =>
    let w1 := if x.flagged then s.wakeMwaits w 0 else w
    { w1 with watch := none, ops := w1.ops.map fun o => match o.wait with
        | .mwait d sd _ none => if s.armedBefore w o then { o with wait := .mwait d sd true none } else o
        | _ => o }
  | none => w

/-- MCANCEL performed (R218): entries of the job on the line are disarmed; the issuing wave's own without a wake-up. -/
def State.cancelWatches (s : State) (r : Req) (space addr : Nat) : State :=
  let die := ((s.wave? r.wave).map (·.die)).getD 0
  { s with waves := s.waves.map fun w => match w.watch with
      | some x =>
        if w.slot == r.slot && x.space == space && x.addr / 64 == addr / 64 && (space == 0 || w.die == die) then
          if w.id == r.wave then s.dropWatch w else s.loseWatch w 5
        else w
      | none => w }

/-! ### Performing an access of spaces 1 to 4 -/

/-- Performs one lane's access to a space other than 0. -/
def State.directItem (s : State) (r : Req) (m : MemReq) (it : Item) : State :=
  match s.wave? r.wave with
  | none => s
  | some w =>
    if m.space = 2 && s.lostBank w it.addr it.size then s.itemsFault r m (oneLane it.lane) cHardware 1 false
    else
      let old := s.spaceRead w m.space it.addr it.size
      let s0 := if m.space = 2 then s.windowPacket r w.die (s.windowAddr w it.addr) r.write else s
      let s1 := match m.kind with
        | .store | .strongStore _ => s0.spaceWrite w m.space it.addr it.data
        | .atomic op => s0.spaceWrite w m.space it.addr (op.bytes old it.data)
        | .monitor cmp value =>
          s0.arm r.wave { addr := s.windowAddr w it.addr, space := 2, cmp := cmp, value := value, flagged := false, armedAt := 0 }
            (BitVec.ofNat 64 (ofBytes old))
        | _ => s0
      let strong := match m.kind with | .strongStore _ | .atomic _ => true | _ => false
      let s2 := if m.space = 2 && strong then s1.marked (.window w.die) (s.windowAddr w it.addr / 64) m.mark r.ashlar else s1
      s2.itemDone r.id it.lane 0 old

/-! ### Short-lived lines (R97, R348) -/

/-- Whether a short-lived line can still be read at a home. -/
def State.shortLive (s : State) (l : ShortLine) : Bool :=
  let h := s.home l.line
  decide (s.time / 1000 < l.deadline) && !(s.slice (h / 16) (h % 16)).overTemp

/-- The valid short-lived line with a number. -/
def State.short? (s : State) (line : Nat) : Option ShortLine :=
  s.shorts.find? fun l => l.line == line && s.shortLive l

/-- Whether the home keeps short-lived stores. -/
def State.keepsShort (s : State) (line : Nat) : Bool :=
  let h := s.home line
  let x := s.slice (h / 16) (h % 16)
  !x.shortBanks.isEmpty && !x.overTemp

/-- The bank a store of a line takes at its home: its own, one of an expired line of the set, else an empty one; none
where the set is full. -/
def State.shortBank (s : State) (line : Nat) : Option Nat :=
  match s.shorts.find? (·.line == line) with
  | some l => some l.bank
  | none =>
    let h := s.home line
    let ways := (s.slice (h / 16) (h % 16)).shortBanks
    let set := s.shorts.filter fun l => s.home l.line == h && l.line % 16384 == line % 16384
    let expired := (set.filter fun l => !s.shortLive l).map (·.bank)
    let empty := ways.filter fun b => !set.any (·.bank == b)
    let pick := if expired.isEmpty then empty else expired
    if pick.isEmpty then none else pick[Sys2Proof.Config.choice s.free % pick.length]?

/-- Stores pieces into a short-lived line in a bank, stamping it. R97 gives the stamp to a store; an atomic, which writes as well,
stamps the line too (DESIGN CHOICE, log entry 70). -/
def State.shortWrite (s : State) (line bank : Nat) (ps : List (Nat × List Byte)) : State :=
  let h := s.home line
  let base := ((s.short? line).map (·.data)).getD (List.replicate 64 0)
  let data := ps.foldl (fun d p => overlay d (p.1 % 64) p.2) base
  let l : ShortLine := { line := line, bank := bank, data := data
                         deadline := s.time / 1000 + (s.slice (h / 16) (h % 16)).deadline }
  let rest := s.shorts.filter fun k => !(k.line == line) &&
    !(k.bank == bank && s.home k.line == h && k.line % 16384 == line % 16384)
  { s with shorts := l :: rest, free := s.free + 1 }

/-! ### Packets at the home -/

/-- Mask of the bytes of pieces within their line. -/
def pieceMask (ps : List Piece) : Mask :=
  maskOf (ps.flatMap fun q => (List.range q.len).map fun i => (q.addr + i) % 64)

/-- Lanes of a packet's pieces. -/
def Packet.lanes (p : Packet) : Mask := maskOf (p.pieces.map (·.lane))

/-- Changes a packet. -/
def State.modPacket (s : State) (id : Nat) (f : Packet → Packet) : State :=
  s.modReq id fun r => { r with body := match r.body with | .packet p => .packet (f p) | b => b }

/-- Changes a packet's stage. -/
def State.setStage (s : State) (id : Nat) (g : Stage) : State := s.modPacket id fun p => { p with stage := g }

/-- A packet has been performed at its home: its reply, which carries the bytes read, or its acknowledgement goes back to its
source through the mesh, and over the link where that is on the other die (R20, R91). -/
def State.performed (s : State) (id : Nat) (bytes : Piece → List Byte) : State :=
  s.modReq id fun r => match r.body with
    | .packet p => { r with body := .packet { p with
        stage := .performed, router := p.home, came := none, pieces := p.pieces.map fun (q : Piece) => { q with data := bytes q } } }
    | _ => r

/-- Gives the pieces of a packet to the access it belongs to. -/
def State.piecesDone (s : State) (p : Packet) (bytes : Piece → List Byte) : State :=
  match p.parent with
  | none => s
  | some id => p.pieces.foldl (fun (s : State) q => s.itemDone id q.lane q.off (bytes q)) s

/-- Late fault of the lanes of a packet. -/
def State.packetFault (s : State) (p : Packet) (cls code : Nat) : State :=
  match p.parent.bind s.req? with
  | some r => match r.body with
    | .mem m => s.itemsFault r m p.lanes cls code false
    | _ => s
  | none => s

/-- A byte of a line as a cache sees it: its own valid byte, else the home's. -/
def State.seenByte (s : State) (cache pa : Nat) : Byte :=
  match s.l1Line? cache (pa / 64) with
  | some l => if laneBit l.valid (pa % 64) then l.data.getD (pa % 64) 0 else s.mem.read pa
  | none => s.mem.read pa

/-- Whether an acquire read of a line must wait for a promotion (R107). -/
def State.mustPromote (s : State) (k : LineKind) (line : Nat) (m : MemReq) (ashlar : Nat) : Bool :=
  (match m.kind with | .strongLoad true => decide (3 ≤ m.sc) | _ => false)
    && s.marks.any fun x => x.kind == k && x.line == line && x.ashlar != ashlar

/-- The access a packet belongs to. -/
def State.parentMem (s : State) (p : Packet) : Option (Req × MemReq) :=
  match p.parent.bind s.req? with
  | some r => match r.body with | .mem m => some (r, m) | _ => none
  | none => none

/-- Whether a packet is a weak access. -/
def Packet.weak (p : Packet) : Bool := match p.kind with | .load | .store => true | _ => false

/-- Whether a packet at its home needs the stack or port behind the line: the policy bypasses the cache ways, or no way holds the
line (Table 4-7). -/
def State.needsStack (s : State) (p : Packet) : Bool := (p.weak && p.policy == 3) || (s.way? p.line).isNone

/-- A line as a packet leaves it in the cache ways: a weak access of policy 0 to 2 brings it in, one of policy 3 bypasses them,
and a strong access uses them as they are (R87). -/
def State.homeWays (s : State) (p : Packet) : State :=
  if !p.weak then s else if p.policy = 3 then s.dropWay p.line else s.wayFor p.line (p.policy == 1)

/-- The clean bytes of a line that a source's L1 holds are dropped as an access that bypasses L1 is performed at the home: a later
weak access of its lane returns nothing older (R104, R105). -/
def State.outdate (s : State) (p : Packet) : State :=
  let m := pieceMask p.pieces
  let drop := fun (l : L1Line) => { l with valid := l.valid &&& (~~~m ||| l.dirty) }
  { s with l1 := updWhere (fun (l : L1Line) => l.cache == p.src && l.line == p.line) drop s.l1 }

/-- A write of every byte of a line clears its poison (R345). -/
def State.wholeWrite (s : State) (p : Packet) : State :=
  if pieceMask p.pieces == ~~~0 then { s with poisoned := s.poisoned.filter (· != p.line) } else s

/-- Performs a packet to ordinary memory at its home (R87, R105, R107, R345). An atomic on a line that stands in no cache way leaves
the line for its stack. -/
def State.homePacket (s0 : State) (r : Req) (p : Packet) : State :=
  let s1 := s0.homeWays p
  let s := if p.weak && p.policy != 3 then s1 else s1.outdate p
  let write := fun (s : State) (strong : Bool) =>
    (p.pieces.foldl (fun (s : State) q => s.homeWrite q.addr q.data strong) s).wholeWrite p
  let bad := s.bad p.line
  let mark := fun (s : State) => match s.parentMem p with
    | some (q, m) => s.marked .global p.line m.mark q.ashlar
    | none => s
  match p.kind with
  | .store => (write s false).performed r.id (·.data)
  | .strongStore _ => (mark (write s true)).performed r.id (·.data)
  | .load =>
    if bad then (s.performed r.id (·.data)).packetFault p cHardware 1
    else
      let s1 := match p.fill with | some c => s.fillL1 c p.line p.stream | none => s
      let byte := fun (pa : Nat) => if p.policy = 3 then s1.mem.read pa else s1.seenByte p.src pa
      s1.performed r.id fun q => (List.range q.len).map fun i => byte (q.addr + i)
  | .strongLoad _ =>
    if bad then (s.performed r.id (·.data)).packetFault p cHardware 1
    else s.performed r.id fun q => s.mem.readN q.addr q.len
  | .atomic op =>
    if bad then (s.performed r.id (·.data)).packetFault p cHardware 1
    else
      let (s1, old) := p.pieces.foldl (fun (acc : State × List (Nat × List Byte)) q =>
        let o := acc.1.mem.readN q.addr q.len
        (acc.1.homeWrite q.addr (op.bytes o q.data) true, acc.2 ++ [(q.lane, o)])) (s, [])
      let s2 := if (s1.way? p.line).isSome then s1 else s1.stackWrite p.home p.line
      (mark s2).performed r.id fun q => ((old.find? (·.1 == q.lane)).map (·.2)).getD []
  | .monitor cmp value =>
    if bad then (s.performed r.id (·.data)).packetFault p cHardware 1
    else
      let s1 := p.pieces.foldl (fun (s : State) q =>
        s.arm r.wave { addr := q.addr, space := 0, cmp := cmp, value := value, flagged := false, armedAt := 0 }
          (BitVec.ofNat 64 (ofBytes (s.mem.readN q.addr 8)))) s
      s1.performed r.id fun q => s.mem.readN q.addr 8

/-- Performs a short-lived packet (R97); a store may have to wait for its set. -/
def State.shortPacket (s : State) (r : Req) (p : Packet) : State :=
  let line? := s.short? p.line
  let read := fun (s : State) (q : Piece) => match s.short? p.line with
    | some l => (l.data.drop (q.addr % 64)).take q.len
    | none => List.replicate q.len 0
  match p.kind with
  | .load =>
    (if line?.isNone then s.modWave r.wave fun w => { w with memstat := true } else s).performed r.id (read s)
  | .store =>
    if !s.keepsShort p.line then s.performed r.id (·.data)
    else match s.shortBank p.line with
      | none => s.setStage r.id .fullSet
      | some b => (s.shortWrite p.line b (p.pieces.map fun q => (q.addr, q.data))).performed r.id (·.data)
  | k =>
    match line? with
    | none => (s.performed r.id (·.data)).packetFault p cStale 0
    | some l =>
      let (s1, old) := p.pieces.foldl (fun (acc : State × List (Nat × List Byte)) q =>
        let o := read acc.1 q
        (match k with
         | .strongStore _ => acc.1.shortWrite p.line l.bank [(q.addr, q.data)]
         | .atomic op => acc.1.shortWrite p.line l.bank [(q.addr, op.bytes o q.data)]
         | _ => acc.1, acc.2 ++ [(q.lane, o)])) (s, [])
      let write := match k with | .strongStore _ | .atomic _ => true | _ => false
      let s2 := match s1.parentMem p with
        | some (q, m) => if write then s1.marked .short p.line m.mark q.ashlar else s1
        | none => s1
      s2.performed r.id fun q => ((old.find? (·.1 == q.lane)).map (·.2)).getD []

/-- Whether a packet must wait for a lower-numbered one of its source to its line (R21). -/
def State.packetEarly (s : State) (id : Nat) (p : Packet) : Bool :=
  (s.reqs.takeWhile (·.id != id)).any fun q => match q.body with
    | .packet k => k.src == p.src && k.line == p.line && !k.told && k.stage != .performed
    | _ => false

/-- A packet at its home: held if early, waiting for a promotion, sent on to the stack or port behind its line, else performed. -/
def State.packetArrive (s : State) (r : Req) (p : Packet) : State :=
  let kind := if p.short then LineKind.short else .global
  let waits := match s.parentMem p with
    | some (q, m) => s.mustPromote kind p.line m q.ashlar
    | none => false
  if s.packetEarly r.id p then s.setStage r.id .early
  else if waits then s.setStage r.id .promote
  else if p.short then s.shortPacket r p
  else if s.needsStack p && !p.fetched then s.modPacket r.id fun p => { p with stage := .stack true, came := none }
  else s.homePacket r p

/-- A packet under way: one hop through the mesh towards where it goes, or into the link (R20). At its home it takes its turn (R21);
the stack or port behind its line answers with a packet of its own number. -/
def State.packetMove (s : State) (r : Req) (p : Packet) : State :=
  if r.cross.isSome then s
  else if p.moving then
    let (q, out) := s.hop p
    s.modReq r.id fun k => { k with die := q.router / 16, cross := if out then some s.now else none, body := .packet q }
  else match p.stage with
    | .flight => if p.told then s.performed r.id (·.data) else s.packetArrive r p
    | .early | .promote => s.packetArrive r p
    | .stack true =>
      (s.bump (if inHost (p.line * 64) then pcieSrc else hbmSrc (stackOf p.line)) p.home).modPacket r.id fun p =>
        { p with stage := .stack false, came := none }
    | .stack false => if p.told then s.dropReq r.id else s.modPacket r.id fun p => { p with stage := .early, fetched := true }
    | _ => s

/-- Whether an earlier access of the same wave to the same line is not far enough: not translated, or neither
done nor a posted weak store (R105). -/
def State.lineBusy (s : State) (r : Req) (m : MemReq) : Bool :=
  let key := fun (m : MemReq) (it : Item) => (lineStarts it.addr it.size).flatMap fun a =>
    if m.space = 0 then [2 * (a / 64), 2 * (s.paOf r.ashlar r.slot a / 64) + 1] else [a / 64]
  let mine := m.items.flatMap (key m)
  let past := ((s.wave? r.wave).map (·.past)).getD []
  (s.reqs.takeWhile (·.id != r.id)).any fun q => (q.wave == r.wave || past.any (·.1 == q.id)) && match q.body with
    | .mem k => k.space == m.space && (m.space != 0 || !k.sent || k.kind != .store) && k.items.any fun it => (key k it).any mine.contains
    | _ => false

/-- Whether a strong acquire read of space 2 waits for a promotion of a line it reads. -/
def State.windowWaits (s : State) (r : Req) (m : MemReq) (w : Wave) : Bool :=
  m.space == 2 && m.items.any fun it => s.mustPromote (.window w.die) (s.windowAddr w it.addr / 64) m r.ashlar

/-- Whether a space-2 access waits for the die's window to be rebuilt: over a remap (R95), or for a change of SCRATCH accepted before
it issued (R376). -/
def State.windowHeld (s : State) (die id : Nat) : Bool :=
  (s.die die).remap || (s.die die).slices.any fun x => x.rebuilds && decide (x.since ≤ id)

/-- Whether a space-2 access of a die that issued before a number is still to be performed. -/
def State.windowUse (s : State) (die before : Nat) : Bool :=
  s.reqs.any fun r => decide (r.id < before) && ((s.wave? r.wave).map (·.die)).getD (dieOf r.ashlar) == die && match r.body with
    | .mem m => m.space == 2
    | _ => false

/-- MEMORY PACKET (R20, R21, R105): a packet moves one hop, or is received by its home and performed in its turn; an access to a
space other than 0, or an MCANCEL, is performed where it belongs. A space-2 access that waits over a remap (R95) was tested
against %mlscrsize when it issued and is not tested again (DESIGN CHOICE, log entry 70). -/
def execMemoryPacket (s : State) : Out :=
  match s.req? s.evt.a with
  | none => .next s
  | some r => match r.body with
    | .packet p => .next (s.packetMove r p).settle
    | .mem m => match s.wave? r.wave with
      | none => .next s
      | some w =>
        if m.space = 0 || !s.ready r || s.lineBusy r m || (m.space = 2 && s.windowHeld w.die r.id) || (w.away && m.space != 2)
            || s.windowWaits r m w then .next s
        else .next (m.items.foldl (fun (s : State) it => s.directItem r m it) s)
    | .cancelWatch space addr =>
      if s.ready r && r.cross.isNone then .next ((s.cancelWatches r space addr).dropReq r.id).settle else .next s
    | _ => .next s

/-- A weak store whose last line has left the ashlar completes (R179, R209). -/
def State.storeLeft (s : State) (id : Nat) : State :=
  match s.req? id with
  | some r => match r.body, r.op with
    | .mem m, some op =>
      let held := s.reqs.any fun q => match q.body with | .packet p => p.parent == some id && p.stage == .window | _ => false
      if m.kind == .store && m.sent && !held then
        s.opReady r.wave op (m.items.foldl (fun k it => k ||| m.lanesOf r it) 0) []
      else s
    | _, _ => s
  | none => s

/-- PACKET ACKNOWLEDGEMENT (R21): the reply or acknowledgement of a performed packet, come back to a router of its source, hands on the bytes
read; a slot of the source is free, and the oldest held packet of that pair goes. -/
def execPacketAcknowledgement (s : State) : Out :=
  match s.req? s.evt.a with
  | none => .next s
  | some r => match r.body with
    | .packet p =>
      if p.stage != .performed || r.cross.isSome || !p.there then .next s
      else
        let s1 := (s.dropReq r.id).piecesDone p (·.data)
        let held := s1.reqs.find? fun q => match q.body with
          | .packet k => k.src == p.src && k.home == p.home && k.stage == .window && !s.holdsFor k.line
          | _ => false
        let s2 := match held with
          | some q =>
            let t := s1.setStage q.id .flight
            match q.body with
            | .packet k => (k.parent.map t.storeLeft).getD t
            | _ => t
          | none => s1
        .next s2.settle
    | _ => .next s

/-- SHORT STORE WAIT END (R97): a short-lived store whose set was full proceeds when a line has expired. -/
def execShortStoreWaitEnd (s : State) : Out :=
  match s.req? s.evt.a with
  | none => .next s
  | some r => match r.body with
    | .packet p =>
      if p.stage == .fullSet && (!s.keepsShort p.line || (s.shortBank p.line).isSome) then
        .next (s.shortPacket r p)
      else .next s
    | _ => .next s

/-! ### Promotion (R107) -/

/-- The slice that marks a line: the home of its line, or of its window line. -/
def State.markHome (s : State) (m : Mark) : Nat :=
  match m.kind with
  | .window d => s.windowHome d (m.line * 64)
  | _ => s.home m.line

/-- Whether an acquire read waits for a marked line. -/
def State.markWanted (s : State) (m : Mark) : Bool :=
  s.reqs.any fun r => match r.body with
    | .packet p => p.stage == .promote && p.line == m.line && (if p.short then LineKind.short else .global) == m.kind
    | .mem k => match s.wave? r.wave with
      | some w => m.kind == .window w.die && s.windowWaits r k w && k.items.any fun it => s.windowAddr w it.addr / 64 == m.line
      | none => false
    | _ => false

/-- Whether a mark is to be promoted: an acquire read waits for its line, its slice holds more than 256 and it is the oldest, or
its slice leaves the live set (R107, R351). -/
def State.promotes (s : State) (m : Mark) : Bool :=
  let here := s.marks.filter fun k => s.markHome k == s.markHome m
  s.markWanted m || (m.kind == .global && s.toMove m.line) || (decide (256 < here.length) && here.getLast? == some m)

/-- Store packets of an ashlar, or of the L1 shares that serve it, that are not yet acknowledged. -/
def State.posted (s : State) (ashlar : Nat) : Bool :=
  s.reqs.any fun r => match r.body with
    | .packet p => (p.src == ashlar || (s.l1Group ashlar).contains p.src) && p.kind == .store && !p.told
    | _ => false

/-- The mark that an event names: a line, and 0 for global memory, 1 for short-lived lines, 2 and 3 for the windows of the dies. -/
def State.mark? (s : State) : Option Mark :=
  let k := match s.evt.b with | 0 => LineKind.global | 1 => .short | n => .window (n - 2)
  s.marks.find? fun m => m.line == s.evt.a && m.kind == k

/-- PROMOTION REQUEST (R107): the marked ashlar writes back its L1. -/
def execPromotionRequest (s : State) : Out :=
  match s.mark? with
  | some m =>
    if !m.asked && s.promotes m then
      let s1 := s.writeBack (s.l1Group m.ashlar)
      .next { s1 with marks := updWhere (· == m) (fun (k : Mark) => { k with asked := true }) s1.marks }
    else .next s
  | none => .next s

/-- PROMOTION REPLY (R107): the marked ashlar's posted stores are acknowledged; the mark is cleared, and the waiting acquire
reads can be performed. -/
def execPromotionReply (s : State) : Out :=
  match s.mark? with
  | some m =>
    if !m.asked || s.posted m.ashlar then .next s
    else
      let s1 := s.unmark m.kind m.line
      .next ((s1.reqs.foldl (fun (s : State) r => match r.body with
        | .packet p => if p.stage == .promote && p.line == m.line then s.packetMove r p else s
        | _ => s) s1)).settle
  | none => .next s

/-! ### Translation and L1 -/

/-- The access kinds of Table 4-3 for a request. -/
def AccKind.need (k : AccKind) : Need :=
  match k with
  | .load | .strongLoad _ | .monitor _ _ => { read := true }
  | .store | .strongStore _ => { write := true }
  | .atomic _ => { read := true, write := true, atomic := true }

/-- Effective cache policy of a line (R84). -/
def State.policyOf (s : State) (ashlar slot va policy : Nat) : Nat :=
  match s.look ashlar slot va with
  | .leaf l => max policy l.cp
  | _ => policy

/-- Cuts pieces into runs of one policy, each with the virtual address of its first piece. -/
def policyRuns (pol : Nat → Nat) : List (Nat × Piece) → List (Nat × List Piece)
  | [] => []
  | (va, p) :: rest => match policyRuns pol rest with
    | (vb, ps) :: more => if pol va = pol vb then (va, p :: ps) :: more else (va, [p]) :: (vb, ps) :: more
    | [] => [(va, [p])]

/-- Pieces of an access by physical line, in lane order, each line with a virtual address of it: lines of one page mapped twice
are one line, whose bytes the highest lane writes (R79). Lanes that reach a line through leaves of different policy go one after
the other, each by its own (R84). -/
def State.memPieces (s : State) (r : Req) (m : MemReq) : List (Nat × List Piece) :=
  let ps := m.items.flatMap fun it => (linePieces it.addr it.size).map fun (off, a, len) =>
    (a / 64 * 64, ({ lane := it.lane, addr := s.paOf r.ashlar r.slot a, off := off, len := len
                     data := match m.kind with | .atomic _ => it.data | _ => (it.data.drop off).take len } : Piece))
  (nub (ps.map fun p => p.2.addr / 64)).flatMap fun l =>
    policyRuns (s.policyOf r.ashlar r.slot · m.policy) (ps.filter fun p => p.2.addr / 64 == l)

/-- Writes pieces into a line's data. -/
def putPieces (data : List Byte) (ps : List Piece) : List Byte := ps.foldl (fun d q => overlay d (q.addr % 64) q.data) data

/-- Carries out one line of a translated access: in L1 where the policy and the kind allow, else by a packet to the
home (Table 4-7). An access of a wave that is saved leaves nothing in L1, since its save is a release (R101). -/
def State.lineAccess (s : State) (r : Req) (m : MemReq) (va : Nat) (ps : List Piece) : State :=
  let line := ((ps.map (·.addr)).headD 0) / 64
  let cache := s.l1Of r.ashlar line
  let away := ((s.wave? r.wave).map (·.away)).getD false
  let pol := if away then max 2 (s.policyOf r.ashlar r.slot va m.policy) else s.policyOf r.ashlar r.slot va m.policy
  let q : Req := { r with after := [], op := none, strong := false, lanes := maskOf (ps.map (·.lane)) }
  let pk : Packet := { src := if m.short then r.ashlar else cache, home := 0, seq := 0, line := line
                       kind := m.kind, short := m.short, policy := pol, pieces := ps, parent := some r.id }
  let mask := pieceMask ps
  if m.short then s.send q pk
  else match m.kind with
  | .load =>
    let hit := match s.l1Line? cache line with | some l => mask &&& ~~~l.valid == 0 | none => false
    let s0 := if pol ≤ 2 then s.count r.ashlar (if hit then 8 else 9) 1 r.slot else s
    if pol ≤ 2 && hit then
      ps.foldl (fun (s : State) q => s.itemDone r.id q.lane q.off ((List.range q.len).map fun i => s.seenByte cache (q.addr + i))) s0
    else
      let s1 := if pol = 3 then match s0.l1Line? cache line with | some l => s0.writeBackLine l | none => s0 else s0
      s1.send q { pk with fill := if pol ≤ 1 then some cache else none, stream := pol == 1 }
  | .store =>
    let s := if pol ≤ 2 then s.count r.ashlar (if (s.l1Line? cache line).isSome then 8 else 9) 1 r.slot else s
    if pol = 0 then
      let l := (s.l1Line? cache line).getD { cache := cache, line := line, data := List.replicate 64 0, valid := 0, dirty := 0 }
      let s1 := s.allocL1 { l with data := putPieces l.data ps, valid := l.valid ||| mask, dirty := l.dirty ||| mask }
      ps.foldl (fun (s : State) q => s.itemDone r.id q.lane q.off q.data) s1
    else
      -- policy 3 bypasses L1: the bytes written are no longer held there, so that no lane reads less than its own write
      let s1 := match s.l1Line? cache line with
        | some l => s.setL1 { l with data := if pol = 3 then l.data else putPieces l.data ps
                                     valid := if pol = 3 then l.valid &&& ~~~mask else l.valid ||| mask, dirty := l.dirty &&& ~~~mask }
        | none => s
      s1.send q pk
  | _ =>
    -- a strong access bypasses L1: dirty bytes of the line go home first, clean ones are dropped
    let s1 := match s.l1Line? cache line with
      | some l =>
        let s2 := s.writeBackLine l
        { s2 with l1 := s2.l1.filter fun k => !(k.cache == cache && k.line == line) }
      | none => s
    s1.send q pk

/-- Whether a walk waits: the course changes its L1 mode or the ashlar its split (R71, R72), or an invalidation of
the address space is in progress. -/
def State.walkWaits (s : State) (r : Req) : Bool :=
  let x := s.ashlar r.ashlar
  (s.course (courseOf r.ashlar)).l1next.isSome || (match x.splitNext with
      | some n => decide (splitGranules x.split < splitGranules n)
      | none => false)
    || (s.host.invgo && s.host.inval.1 == r.slot)

/-- PAGE WALK (R79, R81, R84): translates a space-0 access whose turn has come, faults the lanes whose check fails
(Table 4-3), sets A and D and carries the lines of the others out. -/
def execPageWalk (s : State) : Out :=
  match s.req? s.evt.a with
  | none => .next s
  | some r => match r.body with
    | .mem m =>
      if m.space ≠ 0 || m.sent || !s.ready r || s.lineBusy r m || s.walkWaits r then .next s
      else
        let need := m.kind.need
        let fault := fun (it : Item) => s.pathFault r.ashlar r.slot it.addr it.size need
        let bad := m.items.filter fun it => (fault it).isSome
        let good := m.items.filter fun it => (fault it).isNone
        let s1 := (s.noteMisses r.ashlar r.slot (m.items.flatMap fun it => lineStarts it.addr it.size)).modReq r.id fun q =>
          { q with body := .mem { m with sent := true } }
        let kinds := nub (bad.filterMap fault)
        let s2 := kinds.foldl (fun (s : State) k =>
          let lanes := maskOf ((bad.filter fun it => fault it == some k).map (·.lane))
          s.itemsFault r { m with sent := true } lanes k.1 (pathCode k.1 k.2) (pathService k.1 k.2)) s1
        let s3 := good.foldl (fun (s : State) it => s.touchRange r.ashlar r.slot it.addr it.size need.write) s2
        let m1 := { m with items := good, sent := true }
        .next (((s3.memPieces r m1).foldl (fun (s : State) p => s.lineAccess r m1 p.1 p.2) s3).storeLeft r.id).settle
    | _ => .next s

/-! ### MWAIT -/

/-- The code an MWAIT of a wave returns now (R114, R217, R218): the event that ended its wait, MATCH where its entry is flagged,
NOWATCH without an entry; while an earlier MONITOR of the wave has not armed it waits. -/
def State.mwaitNow (s : State) (w : Wave) (o : Op) : Option Nat :=
  if !s.armedBefore w o then none
  else match o.wait with
    | .mwait _ _ _ (some c) => some c
    | .mwait _ _ begun none => match w.watch with
      | some x => if x.flagged then some 0 else none
      | none => if begun then none else some 6
    | _ => none

/-- Whether an MWAIT of a wave has something to return. -/
def State.mwaitEnds (s : State) (w : Wave) : Bool := w.ops.any fun o => (s.mwaitNow w o).isSome

/-- Whether the deadline of an MWAIT has passed before anything else ended its wait. -/
def State.timesOut (s : State) (w : Wave) (o : Op) : Bool :=
  match o.wait with
  | .mwait (some d) _ _ none => decide (d ≤ s.now) && s.armedBefore w o && (s.mwaitNow w o).isNone
  | _ => false

/-- MWAIT TIMEOUT (R114): the deadlines of a wave's MWAITs pass; their entry stays armed. -/
def execMwaitTimeout (s : State) : Out :=
  match s.wave? s.evt.a with
  | none => .next s
  | some w =>
    .next (s.setWave { w with ops := w.ops.map fun o => match o.wait with
      | .mwait d sd b none => if s.timesOut w o then { o with wait := .mwait d sd b (some 2) } else o
      | _ => o })

end Sys2Proof.Machine
end

