-- ==== Sys2Proof/Machine/Waves.lean ====
section
/-! DEFINITION. Waves after their clauses: results that arrive (spec 07_encoding.md R153; 05_ordering.md R114, R117; 17_isa_faults.md
R329), context save and restore (03_scheduling.md R73; 02_graphs.md R52; 14_programs_fifo.md R291, R292; 18_subsystem_faults.md
R353, R362), REFORM bins (R43), retirement (R36, R45, R322), split changes (R71) and retention (R305). -/

namespace Sys2Proof.Machine

/-! ### Results -/

/-- The matrix commands of an ashlar numbered below n that have not completed. -/
def State.matPending (s : State) (a n : Nat) : Bool :=
  s.reqs.any fun r => r.ashlar == a && decide (r.id < n) && match r.body with | .matrix _ _ => true | _ => false

/-- Whether an outstanding QPOP or QPEEK of a queue register. -/
def Op.pops (o : Op) (q : Nat) : Bool := match o.wait with | .qpop k _ _ _ => k == q | _ => false

/-- Whether an outstanding VFPOP. -/
def Op.vfpops (o : Op) : Bool := match o.wait with | .vfpop _ => true | _ => false

/-- Whether a VFPOP whose registers are not written yet. -/
def Op.isVfpop (o : Op) : Bool := match decode o.word with | .ok (.vfpop ..) => true | _ => false

/-- The acquire of a wait on a barrier object: at the widest scope of the arrivals of the phases completed since a token (Table
5-2, R111, R223). -/
def State.barAcquire (s : State) (a x : Nat) (token : BitVec 16) : State :=
  let b := s.barrier a x
  s.acquireAt a (if b.wide.any fun p => decide ((p - token).toNat < (b.ph - token).toNat) then 3 else 1)

/-- Saved FIFO entries of restored waves enter again as slots become free, each available 8 cycles later (R252, R253). -/
def State.refillFifo (s : State) (a : Nat) : State :=
  (s.waves.filter fun w => w.ashlar == a && !w.away && !w.savedFifo.isEmpty).foldl (fun (s : State) w =>
    let k := 16 - (s.ashlar a).fifo.length
    let new := (w.savedFifo.take k).map fun b => ({ wave := w.id, bytes := b, at_ := s.now + s.cyclesPs a 8 } : FifoEntry)
    (s.modAshlar a fun (x : Ashlar) => new.foldl Ashlar.pushEntry x).modWave w.id fun w => { w with savedFifo := w.savedFifo.drop k }) s

/-- Ends the wait of an instruction that no request answers, where what it waits for holds now. -/
def State.poll (s : State) (w : Wave) (o : Op) : State :=
  let done := fun (s : State) (ds : List (Nat × Dst)) =>
    (s.modWave w.id fun w => w.modOp o.id fun o => { o with wait := .ready }).opReady w.id o.id o.lanes ds
  match o.wait with
  | .ready | .request _ => s
  | .mwait _ sd _ _ => match s.mwaitNow w o with
    | none => s
    | some code =>
      let s1 := done s [(leader o.lanes, .sreg sd (BitVec.ofNat 64 code))]
      let s2 := s1.modWave w.id fun w => { w with watch := w.watch.map fun (x : Watch) => { x with flagged := false } }
      if code = 0 then s2.acquireAt w.ashlar 4 else s2
  | .barrier x token => if (s.barrier w.ashlar x).ph == token then s else (done s []).barAcquire w.ashlar x token
  | .mdrain n => if s.matPending w.ashlar n then s else done s []
  | .cpwait n =>
    if n < (w.batches.filter s.batchLive).length then s else (done s []).acquireAt w.ashlar w.cpScope
  | .qpop q p va keep =>
    if (w.ops.takeWhile (·.id != o.id)).any (·.pops q) then s
    else match w.rows q with
      | [] => s
      | row :: rest =>
        let s1 := done s ((lanesOf o.lanes).map fun l => (l, .vreg l va (row.getD (p * w.width + l) 0)))
        if keep then s1 else s1.modWave w.id fun w => { w with q := w.q.set q rest }
  | .vfpop sd =>
    let earlier := s.waves.any fun v => v.ashlar == w.ashlar && v.ops.any fun k => k.vfpops && decide (k.id < o.id)
    match (s.ashlar w.ashlar).fifo with
    | e :: rest =>
      if earlier || !e.avail then s
      else
        let s1 := done s ((List.range 8).map fun i => (leader o.lanes, .sreg (sd + i) (BitVec.ofNat 64 (field e.bytes (8 * i) 8))))
        (s1.modAshlar w.ashlar fun (x : Ashlar) => { x with fifo := rest }).refillFifo w.ashlar
    | [] => s

/-- Lanes parked for an OENTER that has been granted go on (R117). -/
def Lane.entered (n : Lane) (o clauses : Nat) : Lane :=
  if n.stat == .parked (.oenter o) then { n with stat := .run, since := clauses, waited := 0 } else n

/-- A destination as its parts: a scalar of a control thread is the two registers that name its halves (R163). -/
def Wave.parts (w : Wave) (d : Nat × Dst) : List (Nat × Dst) :=
  match d.2 with
  | .sreg n x =>
    if w.isThread then [(d.1, .vreg 0 (2 * n) (x.extractLsb' 0 32)), (d.1, .vreg 0 (2 * n + 1) (x.extractLsb' 32 32))] else [d]
  | _ => [d]

/-- Delivers the ready values of an instruction to lanes (R153): a destination that a later-issued result has
written keeps it (R329), a p7 of a grant made to a lane in its handler is held (R319), an OTRY that failed no
longer counts as held (R119), and the lanes complete. -/
def Wave.take (w : Wave) (o : Op) (m : Mask) : Wave :=
  let mine := (o.dsts.filter fun d => laneBit m d.1).flatMap w.parts
  let good := mine.filter fun d => !o.skip.any fun k => laneBit k.1 d.1 && k.2 == dstCode d.2
  let w1 := good.foldl (fun (w : Wave) d => match d.2 with
    | .pred l 7 b =>
      if o.isEnter && (w.lane l).handler && !o.handler then w.modLane l fun n => { n with heldP7 := some b } else w.write d.2
    | _ => w.write d.2) w
  let marks := mine.map fun d => (match d.2 with | .sreg _ _ => ~~~0 | _ => oneLane d.1, dstCode d.2)
  let w2 := { w1 with ops := w1.ops.map fun k => if decide (k.id < o.id) then { k with skip := k.skip ++ marks } else k }
  let w3 := (o.drops.filter fun d => laneBit m d.1).foldl (fun (w : Wave) d =>
    w.modLane d.1 fun n => { n with held := n.held.filter fun h => h.1 != d.2 }) w2
  let w4 := w3.modLanes m fun n => n.entered o.id w.clauses
  let w5 := w4.opLess o.id m
  if w5.stat == .saveAsked && w5.saveFor == 1 && !w5.longWait then { w5 with stat := .resident, saveFor := 0 } else w5

/-- The acquire that an instruction's arrival is: of an OENTER granted, an OTRY that entered (Table 5-2). -/
def State.arriveAcquire (s : State) (w : Wave) (o : Op) (m : Mask) : State :=
  let yes := o.dsts.any fun d => laneBit m d.1 && match d.2 with | .pred _ 7 true => true | _ => false
  match decode o.word with
  | .ok (.oenter ..) => s.acquireAt w.ashlar 4
  | .ok (.otry ..) => if yes then s.acquireAt w.ashlar 4 else s
  | _ => s

/-- Whether a special function of the wave to the same register was issued earlier and has not arrived: those arrive in issue
order (R194). -/
def Wave.sfuWaits (w : Wave) (o : Op) : Bool :=
  let sfu := fun (k : Op) => k.word.toNat / 2 ^ 25 == 0x09
  sfu o && (w.ops.takeWhile (·.id != o.id)).any fun k => sfu k && k.regs == o.regs

/-- RESULT ARRIVAL (R153): values of an outstanding instruction are written in the lanes named that have them; the
scoreboard counts off once no lane is left. A saved wave receives them after its restore; a VFPOP of it still takes its entry
(R292). -/
def execResultArrival (s : State) : Out :=
  match s.wave? s.evt.a with
  | none => .next s
  | some w0 =>
    match w0.ops.find? (·.id == s.evt.b) with
      | none => .next s
      | some o0 =>
        if w0.away && !o0.vfpops || w0.sfuWaits o0 || o0.lanes &&& s.evt.mask == 0 then .next s
        else
        let s1 := s.poll w0 o0
        if w0.away then .next s1
        else match s1.wave? w0.id with
        | none => .next s1
        | some w => match w.ops.find? (·.id == o0.id) with
          | none => .next s1
          | some o =>
            let m := o.done &&& o.lanes &&& s.evt.mask
            if m = 0 then .next s1
            else .next (((s1.arriveAcquire w o m).setWave (w.take o m)).poke w.id).settle

/-! ### Context save -/

/-- Writes k units of a run's spill area from unit u on, in the device's own form (R382). -/
def State.spillWrite (s : State) (r : Run) (u k : Nat) : State :=
  let bytes := (List.range (k * 64)).map (Sys2Proof.Config.spillByte s.free)
  { s.writeVa (dieSrc 0) unitTlb r.slot (r.spillBase + u * 64) bytes false with free := s.free + 1 }

/-- The virtual address at which reading k units of a run's spill area from unit u on fails translation or permission, as the queue
path reads it (R343, R382). -/
def State.spillFail (s : State) (r : Run) (u k : Nat) : Option Nat :=
  (lineStarts (r.spillBase + u * 64) (k * 64)).find? fun a => (s.pathFault unitTlb r.slot a 1 { read := true }).isSome

/-- Reads k units of a run's spill area from unit u on: their pages are marked accessed (R84) and the packets numbered (R21). -/
def State.spillRead (s : State) (r : Run) (u k : Nat) : State :=
  s.unitTouch (dieSrc 0) unitTlb r.slot (r.spillBase + u * 64) (k * 64) false

/-- Whether the wave's die parks, so that its waves are saved (R259, R360). -/
def State.parkSaves (s : State) (w : Wave) : Bool := (s.die w.die).parking || (s.die w.die).linkPark || (s.die w.die).parked

/-- Whether a stream of the wave that outputs to a queue register has not completed (R247). -/
def State.streamsOut (s : State) (w : Wave) : Bool :=
  s.reqs.any fun r => r.wave == w.id && match r.body with
    | .matrix (.mstream b) _ => (matBlock b).oq
    | _ => false

/-- Whether a VFPOP of a wave of an ashlar can still complete: an entry is available to it, or has been popped for it and is to be
written once the wave is on the ashlar. -/
def State.popEnds (s : State) (a : Nat) (v : Wave) (o : Op) : Bool :=
  if o.vfpops then (((s.ashlar a).fifo.head?).map (·.avail)).getD false else o.isVfpop && !v.away

/-- Whether the vertical FIFO of an ashlar stands still, as R292 asks before it is saved: no clause that could push or pop is in
execution, every entry pushed has landed, where the wires allow it (R362), and no VFPOP issued can still complete. One issued on an
empty FIFO can not, though R292 has every one complete: it is saved with its thread and takes its entry after the restore (DESIGN
CHOICE, log entry 30). -/
def State.fifoStill (s : State) (a : Nat) : Bool :=
  let x := s.ashlar a
  (s.waves.all fun v => v.ashlar != a || v.clause.isNone) && (x.retired || x.fifo.all (·.avail))
    && s.waves.all fun v => v.ashlar != a || v.ops.all fun o => !s.popEnds a v o

/-- Whether an access of the wave to a space of its ashlar or course can still be performed there. -/
def State.nearPending (s : State) (w : Wave) : Bool :=
  s.reqs.any fun r => r.wave == w.id && s.ready r && match r.body with | .mem m => m.space != 0 && m.space != 2 | _ => false

/-- Whether a wave's arrivals and posted stores that wait for nothing have been performed, as a gate asks before the save (R364). -/
def State.postedDone (s : State) (w : Wave) : Bool :=
  s.reqs.all fun r => r.wave != w.id || match r.body with
    | .packet p => p.kind != .store || p.stage == .performed
    | .mem m => !(m.kind == .store && s.ready r)
    | b => !(b.carried && s.ready r)

/-- Whether a wave is saved with all its ashlar holds: its die parks, or its ashlar is retired. -/
def State.parks (s : State) (w : Wave) : Bool := s.parkSaves w || (s.ashlar w.ashlar).retired

/-- Whether a save of a wave has been requested and not been made (R73). -/
def State.saveDue (s : State) (w : Wave) : Bool := w.stat == .saveAsked || (s.parks w && w.unasked)

/-- Whether a wave can be saved now (R73): asked for or its die or ashlar parks, its clause ended, nothing of it
pending that the save waits for (R247, R292, R364). A stream is saved with the array at a park and outlasts no other save. -/
def State.savable (s : State) (w : Wave) : Bool :=
  s.saveDue w && w.clause.isNone && w.ssets.isEmpty && !s.nearPending w
    && (if s.parks w then s.fifoStill w.ashlar && ((s.die w.die).linkPark || s.postedDone w) else !s.streamsOut w)

/-- The cause of a save: 1 wait, 2 service, 3 park, 4 wire failure, whose ashlar no park restores to. -/
def State.saveCause (s : State) (w : Wave) : Nat :=
  if (s.ashlar w.ashlar).retired then 4 else if s.parkSaves w then 3 else w.saveFor

/-- Lanes asleep keep the cycles they have left while they are saved, and sleep on from the clock at restore
(R292). -/
def Wave.sleepBy (w : Wave) (f : Nat → Nat) : Wave :=
  let by_ := fun (p : Park) => match p with | .sleep t => Park.sleep (f t) | _ => p
  { w with lanes := w.lanes.map fun n =>
      { n with stat := (match n.stat with | .parked p => .parked (by_ p) | _ => n.stat), also := n.also.map by_ } }

/-- Whether records tagged to an ashlar wait on the LOCAL edges of a node of a run: queued, spilled, or on their way. -/
def State.localOn (s : State) (r : Run) (n : Node) (a : Nat) : Bool :=
  let tagged := fun (l : List QRec) => l.any (·.ashlar == some a)
  n.used.any fun e => e.2.isLocal
    && (([0, 1].any fun d => tagged (r.inst e.2.target d).recs || (r.inst e.2.target d).spilled.any fun b => tagged b.2)
      || s.reqs.any fun q => q.run == r.id && match q.body with
        | .append t _ l _ => t == e.2.target && tagged l
        | _ => false)

/-- Whether a wave saved alone must come back to its ashlar (R52): a control thread, and a wave with FIFO entries, LOCAL
reservations or LOCAL records, which are those its node's LOCAL edges have queued with its ashlar (DEDUCED, log entry 70). -/
def State.bound (s : State) (w : Wave) : Bool :=
  w.isThread || !w.savedFifo.isEmpty || match s.run? w.run, s.node? w.run w.node with
    | some r, some n => (w.resv.any fun x => (n.edge x.edge).isLocal && x.left != 0) || s.localOn r n w.ashlar
    | _, _ => false

/-- The wave leaves its ashlar with its context (R73). At a park or a wire failure the FIFO stays whole with the ashlar (R253,
R362). The service of a wave saved for one begins (R321). -/
def State.takeAway (s : State) (w : Wave) (cause : Nat) (units : Option (Nat × Nat)) : State :=
  let x := s.ashlar w.ashlar
  let alone := cause == 1 || cause == 2
  let w1 := (w.sleepBy fun t => t - s.clock (courseOf w.ashlar))
  let mine := if alone then x.fifo.filter fun e => e.wave == w.id else []
  let w2 := { w1 with
    stat := .saved, saveFor := cause, eligible := none, eligFor := 0, savedUnits := units, savedFifo := mine.map (fun (e : FifoEntry) => e.bytes) ++ w.savedFifo
    savedScratch := (List.range w.scrSize).foldl (fun (m : Mem) i => m.write i (x.scratch.read (w.scrBase + i))) [] }
  let w3 := { w2 with savedAt := if !alone || s.bound w2 then some w.ashlar else none }
  let s1 := (s.setWave w3).writeBack (s.l1Group w.ashlar)
  let s2 := s1.modAshlar w.ashlar fun (x : Ashlar) => { x with
      regions := x.regions.filter fun r => r.1 != w.id
      fifo := if alone then x.fifo.filter fun e => e.wave != w.id else x.fifo
      idleSince := s.now }
  ((s2.refillFifo w.ashlar).count w.ashlar 25 1 w.slot).beginService w.id

/-- The 50 µs of R73, in ps. -/
def waitSavePs : Nat := 50000000

/-- WAIT SAVE TIMEOUT (R73, R117, R353): a save is asked for after 50 µs of an MWAIT, or of an OENTER when nothing else
of the wave is runnable. -/
def execWaitSaveTimeout (s : State) : Out :=
  match s.wave? s.evt.a with
  | none => .next s
  | some w =>
    let mw := w.mwaiting && !s.mwaitEnds w
    let en := w.longWait && w.clause.isNone && (s.runnables (s.parkEnters w)).isEmpty
    if w.stat == .resident && (mw || en) && decide (w.waitSince + waitSavePs ≤ s.now) then
      .next (({ s with nextId := s.nextId + 1 }).modWave w.id fun w =>
        { w with stat := .saveAsked, saveFor := 1, saveSeq := s.nextId })
    else .next s

/-! ### Context restore -/

/-- Whether a lane of a wave waits for a section with the number that is due (R121). -/
def State.dueIn (s : State) (w : Wave) : Bool := s.keystones.any fun e => e.waiters.any fun x => x.1 == w.id && x.2.2.1 == e.nextSeq

/-- Whether the reason for a save has ended (R73): an MWAIT returns, a section's number has come due or is granted (R121), a fault
is to be taken; its service ended; its die unparked. -/
def State.saveEnded (s : State) (w : Wave) : Bool :=
  match w.saveFor with
  | 1 => !w.longWait || s.mwaitEnds w || s.dueIn w || w.ops.any (fun o => o.isEnter && o.done &&& o.lanes != 0)
    || w.lanes.any (fun n => n.late.isSome || n.fault.isSome)
  | 2 => w.ticket.isNone
  | 3 => !s.dieHeld w.die
  | _ => true

/-- Gives a saved wave its places on an ashlar: it is being restored there, and its accesses not yet made are that ashlar's.
Its private region lies at the granule given, where it was saved from unless the ashlar's share does not reach so far
(Ashlar.places). -/
def State.startRestore (s : State) (w : Wave) (a granule : Nat) : State :=
  let sh := ((s.residency? a w.run w.node).map fun r => 4096 * r.base).getD 0
  let s1 := s.modAshlar a fun (x : Ashlar) => { x with
    regions := if w.scrSize = 0 then x.regions else x.regions ++ [(w.id, granule, w.scrSize / 4096)]
    scratch := x.scratch.clear (4096 * granule) w.scrSize }
  let s2 := (s1.modAshlar a (·.leave s.now)).setWave { w with
    stat := .restoring, ashlar := a, scrBase := 4096 * granule, shBase := sh, saveSeq := s.nextId, refiles := w.refiles || w.ashlar != a }
  { s2 with
    nextId := s.nextId + 1
    reqs := s2.reqs.map fun (r : Req) => if r.wave == w.id && (match r.body with | .mem m => !m.sent | .fence .. => true | _ => false)
      then { r with ashlar := a } else r }

/-- Whether a lane is one of a wave's active lanes that have not gone. -/
def Lane.there (n : Lane) : Bool := !(n.gone || n.stat == .inactive)

/-- Lanes of a mask take a late fault that no request of theirs raised: HARDWARE with a code, at the word of the clause in
execution where there is one (R309, R312). -/
def Wave.lateHardware (w : Wave) (m : Mask) (set code : Nat) : Wave :=
  { w with lanes := w.lanes.mapIdx fun l n =>
      if laneBit m l && n.there then
        let f : FaultRec := { set := set, cls := cHardware, code := code, late := true, pc := n.pc, amask := m }
        n.addLate w.servedSet (match w.clause with
          | some c => { f with index := c.index, pc := c.pc, header := c.raw, word := c.word }
          | none => f)
      else n }

/-- A wave's context is back on its ashlar: its private scratch, where a park has kept its place, and its FIFO entries, its
registers as saved; an MWAIT that waits returns RESTORED (R52, R114, R253); its subgroups become runnable now (R38); the restore
acquires what its save released (R101). -/
def State.endRestore (s : State) (w : Wave) : State :=
  let ready := ((s.residency? w.ashlar w.run w.node).map (·.ready)).getD true
  let wake := fun (o : Op) => match o.wait with
    | .mwait d sd b _ => if s.armedBefore w o then { o with wait := .mwait d sd b (some 4) } else o
    | _ => o
  let w1 := w.sleepBy fun t => t + s.clock (courseOf w.ashlar)
  let w2 := { w1 with
    stat := if w.serving then .saveAsked else if ready then .resident else .waiting
    saveFor := if w.serving then 2 else 0, savedAt := none, savedUnits := none, savedScratch := []
    waitSince := s.now, ops := w.ops.map wake, lanes := w1.lanes.map fun n => { n with since := w.clauses } }
  let s1 := (s.modAshlar w.ashlar fun (x : Ashlar) => { x with
    regions := if w.scrSize = 0 || x.regions.any (·.1 == w.id) then x.regions else x.regions ++ [(w.id, w.scrBase / 4096, w.scrSize / 4096)]
    scratch := x.scratch.writeN w.scrBase (w.savedScratch.readN 0 w.scrSize) }).modAshlar w.ashlar (·.leave s.now)
  let w3 := if w.badImage then { w2.lateHardware (~~~0) s1.nextId 2 with badImage := false } else w2
  (((({ s1 with nextId := s1.nextId + 1 }.setWave w3).acquireAt w.ashlar 4).refillFifo w.ashlar).poke w.id).settle

/-- Whether everything a wave released at its save has been performed: the write-backs, and its writes that wait for nothing, with
those its lanes made before a REFORM (R101). -/
def State.saveReleased (s : State) (w : Wave) : Bool :=
  (s.backsOf (s.l1Group w.ashlar)).isEmpty && s.reqs.all fun r => (r.wave != w.id && !w.past.any (·.1 == r.id)) || match r.body with
    | .packet p => p.stage == .performed
    | .mem m => !(r.write && s.ready r && (m.space == 0 || m.space == 2))
    | _ => true

/-- Waves saved with a retired ashlar, which are restored together (R362): by its retirement, or by a park before it. -/
def State.groupOf (s : State) (a : Nat) : List Wave :=
  s.waves.filter fun v => v.stat == .saved && v.ashlar == a && (v.saveFor == 4 || (v.saveFor == 3 && (s.ashlar a).retired))

/-- Whether nothing is left to be saved of a retired ashlar: its waves have been, draining ones aside, which go with what it holds. -/
def State.groupSaved (s : State) (a : Nat) : Bool :=
  s.waves.all fun v => v.ashlar != a || v.stat == .saved || v.stat == .draining

/-- Whether an ashlar is empty and can take the group of a retired one. -/
def State.emptyFor (s : State) (a : Nat) : Bool :=
  let x := s.ashlar a
  (s.residentOn a).isEmpty && x.fifo.isEmpty && x.openBins.isEmpty && x.residents.isEmpty && !x.retired && !s.dieHeld (dieOf a)

/-- A LOCAL record of an ashlar, tagged to another. -/
def QRec.retag (q : QRec) (a b : Nat) : QRec := if q.ashlar == some a then { q with ashlar := some b } else q

/-- Moves what a retired ashlar holds to another: barrier objects, FIFO image, array, node-shared scratch with the
residencies, open bins and batches taken; records and slots tagged to it follow, those of appends on their way and requests to its
barrier objects among them (R362). -/
def State.moveAshlar (s : State) (a b : Nat) : State :=
  let x := s.ashlar a
  let s1 := s.modAshlar b fun (y : Ashlar) => { y with
    split := x.split, splitNext := x.splitNext, scratch := x.scratch, regions := x.regions, residents := x.residents
    barriers := x.barriers, fifo := if y.fifoStop then x.fifo else replay s.now (s.cyclesPs b 1) x.fifo, array := x.array, bins := x.bins, rays := x.rays, mlp := x.mlp
    reservedFor := none }
  let s2 := (s1.modAshlar b (·.leave s.now)).modAshlar a fun (y : Ashlar) => { y with
    scratch := [], regions := [], residents := [], barriers := List.replicate 16 Barrier.reset, fifo := [], fifoStop := false
    array := {}, bins := List.replicate 64 none, rays := [], mlp := [] }
  { s2 with
    waves := s2.waves.map fun (w : Wave) =>
      if w.ashlar == a then { w with ashlar := b, savedAt := w.savedAt.map fun c => if c == a then b else c } else w
    reqs := s2.reqs.map fun (r : Req) =>
      let r1 := if r.ashlar == a && (match r.body with | .matrix _ _ | .copy _ | .mem _ | .fence .. => true | _ => false)
        then { r with ashlar := b } else r
      { r1 with body := match r.body with
          | .append n d l o => .append n d (l.map (·.retag a b)) o
          | .barrier op c x m => .barrier op (if c == a then b else c) x m
          | body => body }
    runs := s2.runs.map fun (r : Run) => { r with insts := r.insts.map fun (i : Inst) => { i with
      recs := i.recs.map (·.retag a b), spilled := i.spilled.map fun (k : Nat × List QRec) => (k.1, k.2.map (·.retag a b)) } } }

/-- Whether the waves named fit the energy budget of an ashlar's course, where they are restored (R70). -/
def State.energyFits (s : State) (ws : List Wave) (a : Nat) : Bool :=
  let c := courseOf a
  let own := sumBy (fun (w : Wave) => energyUnits (((s.node? w.run w.node).map (·.energy)).getD w.energy)) ws
  decide (s.courseEnergy c + own ≤ (s.course c).budget)

/-- Whether the group of a retired ashlar can be restored on another that is reserved for it and empty (R362, R70). -/
def State.groupFits (s : State) (a b : Nat) : Bool :=
  s.groupSaved a && (s.ashlar b).reservedFor == some (groupToken a) && s.emptyFor b && s.energyFits (s.groupOf a) b

/-- Whether a saved wave can come back to the ashlar where a park saved it (R291). -/
def State.parkFits (s : State) (w : Wave) (a : Nat) : Bool :=
  w.saveFor == 3 && w.savedAt == some a && !(s.ashlar a).retired && s.energyFits [w] a

/-- Whether a saved wave is one of the group of its ashlar, which is retired. -/
def State.grouped (s : State) (w : Wave) : Bool := (s.groupOf w.ashlar).any (·.id == w.id)

/-- Whether a restore of a wave has been requested and can be made: one placed, one whose park has ended, a group with an ashlar to
go to. -/
def State.backDue (s : State) (w : Wave) : Bool :=
  w.stat == .restoring || (w.stat == .saved && s.saveReleased w && !s.dieHeld w.die
    && ((w.savedAt.map (s.parkFits w)).getD false || (s.grouped w && (List.range 128).any (s.groupFits w.ashlar))))

/-- Whether a save or restore of a wave comes before those of its die that were requested later: the transfers of a die are made in
the order of their requests, each whole (R73). Waves of one group come back together (R362). -/
def State.transferFirst (s : State) (w : Wave) : Bool :=
  s.waves.all fun v => v.die != w.die || v.id == w.id || decide (w.saveSeq ≤ v.saveSeq) || !(s.saveDue v || s.backDue v)
    || (s.grouped w && s.grouped v && v.ashlar == w.ashlar)

/-- Reads the saved contexts of waves back from the spill areas; where a read fails translation or permission it ends that run
(SPILLFAULT, R343). -/
def State.contextsRead (s : State) (ws : List Wave) : State ⊕ State :=
  ws.foldl (fun acc w => match acc with
    | .inl t => .inl t
    | .inr t => match w.savedUnits, t.run? w.run with
      | some (u, k), some r => match t.spillFail r u k with
        | some a => .inl (t.abortRun r.id 2 w.node a)
        | none => .inr (t.spillRead r u k)
      | _, _ => .inr t) (.inr s)

/-- The waves named come back, their contexts read, in the state that a change gives them. -/
def State.bringBack (s : State) (ws : List Wave) (f : State → State) : State :=
  match s.contextsRead ws with
  | .inl t => t
  | .inr t => ws.foldl (fun (t : State) v => match t.wave? v.id with | some x => t.endRestore x | none => t) (f t)

/-- CONTEXT RESTORE (R52, R70, R73, R291, R362): a wave placed again comes back; after a park every wave saved there comes
back to its ashlar; the group of a retired ashlar comes back together on an empty one. -/
def execContextRestore (s : State) : Out :=
  let a := s.evt.b
  match s.wave? s.evt.a with
  | none => .next s
  | some w =>
    if !s.backDue w || !s.transferFirst w then .next s
    else if w.stat == .restoring then (if w.ashlar == a then .next (s.bringBack [w] id) else .next s)
    else if s.parkFits w a then .next (s.bringBack [w] id)
    else if s.grouped w && s.groupFits w.ashlar a then .next (s.bringBack (s.groupOf w.ashlar) fun t => t.moveAshlar w.ashlar a)
    else .next s

/-! ### REFORM bins -/

/-- The 2,000 ns of R43. -/
def Node.binPs (n : Node) : Nat := 1000 * if n.binage = 0 then 2000 else n.binage

/-- A bin of an ashlar has closed: the lanes that wait there at a REFORM try again, at the next boundary of their wave (R42). -/
def State.refile (s : State) (a : Nat) : State :=
  let ws := s.waves.filter fun w => w.ashlar == a && w.lanes.any Lane.atReform
  ws.foldl (fun (s : State) w => (s.modWave w.id fun w => { w with refiles := true }).poke w.id) s

/-- REFORM BIN CLOSE (R43): a bin that holds W lanes, or whose age has come, becomes a wave once private scratch for it
is free. Its lanes keep what they were to wait for (R109). -/
def execReformBinClose (s : State) : Out :=
  let a := s.evt.a
  let x := s.ashlar a
  match (x.bins.getD s.evt.b none) with
  | none => .next s
  | some b => match s.node? b.run b.node with
    | none => .next s
    | some nd =>
      let due := decide (b.width ≤ b.lanes.length) || decide (b.since + nd.binPs ≤ s.now)
      if !due || s.dieHeld (dieOf a) || x.retired || s.awaited a none then .next s
      else match s.tables b.run (dieOf a) b.slot nd, findGranules x.usedGranules x.granules nd.pscr 0 with
        | .inl addr, _ => .next (s.abortRun b.run 8 b.node addr)
        | .inr _, none => .next s
        | .inr (k, c), some (g, _) =>
          let w0 := startWave s.nextId b.run b.slot b.node nd a 0 b.pc [] b.lanes.length k c s.now
          let w1 := { w0 with
            resv := b.resv
            s := List.replicate 64 0
            lanes := w0.lanes.mapIdx fun i (n : Lane) => match b.lanes[i]? with
              | some f => { n with v := f.v, p := f.p }
              | none => n
            past := b.lanes.zipIdx.flatMap fun f => f.1.past.map fun r => (r, oneLane f.2)
            hold := b.lanes.zipIdx.flatMap fun f => f.1.hold.map fun h => ⟨h.1, h.2.1, oneLane f.2, h.2.2⟩
            relFences := b.lanes.zipIdx.flatMap fun f => f.1.rel.map fun sc => (oneLane f.2, sc) }
          let base := ((s.residency? a b.run b.node).map (·.base)).getD 0
          let s1 := (({ s with nextId := s.nextId + 1 }).touchTables (dieOf a) b.slot nd).modAshlar a fun (x : Ashlar) => { x with bins := x.bins.set s.evt.b none }
          .next ((s1.takeOn w1 g base).refile a)

/-! ### Retirement -/

/-- Whether a stream of a draining wave is held at a pass boundary (R45, R236). -/
def State.streamStuck (s : State) (w : Wave) : Bool :=
  w.stat == .draining && (s.ashlar w.ashlar).array.streams.any fun t =>
    t.wave == w.id && decide (t.planes.length < (matBlock t.block).kch)
      && decide (t.planes.length * (matBlock t.block).m ≤ t.got.length)

/-- Whether everything R45 waits for is done: no request of the wave in flight, nothing left of its clauses, its saved FIFO entries
back in the FIFO unless its run is cancelled (R253). -/
def State.retirable (s : State) (w : Wave) : Bool :=
  (w.savedFifo.isEmpty || ((s.run? w.run).map (·.cancelling)).getD true) && (w.stat == .draining || (w.away && !w.active)) && w.clause.isNone && w.ssets.isEmpty && s.reqs.all fun r => r.wave != w.id

/-- Waves that waited for the prologue of a node on an ashlar may issue (R36, R287). -/
def State.prologueDone (s : State) (a run n : Nat) : State :=
  let s1 := s.modAshlar a fun (x : Ashlar) => { x with
    residents := updWhere (fun r => r.run == run && r.node == n) (fun (r : Residency) => { r with ready := true }) x.residents }
  { s1 with waves := s1.waves.map fun (w : Wave) =>
      if w.stat == .waiting && w.ashlar == a && w.run == run && w.node == n then { w with stat := .resident } else w }

/-- Frees what a wave holds and removes it (R45). -/
def State.retire (s : State) (w : Wave) : State :=
  let s1 := match s.node? w.run w.node with
    | some nd => s.modRun w.run fun r => r.returnAll nd w.resv
    | none => s
  let s2 := s1.modAshlar w.ashlar fun (x : Ashlar) => { x with
    regions := x.regions.filter fun r => r.1 != w.id, idleSince := s.now }
  let s3 := { s2 with waves := s2.waves.filter fun v => v.id != w.id }
  let s4 := s3.count w.ashlar 16 1 w.slot
  if w.prologue then s4.prologueDone w.ashlar w.run w.node else s4

/-- WAVE RETIREMENT (R45). -/
def execWaveRetirement (s : State) : Out :=
  match s.wave? s.evt.a with
  | none => .next s
  | some w => if s.retirable w then .next (s.retire w) else .next s

/-- The matrix requests of a wave whose streams run. -/
def State.wavesStreams (s : State) (w : Wave) : List Stream := (s.ashlar w.ashlar).array.streams.filter fun t => t.wave == w.id

/-- Stops a stream: its command ends with status CANCELLED and writes no further row (R238). -/
def State.stopStream (s : State) (w : Wave) (t : Stream) : State :=
  let b := matBlock t.block
  let s1 := s.modAshlar w.ashlar fun (x : Ashlar) => { x with
    array := { x.array with streams := x.array.streams.filter fun k => k.req != t.req } }
  (s1.dropReq t.req).ringPost w.id b.ring { status := 3, tag := b.tag, moved := t.row * b.rowBytes }

/-- DRAINING STREAM TIMEOUT (R45, R322): the stream is stopped and the run ends as for an unserviced WATCHDOG. -/
def execDrainingStreamTimeout (s : State) : Out :=
  match s.wave? s.evt.a with
  | none => .next s
  | some w =>
    if !(s.streamStuck w && decide (watchdogPs ≤ w.streamHeld) && s.counting) then .next s
    else
      let s1 := ((s.wavesStreams w).filter fun t => decide (t.planes.length < (matBlock t.block).kch)).foldl (fun (s : State) t => s.stopStream w t) s
      match s1.run? w.run with
      | none => .next s1
      | some r =>
        if r.cancelling || r.posted then .next s1
        else
          let rec_ : ErrRec := { kind := 0, cls := cWatchdog, slot := w.slot, node := w.node, run := w.run, late := true
                                 ashlar := w.ashlar, waveseq := w.seqno.toNat % 2 ^ 32 }
          .next (((s1.postErr rec_).modRun w.run fun r => { r with posted := true }).cancelRun w.run .fault w.node)

/-! ### The ashlar -/

/-- Whether no wave of a node, open bins and batches of a matrix node included, is on an ashlar. -/
def State.unused (s : State) (a run n : Nat) : Bool :=
  !(s.residentOn a).any (fun w => w.run == run && w.node == n) && !((s.ashlar a).openBins.any fun b => b.run == run && b.node == n)
    && !(s.ashlar a).mlp.any fun b => b.run == run && b.node == n

/-- Releases a residency: its shared region, and the array of a MATRIX node (R36). -/
def State.releaseNode (s : State) (a run n : Nat) : State :=
  s.modAshlar a fun (x : Ashlar) => { x with
    residents := x.residents.filter fun r => !(r.run == run && r.node == n)
    array := if x.array.bound == some (run, n) then { x.array with bound := none } else x.array }

/-- Node-shared regions that reach beyond a granule and are of no resident wave are released (R71). -/
def State.releaseBeyond (s : State) (a limit : Nat) : State :=
  ((s.ashlar a).residents.filter fun r => decide (limit < r.base + r.granules) && s.unused a r.run r.node).foldl
    (fun (s : State) r => s.releaseNode a r.run r.node) s

/-- SPLIT CHANGE (R71): the share shrinks once nothing lies beyond the new limit; it grows once the L1 is written back, to the last
write-back, and invalidated, while lane accesses wait (State.walkWaits). Scratch gained is zero. -/
def execSplitChange (s : State) : Out :=
  let a := s.evt.a
  match (s.ashlar a).splitNext with
  | none => .next s
  | some n =>
    let old := splitGranules (s.ashlar a).split
    let new := splitGranules n
    let s1 := if new < old then s.releaseBeyond a new else (s.writeBack [a]).l1Invalidate [a]
    if ((s1.ashlar a).usedGranules.any fun u => u.2 != 0 && decide (new < u.1 + u.2)) || (decide (old < new) && !(s1.backsOf [a]).isEmpty) then
      .next s1
    else .next (s1.modAshlar a fun (x : Ashlar) => { x with
      split := n, splitNext := none, scratch := x.scratch.clear (4096 * min old new) (4096 * (max old new - min old new)) })

/-- The 20 µs of R305, in ps. -/
def idlePs : Nat := 20000000

/-- RETENTION ENTRY (R305): contents are kept; no program sees a difference. -/
def execRetentionEntry (s : State) : Out :=
  let a := s.evt.a
  let x := s.ashlar a
  if decide ((s.course (courseOf a)).point ≤ 3) && (s.residentOn a).isEmpty && x.openBins.isEmpty && decide (x.idleSince + idlePs ≤ s.now) then
    .next (s.modAshlar a fun (x : Ashlar) => { x with retained := some (x.retained.getD s.now) })
  else .next s

end Sys2Proof.Machine
end

