-- ==== Sys2Proof/Machine/Launch.lean ====
section
/-! DEFINITION. Jobs, phases and runs as they begin and end (spec 03_scheduling.md R53 to R57; 02_graphs.md R30, R31, R46 to R50,
R380; 12_fixed_nodes.md R263, R282; 11_isa_engines.md R251; 13_programs_graphs.md R289): the root queue, phase entries, run
descriptors and their checks, completion and event records. -/

namespace Sys2Proof.Machine

/-! ### Descriptors -/

/-- Bits lo and up, n of them, of a number. -/
def bitsAt (x lo n : Nat) : Nat := x / 2 ^ lo % 2 ^ n

/-- Output edge of an entry word (Table 2-2). -/
def edgeOf (w : Nat) : Edge := { target := w % 256, emits := bitsAt w 8 8, isLocal := bitsAt w 16 1 == 1 }

/-- The node of 128 bytes (Table 2-1). -/
def nodeOf (b : List Byte) : Node where
  entry := field b 0 8
  prologue := field b 8 8
  ktab := field b 16 8
  buftab := field b 24 8
  trappc := field b 32 8
  fixparam := field b 40 8
  trapen := field b 48 4
  qcap := field b 52 4
  recsize := field b 56 2
  batchage := field b 58 2
  maxwaves := field b 60 2
  binage := field b 62 2
  kind := field b 64 1
  fixunit := field b 65 1
  width := field b 66 1
  regs := field b 67 1
  pscr := field b 68 1
  sscr := field b 69 1
  kcount := field b 70 1
  bcount := field b 71 1
  prio := bitsAt (field b 72 1) 0 3
  energy := bitsAt (field b 72 1) 3 2
  ordered := bitsAt (field b 72 1) 5 1 == 1
  matrix := bitsAt (field b 72 1) 6 1 == 1
  div := bitsAt (field b 72 1) 7 1 == 1
  split := bitsAt (field b 73 1) 0 2
  l1mode := bitsAt (field b 73 1) 2 2
  edges := (List.range 8).map fun i => edgeOf (field b (80 + 4 * i) 4)

/-- The reserved fields of a node descriptor and its edges are zero. -/
def nodeReserved (b : List Byte) : Bool :=
  bitsAt (field b 73 1) 4 4 == 0 && field b 74 6 == 0 && field b 112 16 == 0
    && (List.range 8).all fun i => bitsAt (field b (80 + 4 * i) 4) 17 15 == 0

/-- Units of KIND 2. -/
def Node.isFixed (n : Node) (u : Nat) : Bool := n.kind == 2 && n.fixunit == u
/-- Program node. -/
def Node.isProgram (n : Node) : Bool := n.kind == 0

/-- Whether n bytes translate with read permission for a die's units. -/
def State.okVa (s : State) (d slot va n : Nat) : Bool := (s.pathFault (dieTlb d) slot va n { read := true }).isNone

/-- Bytes that a die's units read, as they stood for a key (R99, R264). -/
def State.readAs (s : State) (k : CodeKey) (u slot va n : Nat) : List Byte :=
  (List.range n).map fun i => s.codeByte k (s.paOf u slot (va + i))

/-- A read by the launching unit: its pages are accessed where it is allowed (R84), its packets sent (R21). -/
def State.launchTouch (s : State) (slot va n : Nat) : State :=
  if s.okVa 0 slot va n then s.unitTouch (dieSrc 0) unitTlb slot va n false else s

/-- An aligned address. -/
def alignedTo (a n : Nat) : Bool := a % n == 0

/-- The checks of a node by kind (Table 2-3). -/
def Node.kindOk (n : Node) : Bool :=
  match n.kind with
  | 0 => (n.width == 16 || n.width == 32 || n.width == 64) && decide (1 ≤ n.regs) && decide (n.regs ≤ 128)
      && decide (n.recsize / 4 ≤ n.regs) && (n.trappc == 0 || decide (16 ≤ n.regs)) && n.entry != 0
      && decide (n.pscr + n.sscr ≤ if n.split = 0 then 80 else splitGranules n.split) && (!n.matrix || n.width == 64)
  | 1 => n.width == 0 && n.regs == 0 && !n.matrix && n.split == 0 && n.l1mode == 0 && n.prologue == 0 && n.entry != 0
  | 2 => decide (1 ≤ n.fixunit) && decide (n.fixunit ≤ 5) && n.width == 0 && n.regs == 0 && n.pscr == 0 && n.sscr == 0
      && !n.matrix && !n.div && (match n.fixunit with
        | 1 => n.recsize == 64
        | 2 | 3 => n.recsize == 16
        | 4 => n.recsize == 48
        | _ => true)
  | _ => false

/-- The checks of Table 2-3 that hold of every node but the translation of its tables; all is the graph. -/
def Node.fieldsOk (n : Node) (all : List Node) : Bool :=
  decide (16 ≤ n.recsize) && decide (n.recsize ≤ 256) && n.recsize % 16 == 0 && n.qcap != 0
    && (n.used.all fun e => decide (e.2.target < all.length))
    && (n.edges.all fun e => !e.isLocal || (n.isProgram && ((all[e.target]?).map Node.isControl).getD false))
    && n.l1mode != 3 && alignedTo n.entry 16 && alignedTo n.prologue 16 && alignedTo n.trappc 16
    && (n.kcount == 0 || alignedTo n.ktab 8) && (n.bcount == 0 || alignedTo n.buftab 32)
    && decide (n.kcount ≤ 64) && decide (n.bcount ≤ 16) && decide (n.pscr ≤ 80) && decide (n.sscr ≤ 80)
    && n.kindOk

/-! ### Fixed nodes (R263, R282) -/

/-- A layer of a network (Table 12-15). -/
structure Layer where
  waddr : Nat
  baddr : Nat
  n : Nat
  wfmt : Nat
  epi : Nat
  deriving DecidableEq, Repr

/-- A network descriptor (Table 12-14). -/
structure Network where
  layers : List Layer
  cfmt : Nat
  outfmt : Nat
  inputs : Nat
  inoff : Nat
  outoff : Nat
  copy : Nat
  reserved : Nat
  deriving DecidableEq, Repr

/-- The network of the bytes of a descriptor. -/
def networkOf (b : List Byte) : Network where
  layers := (List.range (min 8 (field b 0 1))).map fun l =>
    { waddr := field b (64 + 32 * l) 8, baddr := field b (72 + 32 * l) 8, n := field b (80 + 32 * l) 2
      wfmt := field b (82 + 32 * l) 1, epi := field b (83 + 32 * l) 1 }
  cfmt := field b 1 1
  outfmt := field b 2 1
  inputs := field b 4 2
  inoff := field b 6 2
  outoff := field b 8 2
  copy := field b 10 2
  reserved := field b 3 1 + field b 12 52 + (if 8 < field b 0 1 then 1 else 0)
    + sumBy (fun l => field b (84 + 32 * l) 12) (List.range (min 8 (field b 0 1)))

/-- Bytes of a network descriptor with its layers. -/
def networkBytes (layers : Nat) : Nat := 64 + 32 * min 8 layers

/-- The launch checks of a network (R282). -/
def Network.ok (w : Network) (recsize target : Nat) : Bool :=
  w.reserved == 0 && !w.layers.isEmpty && decide (1 ≤ w.cfmt) && decide (w.cfmt ≤ 3) && decide (w.outfmt ≤ 3)
    && decide (1 ≤ w.inputs) && decide (w.inputs ≤ 256) && decide (w.copy ≤ 256)
    && alignedTo w.inoff (codeBits w.cfmt / 8) && alignedTo w.outoff (codeBits w.outfmt / 8)
    && (w.layers.all fun l => decide (1 ≤ l.n) && decide (l.n ≤ 256) && decide (l.epi ≤ 4) && (chunkLen w.cfmt l.wfmt).isSome
        && alignedTo l.baddr 4 && alignedTo l.waddr 4096)
    && decide (w.inoff + w.inputs * codeBits w.cfmt / 8 ≤ recsize) && decide (w.copy ≤ target)
    && decide (w.outoff + ((w.layers.getLast?.map (·.n)).getD 0) * codeBits w.outfmt / 8 ≤ target)

/-- A network descriptor as it stood for a key (R264); none where it does not translate. -/
def State.network? (s : State) (k : CodeKey) (d slot va : Nat) : Option Network :=
  let n := networkBytes (field (s.readAs k (dieTlb d) slot va 64) 0 1)
  if s.okVa d slot va 64 && s.okVa d slot va n then some (networkOf (s.readAs k (dieTlb d) slot va n)) else none

/-- Nodes with an edge into node i. -/
def sourcesOf (all : List Node) (i : Nat) : List Node := all.filter fun n => n.used.any fun e => e.2.target == i

/-- Edges into node i. -/
def edgesInto (all : List Node) (i : Nat) : Nat := sumBy (fun n => (n.used.filter fun e => e.2.target == i).length) all

/-- Only EDGE0 is used, into a node that satisfies a test. -/
def Node.edge0Only (n : Node) (all : List Node) (p : Node → Bool) : Bool :=
  match n.used with
  | [(0, e)] => ((all[e.target]?).map p).getD false
  | _ => false

/-- The conditions of a node's place in the graph (Table 12-1, R265); i is its index. -/
def State.placeOk (s : State) (k : CodeKey) (slot : Nat) (all : List Node) (i : Nat) (n : Node) : Bool :=
  let from_ := sourcesOf all i
  let targets := n.used.filterMap fun e => all[e.2.target]?
  match n.kind with
  | 2 => match n.fixunit with
    | 1 => n.ordered && from_.all (·.isProgram) && n.edge0Only all fun t => t.isFixed 2
    | 2 => n.fixparam == 0 && edgesInto all i == 1 && from_.all (·.isFixed 1) && n.edge0Only all fun t => t.isFixed 3
    | 3 => edgesInto all i == 1 && from_.all (·.isFixed 2)
        && targets.all fun t => (t.isProgram || t.isControl) && t.recsize == 32
    | 4 => n.fixparam == 0 && (from_.all fun m => m.isProgram || m.isControl) && (targets.all fun t => t.recsize == 32)
        && n.used.all fun e => decide (e.1 ≤ 1)
    | _ => (from_.all fun m => m.isProgram || m.isControl) && n.edge0Only all (fun _ => true)
        && match s.network? k 0 slot n.fixparam with
          | some w => w.ok n.recsize ((targets.head?.map (·.recsize)).getD 0)
          | none => false
  | _ => (targets.all fun t => !(t.isFixed 2 || t.isFixed 3)) && (n.ordered || !(targets.any fun t => t.isFixed 1))

/-- The first node of a graph that fails a check (R31, R263); none where all pass. A descriptor that holds an uncorrectable error
gives no data (R345) and passes no check (DESIGN CHOICE, log entry 70). -/
def State.badNode (s : State) (k : CodeKey) (slot graph nodes : Nat) : Option Nat :=
  let u := 0
  let bytes := fun (i : Nat) => (s.unitRead? u slot (graph + 128 * i) 128).getD (List.replicate 128 0xFF)
  let all := (List.range nodes).map fun i => nodeOf (bytes i)
  (List.range nodes).find? fun i =>
    let n := all.getD i (nodeOf [])
    !(s.okVa u slot (graph + 128 * i) 128 && s.cleanVa unitTlb slot (graph + 128 * i) 128 && nodeReserved (bytes i) && n.fieldsOk all
      && s.okVa u slot n.ktab (8 * n.kcount) && s.okVa u slot n.buftab (32 * n.bcount) && s.placeOk k slot all i n)

/-! ### The end of runs, phases and jobs -/

/-- A job ends (R48, R50, R298): its record, its vector, its lease and requests on the link; the slot is free. -/
def State.endJob (s : State) (n : Nat) (st : Status) (node : Nat) : State :=
  let x := s.slot n
  let (s1, ok) := s.post n x.jring (eventRecord st 2 n node x.lastRun s.time 0 0 x.tag.toNat)
  let s2 := if ok && x.msi then s1.msi n else s1
  let s3 := ({ s2 with link := { s2.link with pending := s2.link.pending.filter fun r => r.slot != n } }).endLease n
  (s3.modSlot n fun x => { x with bound := false, started := false }).codeEnd (.slot n)

/-- A phase ends (R48 to R50, R380): its record; the job goes on to its next phase or ends. -/
def State.endPhase (s : State) (n : Nat) : State :=
  let x := s.slot n
  let bad := x.phaseStatus == .fault || x.phaseStatus == .invalid
  let st := if bad then x.phaseStatus else if x.phaseCancelled then .cancelled else .ok
  let node := if bad then x.phaseNode else 0
  let (s1, _) := s.post n x.jring (eventRecord st 1 n node x.phaseRun s.time 0 0 x.tag.toNat)
  let any := x.anyCancelled || st == .cancelled
  let s2 := (s1.endLease n).modSlot n fun x => { x with anyCancelled := any, started := false, phase := x.phase + 1 }
  if bad then s2.endJob n st node
  else if x.jobCancel || decide (x.nphase ≤ x.phase + 1) then s2.endJob n (if x.jobCancel || any then .cancelled else .ok) 0
  else s2

/-- The phase of a slot ends once none of its runs and launches is left (R48). -/
def State.checkPhase (s : State) (n : Nat) : State :=
  let x := s.slot n
  if x.bound && x.started && s.runs.all (fun r => r.slot != n) && s.launches.all (fun l => l.slot != n) then s.endPhase n else s

/-- A run of a slot has ended: the phase takes the status and node of its first FAULT or INVALID (R380). -/
def State.runEnded (s : State) (n run : Nat) (st : Status) (node : Nat) : State :=
  (s.modSlot n fun x => { x with
    lastRun := run, phaseRun := run
    phaseStatus := if x.phaseStatus == .ok && (st == .fault || st == .invalid) then st else x.phaseStatus
    phaseNode := if x.phaseStatus == .ok && (st == .fault || st == .invalid) then node else x.phaseNode }).checkPhase n

/-! ### Launching -/

/-- A run descriptor (Table 3-2). -/
structure RunDesc where
  graph : Nat
  nodes : Nat
  rootn : Nat
  flags : Nat
  roottab : Nat
  ring : Nat
  spillBase : Nat
  spillSize : Nat
  spillTo : Nat
  tag : Nat
  reserved : Nat
  deriving DecidableEq, Repr

/-- The fields of a run descriptor. -/
def runDescOf (b : List Byte) : RunDesc where
  graph := field b 0 8
  nodes := field b 8 2
  rootn := field b 10 1
  flags := field b 11 1
  roottab := field b 16 8
  ring := field b 24 8
  spillBase := field b 32 8
  spillSize := field b 40 4
  spillTo := field b 44 4
  tag := field b 48 8
  reserved := field b 11 1 / 2 + field b 12 4 + field b 56 8

/-- A root table entry (R55): address, count, target, reserved bytes. -/
structure Root where
  addr : Nat
  count : Nat
  node : Nat
  reserved : Nat
  deriving DecidableEq, Repr

/-- The root table entries of a descriptor. -/
def State.roots (s : State) (slot : Nat) (d : RunDesc) : List Root :=
  (List.range d.rootn).map fun i =>
    let b := (s.unitRead? 0 slot (d.roottab + 16 * i) 16).getD []
    { addr := field b 0 8, count := field b 8 4, node := field b 12 1, reserved := field b 13 3 }

/-- The checks of R57 on a run descriptor, its root table and the root records; a descriptor or table that cannot be read passes
none (R345; DESIGN CHOICE, log entry 70). -/
def State.descOk (s : State) (slot desc : Nat) (d : RunDesc) : Bool :=
  s.okVa 0 slot desc 64 && s.cleanVa unitTlb slot desc 64 && s.cleanVa unitTlb slot d.roottab (16 * d.rootn) && d.reserved == 0 && decide (1 ≤ d.rootn) && decide (d.rootn ≤ 8) && decide (1 ≤ d.nodes)
    && decide (d.nodes ≤ 256) && alignedTo d.graph 128 && alignedTo d.roottab 16 && s.okVa 0 slot d.roottab (16 * d.rootn)
    && (s.roots slot d).all fun r => decide (r.node < d.nodes) && r.reserved == 0
        && s.okVa 0 slot r.addr (r.count * field ((s.unitRead? 0 slot (d.graph + 128 * r.node) 128).getD []) 56 2)

/-- Whether an identifier is in use (R47). -/
def State.runIdLive (s : State) (id : Nat) : Bool :=
  id == 0 || (s.runs.any fun r => r.id == id) || (s.keystones.any fun e => e.run == id) || (s.reductions.any fun x => x.run == id)
    || s.ashlars.any fun a => (a.barriers.any fun b => b.state != .idle && b.run == id) || a.openBins.any fun b => b.run == id

/-- The next free identifier from the counter's value, and the counter after it. -/
def State.nextRunId (s : State) (c : Word) : Nat → Nat × Word
  | 0 => (c.toNat, c + 1)
  | fuel + 1 => if s.runIdLive c.toNat then s.nextRunId (c + 1) fuel else (c.toNat, c + 1)

/-- A launch that fails its checks ends as a run with status INVALID (R57, R251). -/
def State.invalidRun (s : State) (l : Launch) (d : RunDesc) (id node : Nat) : State :=
  let (s1, ok) := s.post l.slot d.ring (eventRecord .invalid 0 l.slot node id s.time 0 0 d.tag)
  (if ok && d.flags % 2 == 1 then s1.msi l.slot else s1).runEnded l.slot id .invalid node

/-- The run of a descriptor whose checks have passed. -/
def State.newRun (s : State) (l : Launch) (d : RunDesc) (id : Nat) : Run :=
  let nodes := (List.range d.nodes).map fun i => nodeOf ((s.unitRead? 0 l.slot (d.graph + 128 * i) 128).getD [])
  { id := id, slot := l.slot, desc := l.desc, nodes := nodes, ring := d.ring, tag := BitVec.ofNat 64 d.tag, msi := d.flags % 2 == 1
    spillBase := d.spillBase, spillSize := d.spillSize, spillTo := if d.spillTo = 0 then 20 else d.spillTo
    orderedDie := l.die.getD 0, insts := List.replicate (2 * d.nodes) {}, sink := sinkDistances nodes, placedAt := s.now
    bins := (List.range d.nodes).filterMap fun i => if (nodes.getD i (nodeOf [])).isFixed 1 then some { node := i } else none }

/-- The root records of an entry as a request that appends them (R55): to an ordered target's die, to the launching
wave's die, or to the die chosen for the entry. -/
def State.feedRoot (s : State) (r : Run) (l : Launch) (chosen : Nat) (e : Root) : State :=
  if e.count = 0 then s
  else
    let size := ((r.node? e.node).map (·.recsize)).getD 0
    let die := if r.isOrdered e.node then r.orderedDie else l.die.getD chosen
    let recs := (List.range e.count).map fun i =>
      ({ bytes := s.readVa (dieTlb 0) l.slot (e.addr + i * size) size } : QRec)
    { s with
      nextId := s.nextId + 1
      reqs := s.reqs ++ [{ id := s.nextId, wave := 0, run := r.id, slot := l.slot, path := pathQ, write := true, read := false
                           body := .append e.node die recs [] }] }

/-- The roots of a run are fed once none of its root records waits (R46). -/
def State.checkFed (s : State) (run : Nat) : State :=
  if s.reqs.any fun q => q.run == run && q.wave == 0 && match q.body with | .append _ _ _ _ => true | _ => false then s
  else s.modRun run fun r => { r with rootsFed := true }

/-- Starts the run of a launch (R46, R47, R57, R31), with a die chosen for each root entry. -/
def State.launchRun (s : State) (l : Launch) (dies : Mask) : State :=
  let (id, c) := s.nextRunId s.runCounter 4096
  let live := (s.runAt? l.slot l.desc).isSome
  let k := CodeKey.launch l.id
  let s1 := { s with launches := s.launches.filter fun k => k.id != l.id, runCounter := c }
  match s1.unitRead? 0 l.slot l.desc 64 with
  | none => ((s1.codeEnd k).postDrop l.slot).runEnded l.slot id .invalid 0
  | some b =>
    let d := runDescOf b
    let s2 := (s1.launchTouch l.slot l.desc 64).launchTouch l.slot d.roottab (16 * d.rootn)
    if live || !s2.descOk l.slot l.desc d then (s2.codeEnd k).invalidRun l d id 0
    else
      let s3 := s2.launchTouch l.slot d.graph (128 * d.nodes)
      let r := s3.newRun l d id
      let s4 := (r.nodes.filter fun n => n.isFixed 5).foldl (fun (s : State) n =>
        s.launchTouch l.slot n.fixparam (networkBytes (field (s.readAs k unitTlb l.slot n.fixparam 64) 0 1))) s3
      match s4.badNode k l.slot d.graph d.nodes with
      | some n => (s4.codeEnd k).invalidRun l d id n
      | none =>
        let es := s4.roots l.slot d
        let size := fun (n : Nat) => ((r.node? n).map (·.recsize)).getD 0
        let s5 := es.foldl (fun (s : State) e => s.launchTouch l.slot e.addr (e.count * size e.node)) s4
        let s6 := { (s5.codeCopy k (.run id)).codeEnd k with runs := s5.runs ++ [r] }
        ((List.range es.length).foldl (fun (s : State) i =>
          s.feedRoot r l (if laneBit dies i then 1 else 0) (es.getD i ⟨0, 0, 0, 0⟩)) s6).checkFed id

/-- Live runs of a job. -/
def State.liveRuns (s : State) (slot : Nat) : Nat := (s.runs.filter fun r => r.slot == slot).length

/-- The launch the scheduler takes next (R251): the first whose job holds fewer than 64 live runs, while the device
holds fewer than 256 and the launch's release is performed. -/
def State.nextLaunch (s : State) : Option Launch :=
  if 256 ≤ s.runs.length then none
  else s.launches.find? fun l => decide (s.liveRuns l.slot < 64)
    && match l.after with | some f => s.isDone (f, 0) | none => true

/-- A launch that waits ends with its phase or job: an event record with STATUS 1 and RUN 0, and the vector its FLAGS ask for
(R251). -/
def State.dropLaunch (s : State) (l : Launch) : State :=
  let s1 := { s with launches := s.launches.filter fun k => k.id != l.id }.codeEnd (.launch l.id)
  match s1.unitRead? 0 l.slot l.desc 64 with
  | none => s1.postDrop l.slot
  | some b =>
    let d := runDescOf b
    let (s2, ok) := (s1.launchTouch l.slot l.desc 64).post l.slot d.ring (eventRecord .cancelled 0 l.slot 0 0 s1.time 0 0 d.tag)
    if ok && d.flags % 2 == 1 then s2.msi l.slot else s2

/-- RUN LAUNCH (R46, R251): the launch the scheduler takes next is started; one whose phase or job is cancelled is dropped. -/
def execRunLaunch (s : State) : Out :=
  match s.launches.find? fun l => l.id == s.evt.a && ((s.slot l.slot).phaseCancelled || (s.slot l.slot).jobCancel) with
  | some l => .next ((s.dropLaunch l).checkPhase l.slot)
  | none => match s.nextLaunch with
    | some l => if l.id == s.evt.a then .next (s.launchRun l s.evt.mask) else .next s
    | none => .next s

/-! ### Phases and jobs -/

/-- Whether the next phase of a slot is due to start (R48, R289). -/
def State.phaseDue (s : State) (n : Nat) : Bool := (s.slot n).bound && !(s.slot n).started

/-- PHASE START (R48, R55, R289): the phase-list entry is read and its runs go to the scheduler. The release that launches them is
the host's write of the job's record for the first phase, and the start of the phase for another (R99; DEDUCED, log entry 58). -/
def execPhaseStart (s : State) : Out :=
  let n := s.evt.a
  let x := s.slot n
  if !s.phaseDue n then .next s
  else
    let at_ := x.phases + 16 * x.phase
    let s1 := (s.launchTouch n at_ 16).modSlot n fun x => { x with
      started := true, phaseStatus := .ok, phaseCancelled := false, phaseNode := 0, phaseRun := 0 }
    let b := if s.cleanVa unitTlb n at_ 16 then s.unitRead? 0 n at_ 16 else none
    let good := fun (b : List Byte) => decide (1 ≤ field b 8 1) && decide (field b 8 1 ≤ 64) && field b 9 7 == 0 && alignedTo (field b 0 8) 64
    match b with
    | some e =>
      if good e then
        let ls := (List.range (field e 8 1)).map fun i =>
          ({ id := s1.nextId + i, slot := n, desc := field e 0 8 + 64 * i, die := none } : Launch)
        let s2 := ls.foldl (fun (s : State) l => s.codeCopy (.slot n) (.launch l.id)) s1
        .next ({ s2 with
          nextId := s2.nextId + ls.length, launches := s2.launches ++ ls
          codeKeys := s2.codeKeys ++ ls.map fun (l : Launch) => CodeKey.launch l.id }.codeEnd (.slot n))
      else .next ((s1.modSlot n fun x => { x with phaseStatus := .invalid }).endPhase n)
    | none => .next ((s1.modSlot n fun x => { x with phaseStatus := .invalid }).endPhase n)

/-- A job record (Table 3-1). -/
structure JobRec where
  ptroot : Nat
  phases : Nat
  jring : Nat
  errring : Nat
  nphase : Nat
  slot : Nat
  prio : Nat
  rt : Bool
  sys : Bool
  msi : Bool
  share : Nat
  rtmin : Nat
  tag : Nat
  reserved : Nat
  deriving DecidableEq, Repr

/-- The fields of a job record. -/
def jobOf (b : List Byte) : JobRec where
  ptroot := field b 0 8
  phases := field b 8 8
  jring := field b 16 8
  errring := field b 24 8
  nphase := field b 32 2
  slot := field b 34 1
  prio := bitsAt (field b 35 1) 0 3
  rt := bitsAt (field b 35 1) 3 1 == 1
  sys := bitsAt (field b 35 1) 4 1 == 1
  msi := bitsAt (field b 35 1) 5 1 == 1
  share := field b 36 2
  rtmin := field b 38 2
  tag := field b 40 8
  reserved := bitsAt (field b 35 1) 6 2 + field b 48 16

/-- Sum of RTMIN over the bound real-time jobs. -/
def State.rtSum (s : State) : Nat := sumBy (fun (x : Slot) => if x.bound && x.rt then x.rtmin else 0) s.slots

/-- Whether a job record passes its check (R57), its slot field apart. -/
def State.jobOk (s : State) (j : JobRec) : Bool :=
  j.reserved == 0 && j.nphase != 0 && (!j.rt || decide (s.rtSum + j.rtmin ≤ 2048))

/-- The slot a record is bound to: the one it names or the lowest free one; none while it is busy or none is free. -/
def State.slotFor (s : State) (j : JobRec) : Option Nat :=
  if j.slot = 0xFF then (List.range 64).find? fun n => !(s.slot n).bound
  else if (s.slot j.slot).bound then none else some j.slot

/-- Binds a job to a slot (R53, R54, R86); the slot's host registers stay. -/
def State.bind (s : State) (n : Nat) (j : JobRec) : State :=
  let s1 := { s with tlb := s.tlb.filter fun e => e.asid != n, codeKeys := s.codeKeys ++ [CodeKey.slot n] }
  s1.modSlot n fun x => { x with
    bound := true, ptroot := j.ptroot, phases := j.phases, nphase := j.nphase, jring := j.jring, errring := j.errring
    prio := j.prio, rt := j.rt, sys := j.sys, msi := j.msi, share := j.share, rtmin := j.rtmin, tag := BitVec.ofNat 64 j.tag
    phase := 0, started := false, phaseStatus := .ok, phaseCancelled := false, phaseNode := 0, phaseRun := 0, lastRun := 0
    jobCancel := false, anyCancelled := false, credit := 0, rtUsed := [0, 0], postdrop := 0 }

/-- The job record the root node reads next. -/
def State.nextJob (s : State) : JobRec :=
  jobOf (s.mem.readN (s.host.rqbase + s.host.head.toNat % 2 ^ s.host.rqsize * 64) 64)

/-- Whether the root queue has a record to bind (R53, R297). -/
def State.rootDue (s : State) : Bool := s.plumb.state == 2 && !s.host.err && s.host.head != s.host.tail

/-- The release that put a value of HEAD behind TAIL: the earliest of those whose records have not all been taken. -/
def State.tailKey (s : State) : CodeKey :=
  (s.codeKeys.find? fun k => match k with | .tail _ => true | _ => false).getD (.tail 0)

/-- HEAD passes a record; a release with no record left ends. -/
def State.passRecord (s : State) : State :=
  let s1 := { s with host := { s.host with head := s.host.head + 1, waiting := false } }
  if s.tailKey == .tail (s.host.head + 1).toNat then s1.codeEnd s.tailKey else s1

/-- ROOT QUEUE BIND (R53, R57): the root node binds the record at HEAD, waits for its slot, or passes a record that no
slot can take. -/
def execRootQueueBind (s : State) : Out :=
  if !s.rootDue then .next s
  else
    let j := s.nextJob
    if 63 < j.slot && j.slot != 0xFF then
      let s1 := s.passRecord
      .next ({ s1 with host := { s1.host with
        badIndex := s.host.head.toNat % 2 ^ s.host.rqsize, badCount := min 65535 (s.host.badCount + 1) } }.msi 64)
    else match s.slotFor j with
      | none => .next { s with host := { s.host with waiting := true } }
      | some n =>
        let s1 := ((s.codeCopy s.tailKey (.slot n)).passRecord).bind n j
        if s.jobOk j then .next s1 else .next (s1.endJob n .invalid 0)

/-! ### Run completion -/

/-- Ashlars whose L1 the end of a run writes back: those it issued on, with their courses in fused mode (R113). -/
def State.runCaches (s : State) (r : Run) : List Nat := nub ((r.resident.map (·.1)).flatMap s.l1Group)

/-- Whether a run is over (R46): its counter is zero with its roots fed, or it is cancelled; its viewports are closed and
nothing of it is on its way. -/
def State.runOver (s : State) (r : Run) : Bool :=
  s.runCount r == 0 && (r.cancelling || (r.rootsFed && r.bins.all (·.closed))) && s.reqs.all fun q => q.run != r.id

/-- The counts a binning unit writes into its parameter structure at the end of the run (Table 12-5); they are not written where the page
fails translation or write permission, for which the spec names no consequence (DESIGN CHOICE, log entry 70). -/
def State.writeBinCounts (s : State) (r : Run) : State :=
  r.bins.foldl (fun (s : State) b => match r.node? b.node with
    | some n =>
      if (s.pathFault unitTlb r.slot (n.fixparam + 48) 12 { write := true }).isNone then
        s.writeVa (dieSrc 0) unitTlb r.slot (n.fixparam + 48) (toBytes 4 b.groups ++ toBytes 4 b.badGroups ++ toBytes 4 b.badPrims) false
      else s
    | none => s) s

/-- Frees what carries a run's identifier: keystone entries, barrier objects, residencies, reservations (R46, R221, R226). -/
def State.freeRun (s : State) (r : Run) : State :=
  let s1 := (s.reductions.filter fun (x : Reduction) => x.run == r.id).foldl (fun (s : State) x => s.completeReduction x true) s
  { s1 with
    keystones := s1.keystones.filter fun e => e.run != r.id
    ashlars := s1.ashlars.map fun (a : Ashlar) => { a with
      barriers := a.barriers.map fun (b : Barrier) => if b.state != .idle && b.run == r.id then { b with state := .idle, arrived := 0 } else b
      residents := a.residents.filter fun (x : Residency) => x.run != r.id
      array := match a.array.bound with
        | some (k, _) => if k == r.id then { a.array with bound := none } else a.array
        | none => a.array } }

/-- RUN COMPLETION (R46, R50, R113): first the run's L1 bytes go home, then its event record is posted and what it held
is freed. -/
def execRunCompletion (s : State) : Out :=
  match s.run? s.evt.a with
  | none => .next s
  | some r =>
    if !s.runOver r then .next s
    else
      let caches := s.runCaches r
      if !r.flushed then .next ((s.writeBack caches).modRun r.id fun r => { r with flushed := true })
      else if !(s.backsOf caches).isEmpty then .next s
      else
        let s1 := (s.freeRun r).writeBinCounts r
        let node := if r.status == .fault || r.status == .invalid then r.node else 0
        let (s2, ok) := s1.post r.slot r.ring (eventRecord r.status 0 r.slot node r.id s.time r.delivered r.spills r.tag.toNat)
        let s3 := if ok && r.msi then s2.msi r.slot else s2
        .next (({ s3 with runs := s3.runs.filter fun q => q.id != r.id, imem := s3.imem.filter fun l => l.run != r.id }.codeEnd (.run r.id)).runEnded
          r.slot r.id r.status node)

end Sys2Proof.Machine
end

