-- ==== Sys2Proof/Machine/Schedule.lean ====
section
/-! DEFINITION. The graph schedulers (spec 03_scheduling.md R58 to R72; 02_graphs.md R32, R33, R36; 12_fixed_nodes.md R265, R266,
R275; 18_subsystem_faults.md R343, R352, R362): records arriving, waves formed, the placement decision, the share rule,
reservations of ashlars, steals, split changes and spills. -/

namespace Sys2Proof.Machine

/-! ### Records -/

/-- Mesh nodes that feed a binning node, ascending. -/
def Run.meshOf (r : Run) (binning : Nat) : List Nat :=
  (List.range r.nodes.length).filter fun n => ((r.node? n).map fun x => x.isProgram && x.used.any fun e => e.2.target == binning).getD false

/-- Whether the instance of a node is a mesh ring: the node is a binning node (R263). -/
def Run.isRing (r : Run) (n : Nat) : Bool := ((r.node? n).map (·.isFixed 1)).getD false

/-- Whether a node is a mesh node: a program node with an edge to a binning node. -/
def Run.isMesh (r : Run) (n : Nat) : Bool := ((r.node? n).map fun x => x.isProgram && x.used.any fun e => r.isRing e.2.target).getD false

/-- Place in the order of a binning node's groups of a record's tag: by group index, then mesh node. -/
def Run.groupSeq (r : Run) (binning tag : Nat) : Nat :=
  let ms := r.meshOf binning
  tag / 256 * ms.length + (ms.takeWhile (· != tag % 256)).length

/-- Records of a group by its header: the header, its vertices, its primitives. -/
def groupSize (header : List Byte) : Nat := 1 + (field header 0 2 + 3) / 4 + (field header 2 2 + 7) / 8

/-- Whether the counts of a header are in range. -/
def countsOk (header : List Byte) : Bool :=
  let v := field header 0 2
  let p := field header 2 2
  decide (1 ≤ v) && decide (v ≤ 256) && decide (1 ≤ p) && decide (p ≤ 256)

/-- Whether all records of a group are there. -/
def groupWhole (recs : List (List Byte)) : Bool :=
  match recs with
  | h :: _ => countsOk h && decide (groupSize h ≤ recs.length)
  | [] => false

/-- Whether a record for a binning node is kept: it carries a group not yet taken (R266). -/
def Run.keepsRec (r : Run) (node : Nat) (q : QRec) : Bool :=
  if r.isRing node then
    match q.group, r.bins.find? (·.node == node) with
    | some g, some b => decide (b.next ≤ r.groupSeq node g)
    | _, _ => false
  else true

/-- Adds a record to an instance: one for a mesh ring is discarded where its group is complete (R266). -/
def Run.pushOne (r : Run) (node die now : Nat) (q : QRec) : Run :=
  let group := ((r.inst node die).recs.filter fun k => k.group == q.group).map fun (k : QRec) => k.bytes
  if !r.keepsRec node q || (r.isRing node && groupWhole group) then r
  else r.modInst node die fun i => { i with recs := i.recs ++ [{ q with at_ := now }] }

/-- Adds records to an instance. The spill timeout of a run that had none begins (R352). -/
def Run.push (r : Run) (node die now : Nat) (recs : List QRec) : Run :=
  let r1 := recs.foldl (fun (r : Run) q => r.pushOne node die now q) r
  if r.insts.all fun i => i.queued == 0 then { r1 with placedAt := now } else r1

/-! ### Waves formed (R33) -/

/-- What keeps records of an instance apart: the ashlar of a LOCAL record, the course of a course-bound one. -/
def QRec.cls (q : QRec) : Option Nat × Option Nat := (q.ashlar, q.course)

/-- Records of an instance that were spilled, oldest first: those read back, then those in the spill area. -/
def Inst.spills (i : Inst) : List QRec := i.recs.take i.back ++ i.spilled.flatMap (·.2)

/-- Records of an instance that never were. -/
def Inst.fresh (i : Inst) : List QRec := i.recs.drop i.back

/-- All records of an instance in delivery order (R65). -/
def Inst.all (i : Inst) : List QRec := i.spills ++ i.fresh

/-- Records of one class that may be delivered next, in order: on-chip ones only once no spilled record of another
class is left. -/
def Inst.pool (i : Inst) (k : Option Nat × Option Nat) : List QRec :=
  (if i.spills.any fun q => q.cls != k then i.spills else i.all).filter fun q => q.cls == k

/-- Classes whose records may be delivered next; an ordered node delivers in its one order. -/
def Inst.classes (i : Inst) (ordered : Bool) : List (Option Nat × Option Nat) :=
  let l := nub ((if i.spills.isEmpty then i.fresh else i.spills).map QRec.cls)
  if ordered then l.take 1 else l

/-- Nodes from which a node is reachable along edges, by rounds. -/
def Run.ancestors (r : Run) (n : Nat) : Nat → List Nat
  | 0 => []
  | fuel + 1 =>
    let l := r.ancestors n fuel
    (List.range r.nodes.length).filter fun m => (r.targets m).any fun t => t == n || l.contains t

/-- Whether the fixed units hold something of a run that a node is still to send on. -/
def State.heldAt (s : State) (r : Run) (m : Nat) : Bool :=
  (s.ashlars.any fun a => (a.rays ++ a.mlp).any fun b => b.run == r.id && b.node == m)
    || (s.courses.any fun c => c.tiles.any fun t => t.run == r.id && match t.state with
        | .filled => t.resolver == m
        | .visible | .shading => t.classifier == m && (t.state == .visible || !t.left.isEmpty)
        | .free => false)
    || r.bins.any fun b => b.node == m && (!b.closed || !b.tiles.isEmpty)

/-- Whether something at a node may still send records on: queued records, waves other than draining ones, control
threads, open bins, records in fixed units. -/
def State.liveAt (s : State) (r : Run) (m : Nat) : Bool :=
  (r.inst m 0).queued != 0 || (r.inst m 1).queued != 0
    || (s.waves.any fun w => w.run == r.id && w.node == m && (w.isThread || w.stat != .draining))
    || (s.ashlars.any fun a => a.openBins.any fun b => b.run == r.id && b.node == m) || s.heldAt r m

/-- Whether a node can receive no further record in its run (R33). -/
def State.noMore (s : State) (r : Run) (n : Nat) : Bool :=
  r.rootsFed && (s.reqs.all fun q => q.run != r.id || match q.body with | .append m _ _ _ => m != n && !(r.ancestors n r.nodes.length).contains m | _ => true)
    && (r.ancestors n r.nodes.length).all fun m => !s.liveAt r m

/-- Records of a wave of a node. -/
def Node.lanes (n : Node) : Nat := if n.isControl then 1 else n.width

/-- A wave formed of an instance's records: their class, the records, and since when it is formed. -/
abbrev FormedWave := (Option Nat × Option Nat) × List QRec × Nat

/-- The waves of an instance that are formed now (R33, R34), one of each class: formed when its last record came, when the oldest
record reached BATCHAGE, or when no further record could come, whichever was first. -/
def State.formed (s : State) (r : Run) (n : Nat) (nd : Node) (d : Nat) : List FormedWave :=
  let i := r.inst n d
  let w := nd.lanes
  (i.classes nd.ordered).filterMap fun k =>
    let q := i.pool k
    let full := if w ≤ q.length then (q[w - 1]?).map (·.at_) else none
    let aged := if i.aged then ((i.all.head?).filter fun (h : QRec) => h.cls == k).map fun (h : QRec) => h.at_ + nd.batchage * 1000000 else none
    let last := if !q.isEmpty && s.noMore r n then some (max (i.last.getD s.now) (((q.take w).getLast?.map (·.at_)).getD 0)) else none
    (argMin id ([full, aged, last].filterMap id)).map fun t => (k, q.take w, t)

/-- BATCHAGE EXPIRY (R33): the oldest record of an instance has waited BATCHAGE µs. -/
def execBatchageExpiry (s : State) : Out :=
  match s.run? s.evt.a with
  | none => .next s
  | some r => match r.node? s.evt.b with
    | none => .next s
    | some nd =>
      match (r.inst s.evt.b s.evt.c).all with
      | q :: _ =>
        if nd.batchage != 0 && decide (q.at_ + nd.batchage * 1000000 ≤ s.now) then
          .next (s.modRun r.id fun r => r.modInst s.evt.b s.evt.c fun (i : Inst) => { i with aged := true })
        else .next s
      | [] => .next s

/-! ### Candidates -/

/-- A wave that may be placed: formed from records, stolen, or saved. -/
structure Cand where
  run : Run
  n : Nat
  node : Node
  src : Nat                            -- die of the instance its records come from
  cls : Option Nat × Option Nat := (none, none)
  recs : List QRec := []
  wave : Option Wave := none
  formed : Nat                         -- ps since which it is formed
  since : Nat                          -- now less the time for which it has been eligible (R60)
  steal : Bool := false

/-- Job slot of a candidate. -/
def Cand.slot (c : Cand) : Nat := c.run.slot

/-- The mark an ashlar reserved for it carries. -/
def Cand.token (c : Cand) : Nat := match c.wave with | some w => waveToken w.id | none => instToken c.run.id (2 * c.n + c.src) c.cls

/-- What it needs on a die. -/
def Cand.want (c : Cand) (d : Nat) : Want where
  run := c.run.id
  n := c.n
  node := c.node
  die := d
  token := c.token
  course := match c.wave with | some w => (w.tiles.head?).map (· / 4) | none => c.cls.2
  wave := c.wave

/-- The only ashlar it may go to. -/
def Cand.only (c : Cand) : Option Nat := match c.wave with | some w => w.savedAt | none => c.cls.1

/-- The runs whose waves may be placed. -/
def State.openRuns (s : State) : List Run := s.runs.filter fun r => !r.cancelling

/-- Program and control nodes of a run. -/
def Run.waveNodes (r : Run) : List (Nat × Node) :=
  ((List.range r.nodes.length).zip r.nodes).filter fun x => x.2.isProgram || x.2.isControl

/-- For how long the reservations of a wave that was formed at a time could be met (R60). -/
def Inst.metFor (i : Inst) (t now : Nat) : Nat :=
  sumBy (fun (b : Nat × Nat) => b.2 - max b.1 t) i.spans + (match i.since with | some b => now - max b t | none => 0)

/-- For how long a saved wave has been eligible (R60). -/
def Wave.eligibleFor (w : Wave) (now : Nat) : Nat := w.eligFor + (match w.eligible with | some b => now - b | none => 0)

/-- Waves of an instance formed now, for the instance's die; their reservations aside. -/
def State.formedCands (s : State) (d : Nat) : List Cand :=
  s.openRuns.flatMap fun r => r.waveNodes.flatMap fun (n, nd) =>
    (s.formed r n nd d).map fun (k, q, t) =>
      { run := r, n := n, node := nd, src := d, cls := k, recs := q, formed := t, since := s.now - (r.inst n d).metFor t s.now }

/-- Saved waves of a die whose reason for the save has ended (R73), what they released at the save performed (R101). -/
def State.savedCands (s : State) (d : Nat) : List Cand :=
  s.waves.filterMap fun w =>
    if w.stat == .saved && w.die == d && (w.saveFor == 1 || w.saveFor == 2) && s.saveEnded w && s.saveReleased w then
      match s.run? w.run with
      | some r => match r.node? w.node with
        | some nd =>
          if r.cancelling then none
          else some { run := r, n := w.node, node := nd, src := d, wave := some w, formed := w.placedAt, since := s.now - w.eligibleFor s.now }
        | none => none
      | none => none
    else none

/-- Whether a candidate's reservations can be met now (R61). -/
def Cand.fits (c : Cand) (d : Nat) : Bool := c.wave.isSome || (c.run.reserveAll c.node d).isSome

/-! ### Where a candidate can go -/

/-- The state with the residencies of an ashlar given up that the scheduler needs for a wave: the array's bound node, then one
whose shared region alone makes room, else several in turn until there is room; none of them with a wave there (R36, R69). Which
of those that would do it gives up is the model's choice (DESIGN CHOICE, log entry 70). -/
def State.giveUp (s : State) (q : Want) (a : Nat) : State :=
  let s1 := match (s.ashlar a).array.bound with
    | some (r, n) => if q.node.matrix && (r, n) != (q.run, q.n) && s.unused a r n then s.releaseNode a r n else s
    | none => s
  let short := fun (s : State) => (s.failedSteps q a).contains 4
  let drop := fun (s : State) (r : Residency) => s.releaseNode a r.run r.node
  let idle := (s1.ashlar a).residents.filter fun r => r.granules != 0 && (r.run, r.node) != (q.run, q.n) && s1.unused a r.run r.node
  if !short s1 then s1
  else match idle.find? fun r => !short (drop s1 r) with
    | some r => drop s1 r
    | none => idle.foldl (fun (s : State) r => if short s then drop s r else s) s1

/-- Where a candidate can be placed now, and the state to place it from; where an ashlar is reserved for it, only there (R60). -/
def State.spot (s : State) (d : Nat) (c : Cand) : Option (Nat × State) :=
  let q := c.want d
  let only := ((dieAshlars d).find? fun a => (s.ashlar a).reservedFor == some c.token).or c.only
  match s.pickAshlar q only with
  | some a => some (a, s)
  | none =>
    let ok := (dieAshlars d).filter fun a =>
      (match only with | some o => o == a | none => true) && ((s.giveUp q a).failedSteps q a).isEmpty
    (argMin s.load ok).map fun a => (a, s.giveUp q a)

/-- Waves that a die can steal (R66): some ashlar of it passes for the node. -/
def State.stealCands (s : State) (d : Nat) (own : List Cand) : List Cand :=
  s.openRuns.flatMap fun r => r.waveNodes.filterMap fun (n, nd) =>
    let q := (r.inst n (1 - d)).fresh.filter fun q => q.cls == (none, none)
    let c : Cand := { run := r, n := n, node := nd, src := 1 - d, recs := q.take nd.width, formed := s.now, since := s.now, steal := true }
    if nd.isProgram && !nd.ordered && (r.inst n d).queued == 0 && decide (2 * nd.width ≤ q.length)
        && !(own.any fun c => c.run.id == r.id && c.n == n) && (s.spot d c).isSome then some c
    else none

/-- The eligible waves of a die (R58): those it has, and those it can steal. -/
def State.cands (s : State) (d : Nat) : List Cand :=
  let own := (s.formedCands d ++ s.savedCands d).filter fun c => c.fits d
  own ++ (s.stealCands d own).filter fun c => c.fits d

/-! ### The share rule (R59) -/

/-- Charges a win: contenders add their shares, the winner subtracts the sum, other jobs of the priority fall to zero. -/
def State.chargeWin (s : State) (winner : Nat) (contenders : List Nat) : State :=
  let total := sumBy (fun n => (s.slot n).share) contenders
  let prio := (s.slot winner).prio
  { s with slots := s.slots.mapIdx fun n (x : Slot) =>
      if x.prio != prio || !x.bound then x
      else if contenders.contains n then { x with credit := x.credit + x.share - if n = winner then (total : Int) else 0 }
      else { x with credit := 0 } }

/-- The job the share rule picks among some: the highest credit after adding shares, the lower slot on a tie. -/
def State.shareWinner (s : State) (jobs : List Nat) : Option Nat :=
  let key := fun n => (s.slot n).credit + (s.slot n).share
  jobs.find? fun n => jobs.all fun m => decide (key m < key n) || (key m == key n && decide (n ≤ m))

/-- The candidate a chosen job places: the least sink distance, then node priority, then the earlier formed (R58). -/
def pickOf (cs : List Cand) (slot : Nat) : Option Cand :=
  argMin (fun c => ((c.run.sink.getD c.n 255) * 8 + (7 - c.node.prio)) * 2 ^ 128 + c.formed) (cs.filter fun c => c.slot == slot)

/-- Slots of candidates, ascending. -/
def slotsOf (cs : List Cand) : List Nat := (List.range 64).filter fun n => cs.any fun c => c.slot == n

/-- A win charged to a job outside the share rule (R59): the jobs of its priority with an eligible wave contend. -/
def State.chargeOther (s : State) (slot : Nat) (cs : List Cand) : State :=
  let p := (s.slot slot).prio
  s.chargeWin slot ((List.range 64).filter fun n => n == slot || ((slotsOf cs).contains n && (s.slot n).prio == p))

/-! ### Placing -/

/-- A list without its first c records that a predicate allows. -/
def removeFirst (p : QRec → Bool) (c : Nat) (l : List QRec) : List QRec :=
  (l.foldl (fun (acc : List QRec × Nat) q => if p q && acc.2 != 0 then (acc.1, acc.2 - 1) else (acc.1 ++ [q], acc.2)) ([], c)).1

/-- Reads whole spilled batches back, oldest first, until the records read back hold c that a predicate allows (R65, R382): those
records, the batches left, and the first units and lengths of the batches read. -/
def readBack (p : QRec → Bool) (c : Nat) : List QRec → List (Nat × List QRec) → List QRec × List (Nat × List QRec) × List (Nat × Nat)
  | front, [] => (front, [], [])
  | front, b :: bs =>
    if c ≤ (front.filter p).length then (front, b :: bs, [])
    else
      let (f, l, u) := readBack p c (front ++ b.2) bs
      (f, l, (b.1, b.2.length) :: u)

/-- Takes c records that a predicate allows out of an instance, spilled ones first; answers also the batches read back. -/
def Inst.takeOut (i : Inst) (p : QRec → Bool) (c : Nat) : Inst × List (Nat × Nat) :=
  let (front, left, read) := readBack p c (i.recs.take i.back) i.spilled
  let keep := removeFirst p c front
  ({ i with spilled := left, back := keep.length, recs := keep ++ removeFirst p (c - (front.length - keep.length)) i.fresh, aged := false }, read)

/-- Takes c records of no ashlar and no course out of those of an instance that were never spilled: a steal (R66). -/
def Inst.stealOut (i : Inst) (c : Nat) : Inst :=
  { i with recs := i.recs.take i.back ++ removeFirst (fun q => q.cls == (none, none)) c i.fresh, aged := false }

/-- Whether a spilled batch read back holds an uncorrectable error (RECORDLOST). -/
def State.lostBatch (s : State) (r : Run) (recsize : Nat) (b : Nat × Nat) : Bool :=
  !s.cleanVa unitTlb r.slot (r.spillBase + b.1 * 64) (batchUnits b.2 recsize * 64)

/-- What keeps spilled batches from being read back: the code of Table 18-3 and its address. -/
def State.batchFault (s : State) (r : Run) (recsize : Nat) (read : List (Nat × Nat)) : Option (Nat × Nat) :=
  match read.findSome? fun b => s.spillFail r b.1 (batchUnits b.2 recsize) with
  | some a => some (2, a)
  | none => if read.any (s.lostBatch r recsize) then some (4, 0) else none

/-- Reads spilled batches of a run back into the queue ways of a die, each charged to its job (R59, R65). -/
def State.readBatches (s : State) (r : Run) (recsize d : Nat) (read : List (Nat × Nat)) : State :=
  read.foldl (fun (s : State) b => (s.spillRead r b.1 (batchUnits b.2 recsize)).chargeOther r.slot (s.cands d)) s

/-- Counts a placement of a job on a die in its window (R58), and clears the ashlar reserved for it. -/
def State.placedFor (s : State) (d : Nat) (c : Cand) : State :=
  let s1 := s.modSlot c.slot fun x => { x with rtUsed := if x.rt then x.rtUsed.modify d (· + 1) else x.rtUsed }
  { s1 with ashlars := s1.ashlars.map fun (a : Ashlar) => if a.reservedFor == some c.token then { a with reservedFor := none } else a }

/-- A wave starts on an ashlar: it takes its places there, acquires (Table 5-2, R109), and is counted as placed (R308). -/
def State.enter (s : State) (w : Wave) (granule shared : Nat) : State :=
  ((s.takeOn w granule shared).acquireAt w.ashlar 4).count w.ashlar 15 1 w.slot

/-- The granule at which a private region of n granules, of a wave restored where there is one, goes on an ashlar with room for it. -/
def Ashlar.placeAt (x : Ashlar) (wave : Option Wave) (n : Nat) : Nat :=
  match Ashlar.places x.usedGranules x.granules wave n 0 with
  | some g => g.1
  | none => 0

/-- The prologue wave of a node that becomes resident with a wave, where it has one (R36, R68). -/
def State.startPrologue (s : State) (w : Wave) (nd : Node) (k b : List DWord) (shared : Nat) : State :=
  if nd.prologue = 0 || nd.isControl then s
  else
    let p := startWave s.nextId w.run w.slot w.node nd w.ashlar 0 nd.prologue [] nd.width k b s.now
    ({ s with nextId := s.nextId + 1 }).enter { p with prologue := true } ((s.ashlar w.ashlar).placeAt none nd.pscr) shared

/-- Places for a wave of a node on an ashlar, with the node resident there: granules of its private and the node's shared
region, whether it may issue at once, and the state; of a wave that is restored where one is given. -/
def State.makeRoom (s : State) (a run n : Nat) (nd : Node) (wave : Option Wave) : Nat × Nat × Bool × State :=
  let x := s.ashlar a
  match s.residency? a run n with
  | some r => (x.placeAt wave nd.pscr, r.base, r.ready, s)
  | none =>
    let (g, b) := (Ashlar.places x.usedGranules x.granules wave nd.pscr nd.sscr).getD (0, 0)
    let ready := nd.prologue == 0 || nd.isControl
    (g, b, ready, s.makeResident a run n nd b ready)

/-- Adds a wave to an ashlar of a node, which becomes resident there if it is not, its prologue wave beside it (R36, R68). -/
def State.settleIn (s : State) (a : Nat) (nd : Node) (w : Wave) : State :=
  let (g, b, ready, s1) := s.makeRoom a w.run w.node nd none
  let s2 := s1.enter { w with stat := if ready then .resident else .waiting } g b
  if (s.residency? a w.run w.node).isSome then s2 else s2.startPrologue w nd w.k w.b b

/-- A new wave of a candidate placed on an ashlar (R35, R61, R109, R265); each spilled batch read back for it is charged (R59). -/
def State.placeNew (s : State) (d a : Nat) (c : Cand) : State :=
  let r := c.run
  let nd := c.node
  let i := r.inst c.n c.src
  let (i2, read) := if c.steal then (i.stealOut c.recs.length, []) else i.takeOut (fun q => q.cls == c.cls) c.recs.length
  match s.batchFault r nd.recsize read with
  | some (code, addr) => s.abortRun r.id code c.n addr
  | none =>
  if r.isMesh c.n && decide (1048575 < i.given + c.recs.length) then s.abortRun r.id 6 c.n 0
  else match s.tables r.id d r.slot nd, r.reserveAll nd d with
    | .inl addr, _ => s.abortRun r.id 8 c.n addr
    | .inr _, none => s
    | .inr (k, b), some (_, resv) =>
      let m := (r.inst c.n d).m
      let seqno := BitVec.ofNat 64 (2 * m + d)
      let w0 := startWave s.nextId r.id r.slot c.n nd a seqno nd.entry (c.recs.map fun (q : QRec) => q.bytes) c.recs.length k b s.now
      let w := { w0 with
        resv := resv
        groups := if r.isMesh c.n then (List.range c.recs.length).map fun l => (l, i.given + l) else []
        tiles := c.recs.filterMap fun (q : QRec) => q.tile }
      let s0 := s.readBatches r nd.recsize d read
      let s1 := (({ s0 with nextId := s0.nextId + 1 }).touchTables d r.slot nd).modRun r.id fun r =>
        let r1 := match r.reserveAll nd d with | some x => x.1 | none => r
        let r2 := r1.modInst c.n c.src fun _ => { i2 with reserved := (r1.inst c.n c.src).reserved, given := i.given + c.recs.length, m := i.m }
        let r3 := r2.modInst c.n d fun (j : Inst) => { j with m := m + 1 }
        { r3 with delivered := r3.delivered + c.recs.length, placedAt := s.now }
      ((s1.settleIn a nd w).placedFor d c).count a 19 c.recs.length r.slot

/-- A saved wave of a candidate begins its restore on an ashlar (R52). A prologue wave that starts with it reads its tables anew
(R35). -/
def State.placeSaved (s : State) (d a : Nat) (c : Cand) (w : Wave) : State :=
  let (g, b, _, s1) := s.makeRoom a w.run w.node c.node (some w)
  let s2 := ((s1.startRestore w a g).placedFor d c).modRun w.run fun r => { r with placedAt := s.now }
  if (s.residency? a w.run w.node).isSome || c.node.prologue = 0 || c.node.isControl then s2
  else match s.tables w.run d w.slot c.node with
    | .inl addr => s.abortRun w.run 8 w.node addr
    | .inr (k, bt) => (s2.touchTables d w.slot c.node).startPrologue { w with ashlar := a } c.node k bt b

/-- Places a candidate where it can go; none where it cannot. -/
def State.tryPlace (s : State) (d : Nat) (c : Cand) : Option State :=
  (s.spot d c).map fun (a, s1) => match c.wave with
    | some w => s1.placeSaved d a c w
    | none => s1.placeNew d a c

/-! ### The decision (R58, R60, R71) -/

/-- Whether a wave holds an ordered section, or is next in line for one. -/
def State.hasPrecedence (s : State) (w : Wave) : Bool :=
  (List.range w.lanesN).any (fun l => !(s.inside w l).isEmpty)
    || s.dueIn w

/-- Shortfalls of a candidate on an ashlar where it fails only steps 2 to 4 (R60): steps failed, register bytes, granules, each
region against the longest free run, a prologue wave's with them. -/
def State.shortfall (s : State) (d : Nat) (c : Cand) (a : Nat) : Option Nat :=
  let f := s.failedSteps (c.want d) a
  if f.isEmpty || f.any (fun k => k < 2 || decide (4 < k)) then none
  else
    let x := s.ashlar a
    let q := c.want d
    let both := s.needsPrologue q a
    let regs := s.regsUsed a + (if both then 2 else 1) * regBytes c.node.width c.node.regs - 524288
    let run := longestRun x.usedGranules x.granules
    let pscr := c.node.pscr - run
    let sscr := if (s.residency? a c.run.id c.n).isSome then 0 else c.node.sscr - run
    some ((f.length * 2 ^ 24 + regs) * 1024 + pscr + sscr + if both then pscr else 0)

/-- Reserves an ashlar for a candidate that cannot be placed (R60). -/
def State.reserveFor (s : State) (d : Nat) (c : Cand) : State :=
  if s.ashlars.any fun a => a.reservedFor == some c.token then s
  else
    let ok := (dieAshlars d).filter fun a => (s.ashlar a).reservedFor.isNone && (match c.only with | some o => o == a | none => true)
      && (s.shortfall d c a).isSome
    match argMin (fun a => (s.shortfall d c a).getD 0) ok with
    | some a => s.modAshlar a fun (x : Ashlar) => { x with reservedFor := some c.token }
    | none => s

/-- Steps that a candidate would fail on an ashlar had it the candidate's split (R71). -/
def State.failsBut (s : State) (q : Want) (a : Nat) : List Nat :=
  (s.modAshlar a fun (x : Ashlar) => { x with split := q.node.split, splitNext := none }).failedSteps q a

/-- Marks an ashlar for a split change where the wave fails on every ashlar of the die because of its SPLIT (R71); no other ashlar
of the die while one of it has the same change pending (DESIGN CHOICE, log entry 70). -/
def State.markSplit (s : State) (d : Nat) (c : Cand) : State :=
  let q := c.want d
  let all := dieAshlars d
  if c.node.split = 0 || !(all.all fun a => (s.failedSteps q a).contains 5)
      || all.any (fun a => (s.ashlar a).splitNext == some c.node.split) then s
  else
    let ok := all.filter fun a => (s.ashlar a).splitNext.isNone && (s.failsBut q a).isEmpty
    match argMin s.load ok with
    | some a => s.modAshlar a fun (x : Ashlar) => { x with splitNext := some c.node.split }
    | none => s

/-- A selected wave is placed, or an ashlar is reserved for it. -/
def State.placeOrReserve (s : State) (d : Nat) (c : Cand) : State × Bool :=
  match s.tryPlace d c with
  | some t => (t, true)
  | none => (s.reserveFor d c, false)

/-- Step 1: section precedence. -/
def State.step1 (s : State) (d : Nat) (cs : List Cand) : State × Bool :=
  let prio := fun (c : Cand) => (s.slot c.slot).prio
  let ps := cs.filter fun c => match c.wave with | some w => s.hasPrecedence w | none => false
  match argMin (fun c => (7 - prio c) * 2 ^ 128 + c.since) ps with
  | some c =>
    if cs.any fun k => decide (prio c < prio k) then (s, false)
    else match s.placeOrReserve d c with
      | (t, true) => (t.chargeOther c.slot cs, true)
      | r => r
  | none => (s, false)

/-- Step 2: the real-time minimum. -/
def State.step2 (s : State) (d : Nat) (cs : List Cand) : State × Bool :=
  let rt := cs.filter fun c => (s.slot c.slot).rt && decide ((s.slot c.slot).rtUsed.getD d 0 < (s.slot c.slot).rtmin)
  match argMin (fun c => 7 - (s.slot c.slot).prio) rt with
  | none => (s, false)
  | some top =>
    let level := rt.filter fun c => (s.slot c.slot).prio == (s.slot top.slot).prio
    match s.shareWinner (slotsOf level) with
    | none => (s, false)
    | some n => match pickOf level n with
      | none => (s, false)
      | some c => (s.chargeWin n (slotsOf level)).placeOrReserve d c

/-- The 1,000 µs of the starvation guard, in ps. -/
def starvePs : Nat := 1000000000

/-- Step 3: the starvation guard. -/
def State.step3 (s : State) (d : Nat) (cs : List Cand) : State × Bool :=
  let old := cs.filter fun c => (s.slot c.slot).share != 0 && decide (c.since + starvePs ≤ s.now)
  match argMin (fun c => c.since) old with
  | none => (s, false)
  | some c => match s.placeOrReserve d c with
    | (t, true) => (t.chargeOther c.slot cs, true)
    | r => r

/-- Step 4: job priority among placeable waves; jobs of SHARE 0 win only where no other of the level contends. -/
def State.step4 (s : State) (d : Nat) (cs : List Cand) : State :=
  let ok := cs.filter fun c => (s.spot d c).isSome
  match argMin (fun c => 7 - (s.slot c.slot).prio) ok with
  | none => s
  | some top =>
    let level := ok.filter fun c => (s.slot c.slot).prio == (s.slot top.slot).prio
    let jobs := slotsOf level
    let paid := jobs.filter fun n => (s.slot n).share != 0
    match s.shareWinner (if paid.isEmpty then jobs else paid) with
    | none => s
    | some n => match pickOf level n with
      | none => s
      | some c => ((s.chargeWin n jobs).tryPlace d c).getD s

/-- An instance as its reservations can be met now or not: the times at which they could be are kept while a wave is formed of it
(R60). -/
def Inst.note (i : Inst) (met formed noMore : Bool) (now : Nat) : Inst :=
  { i with
    since := if met then some (i.since.getD now) else none
    spans := if !formed then [] else match i.since with
      | some t => if met then i.spans else i.spans ++ [(t, now)]
      | none => i.spans
    last := if noMore then some (i.last.getD now) else none }

/-- Notes since when the reservations of a die's instances can be met and since when they can receive no further record. -/
def State.noteInsts (s : State) (d : Nat) : State :=
  { s with runs := s.runs.map fun (r : Run) =>
      r.waveNodes.foldl (fun (r : Run) (x : Nat × Node) => r.modInst x.1 d fun (i : Inst) =>
        i.note (r.reserveAll x.2 d).isSome (!(s.formed r x.1 x.2 d).isEmpty) (s.noMore r x.1) s.now) r }

/-- Whether the wave that a mark of R60 stands for still waits to be placed, eligible at the moment or not. -/
def State.tokenWaits (s : State) (t : Nat) : Bool :=
  (s.waves.any fun w => w.stat == .saved && waveToken w.id == t) || (s.formedCands 0 ++ s.formedCands 1).any fun c => c.token == t

/-- Since when the saved waves of a die are eligible; the spill timeouts of runs that wait to be placed begin again (R352);
reservations of ashlars for waves that no longer wait end. -/
def State.noteEligible (s : State) (d : Nat) (cs : List Cand) : State :=
  let noteWave := fun (w : Wave) =>
    if w.die != d then w
    else if cs.any (fun c => (c.wave.map (·.id)) == some w.id) then { w with eligible := some (w.eligible.getD s.now) }
    else { w with eligible := none, eligFor := w.eligibleFor s.now }
  { s with
    waves := s.waves.map noteWave
    runs := s.runs.map fun (r : Run) => if cs.any (fun c => c.run.id == r.id) then { r with placedAt := s.now } else r
    ashlars := s.ashlars.mapIdx fun a (x : Ashlar) => match x.reservedFor with
      | some t => if dieOf a == d && t % 3 != 2 && !s.tokenWaits t then { x with reservedFor := none } else x
      | none => x }

/-- Ashlars retired with a group saved and nothing reserved for it yet get one (R362); without another ashlar the group's
runs end with SPILLFULL. -/
def State.reserveGroup (s : State) (d a : Nat) : State :=
  if (s.groupOf a).isEmpty || s.ashlars.any (fun x => x.reservedFor == some (groupToken a)) then s
  else
    let ok := (dieAshlars d).filter fun b => b != a && !(s.ashlar b).retired && (s.ashlar b).reservedFor.isNone
    if ((dieAshlars d).filter fun b => b != a && !(s.ashlar b).retired).isEmpty then
      (nub ((s.groupOf a).map (·.run))).foldl (fun (s : State) r => s.abortRun r 1 (((s.groupOf a).find? (·.run == r)).map (·.node) |>.getD 0) 0) s
    else match argMin (fun b => (s.residentOn b).length) ok with
      | some b => s.modAshlar b fun (x : Ashlar) => { x with reservedFor := some (groupToken a) }
      | none => s

/-- Residencies of unused nodes on ashlars reserved for a group are released (R362). -/
def State.clearReserved (s : State) (d : Nat) : State :=
  (dieAshlars d).foldl (fun (s : State) a => match (s.ashlar a).reservedFor with
    | some t =>
      if t % 3 != 2 then s
      else ((s.ashlar a).residents.filter fun r => s.unused a r.run r.node).foldl (fun (s : State) r => s.releaseNode a r.run r.node) s
    | none => s) s

/-- Whether a die's scheduler may decide: its firmware runs, it is not held, and what a park saved is back (R364), what waits with a
retired ashlar aside, which a decision finds a place for (R362). -/
def State.decides (s : State) (d : Nat) : Bool :=
  !s.dieHeld d && s.waves.all fun w => w.die != d || w.stat != .saved || w.saveFor != 3 || (s.ashlar w.ashlar).retired

/-- A new window of 100 µs begins at each multiple of it (R58). -/
def State.rollWindow (s : State) : State :=
  if s.window < s.now / 100000000 then
    { s with window := s.now / 100000000, slots := s.slots.map fun (x : Slot) => { x with rtUsed := [0, 0] } }
  else s

/-- The state a decision begins from: its window, ashlars kept for groups (R362), and what is eligible noted. -/
def State.beforeDecision (s : State) (d : Nat) : State :=
  let s0 := ((dieAshlars d).filter fun a => (s.ashlar a).retired).foldl (fun (s : State) a => s.reserveGroup d a) s.rollWindow
  let s1 := (s0.clearReserved d).noteInsts d
  s1.noteEligible d (s1.cands d)

/-- One decision of a die's scheduler (R58). -/
def State.decision (s : State) (d : Nat) : State :=
  let s2 := s.beforeDecision d
  let cs := s2.cands d
  let s3 := (cs.filter fun c => (s2.spot d c).isNone).foldl (fun (s : State) c => s.markSplit d c) s2
  match s3.step1 d cs with
  | (t, true) => t
  | (s4, false) => match s4.step2 d cs with
    | (t, true) => t
    | (s5, false) => match s5.step3 d cs with
      | (t, true) => t
      | (s6, false) => s6.step4 d cs

/-- PLACEMENT (R58): a decision of a die's scheduler. -/
def execPlacement (s : State) : Out :=
  if s.evt.a < 2 && s.decides s.evt.a then .next (s.decision s.evt.a) else .next s

/-- RT WINDOW START (R58): a new 100 µs window. -/
def execRtWindowStart (s : State) : Out := .next s.rollWindow

/-! ### Spills (R64, R352) -/

/-- The reservations of a wave of a node on a die that lack room, the wave's earlier ones standing: target, die of the instance and
the slots that the wave wants of it; one blocked on a mesh ring does not count (R267). -/
def Run.lacking (r : Run) (n : Node) (d : Nat) : List (Nat × Nat × Nat) :=
  (n.used.foldl (fun (acc : Run × List (Nat × Nat × Nat)) e =>
    let q := acc.1
    let k := n.lanes * e.2.emits
    let t := e.2.target
    match q.pickDie e.2 d k with
    | some x => (q.reserve t x k, acc.2)
    | none =>
      let want := fun x => (t, x, (q.inst t x).reserved - (r.inst t x).reserved + k)
      (q, acc.2 ++ if r.isRing t then [] else if r.isOrdered t then [want r.orderedDie] else if e.2.isLocal then [want d] else [want d, want (1 - d)])) (r, [])).2

/-- Reservations of formed waves of a run that lack room (R64). -/
def State.blocked (s : State) (r : Run) : List (Nat × Nat × Nat) :=
  [0, 1].flatMap fun d => (s.formedCands d).flatMap fun c => if c.run.id != r.id || c.fits d then [] else r.lacking c.node d

/-- A target on which a formed wave of a run wants more slots than its instances hold when empty (R352). -/
def State.overCap (s : State) (r : Run) : Option Nat :=
  let bare := { r with insts := r.insts.map fun _ => ({} : Inst) }
  (([0, 1].flatMap fun d => (s.formedCands d).flatMap fun c =>
    if c.run.id != r.id || c.fits d then [] else bare.lacking c.node d).head?).map (·.1)

/-- Whether a tile slot gives a unit something to do: a tile to resolve, a record to emit with its slots reserved. -/
def Tile.works (t : Tile) : Bool := t.state == .filled || (t.state == .shading && t.resv.any (·.left != 0))

/-- Whether a wave or fixed unit of a run issues (R64). -/
def State.runBusy (s : State) (r : Run) : Bool :=
  (s.wavesOf r.id).any (fun w => w.clause.isSome || !(s.runnables (s.parkEnters w)).isEmpty)
    || (s.ashlars.any fun a => (a.rays ++ a.mlp).any fun b => b.run == r.id)
    || (s.courses.any fun c => c.tiles.any fun t => t.run == r.id && t.works)
    || r.bins.any fun b => !b.tiles.isEmpty && b.resv.any (·.left != 0)

/-- Records of a batch that is spilled (R64): the target's W, or 64 for a control or fixed target. -/
def Node.spillBatch (n : Node) : Nat := if n.isProgram then n.width else 64

/-- Records spilled from an instance for a reservation of k slots: whole batches where they leave room, else all. -/
def spillCount (w q reserved cap k : Nat) : Nat :=
  let need := q + reserved + k - cap
  let n := max w ((need + w - 1) / w * w)
  if n ≤ q then n else q

/-- Spills the oldest records of an instance batch by batch. -/
def State.spillOut (s : State) (run t d w left : Nat) : Nat → State
  | 0 => s
  | fuel + 1 =>
    match s.run? run with
    | none => s
    | some r =>
      let n := min w left
      let recs := (r.inst t d).fresh.take n
      if recs.isEmpty || r.cancelling then s
      else
        let k := batchUnits recs.length (((r.node? t).map (·.recsize)).getD 0)
        match s.spillPlace r k with
        | .inl (code, addr) => s.abortRun run code t addr
        | .inr u =>
          let s1 := (s.spillWrite r u k).modRun run fun r =>
            { (r.modInst t d fun (i : Inst) => { i with recs := i.recs.take i.back ++ i.fresh.drop n, spilled := i.spilled ++ [(u, recs)] }) with spills := r.spills + 1 }
          (s1.chargeOther r.slot (s1.cands d)).spillOut run t d w (left - n) fuel

/-- Instances with on-chip records that lie in the queue ways of a die and may spill, which a mesh ring never does (R267): run, node,
die of the instance and bytes; those of one run where one is named. -/
def State.chipInsts (s : State) (q : Nat) (own : Option Nat) : List (Nat × Nat × Nat × Nat) :=
  (s.openRuns.filter fun r => own.all (· == r.id)).flatMap fun r => (List.range r.nodes.length).flatMap fun n => [0, 1].filterMap fun d =>
    let bytes := (r.inst n d).fresh.length * ((r.node? n).map (·.recsize)).getD 0
    if s.queueDie d == q && bytes != 0 && !r.isRing n then some (r.id, n, d, bytes) else none

/-- Moves queue records that a die's queue ways have no room for to the spill areas of their runs, batch by batch, each of the
instance that holds the most bytes (R73, R93; which batch goes is the model's choice: DESIGN CHOICE, log entry 70). Those of one run
where one is named: what one run brings spills no other's (R65). -/
def State.shedUpTo (s : State) (q : Nat) (own : Option Nat) : Nat → State
  | 0 => s
  | fuel + 1 =>
    if s.queueUse q + s.recUse q ≤ s.queueBytes q then s
    else match argMin (fun x => 2 ^ 64 - x.2.2.2) (s.chipInsts q own) with
      | none => s
      | some (r, n, d, _) =>
        let w := ((s.run? r).bind (·.node? n)).elim 64 Node.spillBatch
        (s.spillOut r n d w w 1).shedUpTo q own fuel

/-- What a die's queue ways have no room for leaves them. -/
def State.shedRecords (s : State) (q : Nat) (own : Option Nat) : State := s.shedUpTo q own (sumBy (fun (r : Run) => sumBy Inst.queued r.insts) s.runs)

/-- SPILL TIMEOUT (R64, R65, R352): a run stalled for its spill timeout spills from the instance that blocks it, or ends with
OVERCAP; a run that waits for anything but reservations begins its timer again. -/
def execSpillTimeout (s : State) : Out :=
  match s.run? s.evt.a with
  | none => .next s
  | some r =>
    let queued := r.insts.any fun i => i.queued != 0
    if r.cancelling || !queued || decide (s.now < r.placedAt + r.spillTo * 1000000) || s.runBusy r then .next s
    else
      let again := fun (s : State) => s.modRun r.id fun r => { r with placedAt := s.now }
      let eligible := [0, 1].any fun d => (s.cands d).any fun c => c.run.id == r.id
      let bs := s.blocked r
      if eligible || bs.isEmpty then .next (again s)
      else
        let largest := fun (t d : Nat) => ((bs.filter fun b => b.1 == t && b.2.1 == d).map (·.2.2)).foldl max 0
        match s.overCap r with
        | some t => .next (s.abortRun r.id 3 t 0)
        | none =>
          let ok := (nub (bs.map fun b => (b.1, b.2.1))).filter fun b => !(r.inst b.1 b.2).fresh.isEmpty
          match argMin (fun (b : Nat × Nat) => (2 ^ 32 - (r.inst b.1 b.2).fresh.length) * 512 + 2 * b.1 + b.2) ok with
          | none => .next (again s)
          | some (t, d) =>
            let i := r.inst t d
            let w := ((r.node? t).map (·.spillBatch)).getD 64
            let n := spillCount w i.fresh.length (i.reserved + i.back) (((r.node? t).map (·.qcap)).getD 0) (largest t d)
            .next (again (s.spillOut r.id t d w n i.recs.length))

/-! ### What needs the queue ways -/

/-- A save that finds no room (R353). -/
def State.saveFails (s : State) (w : Wave) (cause code addr : Nat) : State :=
  let stay := fun (s : State) => s.modWave w.id fun w => { w with stat := .resident, saveFor := 0, waitSince := s.now }
  if code = 2 then stay (s.abortRun w.run 2 w.node addr)
  else if cause = 1 then stay s
  else if cause = 2 then stay ((s.endByFault w w.svcSet).modWave w.id fun w => { w with ticket := none, svcAsked := false })
  else stay (s.abortRun w.run 1 w.node addr)

/-- Bytes of a die's queue ways that a save of a run may take: those that nothing takes but queue records of the run, which give
way to it (R73) and alone may be spilled for it (R65). -/
def State.roomFor (s : State) (run q : Nat) : Nat :=
  s.queueBytes q - (s.queueUse q + (s.recUse q - sumBy (fun x => x.2.2.2) (s.chipInsts q (some run))))

/-- Saves a wave's context: into the queue ways, else into its run's spill area (R73, R382). -/
def State.save (s : State) (w : Wave) : State :=
  let cause := s.saveCause w
  let n := w.contextBytes + 64 * s.fifoOf w
  if n ≤ s.roomFor w.run (s.queueDie w.die) then s.takeAway w cause none
  else match s.run? w.run with
    | none => s
    | some r =>
      let k := (n + 63) / 64
      match s.spillPlace r k with
      | .inl (code, addr) => s.saveFails w cause code addr
      | .inr u => (s.spillWrite r u k).takeAway w cause (some (u, k))

/-- CONTEXT SAVE (R73): the saves and restores of a die take place one at a time in the order of their requests; a save takes
precedence over queue records for space. -/
def execContextSave (s : State) : Out :=
  match s.wave? s.evt.a with
  | none => .next s
  | some w => if s.savable w && s.transferFirst w then .next ((s.save w).shedRecords (s.queueDie w.die) (some w.run)) else .next s

/-- RECORD ARRIVAL (R249): appended records are performed in their instance, those of one wave and edge in issue order;
root records as far as there is room (R61); records of a cancelled run are discarded (R354). -/
def execRecordArrival (s : State) : Out :=
  match s.req? s.evt.a with
  | none => .next s
  | some q => match q.body with
    | .append node die recs from_ =>
      let earlier := (s.reqs.takeWhile (·.id != q.id)).any fun k => k.wave == q.wave && k.run == q.run && match k.body with
        | .append n d _ _ => n == node && d == die
        | _ => false
      if !s.ready q || earlier || !from_.isEmpty || q.cross.isSome then .next s
      else match s.run? q.run with
        | none => .next (s.dropReq q.id).settle
        | some r =>
          if r.cancelling then
            let s1 := if q.wave = 0 then s else s.modRun r.id fun r => r.giveBack node die recs.length
            .next (s1.dropReq q.id).settle
          else if q.wave != 0 then
            .next (((((s.count q.ashlar 18 recs.length q.slot).modRun r.id fun r =>
              (r.giveBack node die recs.length).push node die s.now recs).dropReq q.id).shedRecords (s.queueDie die) (some q.run)).settle)
          else
            let i := r.inst node die
            let cap := ((r.node? node).map (·.qcap)).getD 0
            let k := min recs.length (cap - i.recs.length - i.reserved)
            let s1 := s.modRun r.id fun r => r.push node die s.now (recs.take k)
            if k = recs.length then .next (((s1.dropReq q.id).checkFed r.id).shedRecords (s.queueDie die) (some q.run))
            else .next ((s1.modReq q.id fun q => { q with body := .append node die (recs.drop k) [] }).shedRecords (s.queueDie die) (some q.run))
    | _ => .next s

end Sys2Proof.Machine
end

