-- ==== Sys2Proof/Machine/Homes.lean ====
section
/-! DEFINITION. Requests performed at keystone entries, barrier objects and reduction objects (spec 05_ordering.md R115 to R120;
10_isa_memory_sync.md R221 to R226; 18_subsystem_faults.md R354, R355, R357). -/

namespace Sys2Proof.Machine

/-! ### Keystone entries -/

/-- Gives a new overflow entry its place: the queue ways of the home's die, else a unit of the run's spill area; without
room the run ends (R120, R355). -/
def State.placeOverflow (s : State) (run : Nat) (key : DWord) : State :=
  let d := s.keyHome key / 16
  if s.queueUse d ≤ s.queueBytes d then s
  else match s.run? run with
    | none => s
    | some r => match s.spillPlace r 1 with
      | .inr u => (s.spillWrite r u 1).modKey run key fun e => { e with unit := some u }
      | .inl (code, addr) => s.abortRun run code 0 addr

/-- Whether a lane's request must follow an earlier one of its wave: of the same instruction, or on the same key (R116). -/
def State.ordBehind (s : State) (r : Req) (key : DWord) : Bool :=
  (s.reqs.takeWhile (·.id != r.id)).any fun q => q.wave == r.wave && match q.body with
    | .order _ _ k _ _ => k == key || q.op == r.op
    | _ => false

/-- A request to an overflow entry in its run's spill area reads it there (R355); where the read fails translation or permission the run
ends (SPILLFAULT, R343). -/
def State.readOverflow (s : State) (run : Nat) (key : DWord) (node : Nat) : State :=
  match (s.keystone? run key).bind (·.unit), s.run? run with
  | some u, some r => match s.spillFail r u 1 with
    | some a => s.abortRun run 2 node a
    | none => s.spillRead r u 1
  | _, _ => s

/-- KEYSTONE REQUEST (R116): the key's home performs a lane's request. -/
def execKeystoneRequest (s : State) : Out :=
  match s.req? s.evt.a with
  | none => .next s
  | some r => match r.body, r.op with
    | .order op lane key seq reg, some o =>
      if !s.ready r || r.cross.isSome || s.ordBehind r key then .next s
      else
        let new := (s.keystone? r.run key).isNone
        let s1 := ((s.dropReq r.id).readOverflow r.run key (((s.wave? r.wave).map (·.node)).getD 0)).keyRequest r.run op r.wave lane key seq reg o
        let s2 := if new && ((s1.keystone? r.run key).map (·.overflow)).getD false then s1.placeOverflow r.run key else s1
        .next s2.settle
    | _, _ => .next s

/-- The 1 ms of R357, in ps. -/
def stallPs : Nat := 1000000000

/-- The KIND 4 record of an entry (Table 18-2). -/
def State.stallRecord (s : State) (slot : Nat) (e : Keystone) : ErrRec :=
  let seqs := e.waiters.map fun w => w.2.2.1.toNat
  let low := seqs.foldl min (2 ^ 32 - 1)
  let holder := e.holder.bind fun h => s.wave? h.1
  { kind := 4, slot := slot, run := e.run
    node := ((e.waiters.head?.bind fun w => s.wave? w.1).map (·.node)).getD 0
    code := if e.holder.isSome then 0 else if (nub seqs).length < seqs.length then 2 else 1
    addr := e.key.toNat, fmask := low * 2 ^ 32 + e.base.toNat, ticket := e.nextSeq.toNat
    ashlar := (holder.map (·.ashlar)).getD 0xFFFF
    waveseq := match holder with
      | some w => if w.isThread then 0xFFFFFFFF else w.seqno.toNat % 2 ^ 32
      | none => 0xFFFFFFFF }

/-- SECTION STALL (R357): an entry unchanged for 1 ms with waiters is reported once. -/
def execSectionStall (s : State) : Out :=
  match s.keystone? s.evt.a s.evt.v, s.run? s.evt.a with
  | some e, some r =>
    if !e.waiters.isEmpty && !e.stalled && decide (stallPs ≤ e.waited) && s.counting then
      let told := fun (k : Keystone) => if k.run == e.run && k.key == e.key then { k with stalled := true } else k
      .next (({ s with keystones := s.keystones.map told }).postErr (s.stallRecord r.slot e))
    else .next s
  | _, _ => .next s

/-! ### The copy queue -/

/-- Whether an earlier command of the same queue on the ashlar has not reached its engine: a matrix command; a copy, behind which
stand later copies and the arrivals and contributions that the copy engine carries (R228). -/
def State.cmdBehind (s : State) (r : Req) : Bool :=
  (s.reqs.takeWhile (·.id != r.id)).any fun q => q.ashlar == r.ashlar && match q.body with
    | .matrix _ arrived => !arrived && (match r.body with | .matrix _ _ => true | _ => false)
    | .copy c => c.queued && (r.body.carried || match r.body with | .copy _ => true | _ => false)
    | _ => false

/-! ### Barrier objects -/

/-- BINIT performed (Table 10-11). -/
def Barrier.init (b : Barrier) (run expect : Nat) (auto : Bool) : Barrier :=
  if expect = 0 then { b with state := .idle, arrived := 0 }
  else { b with state := .armed, arrived := 0, run := run, expect := expect, auto := auto }

/-- Whether an earlier request of the wave to the object has not been performed. -/
def State.barBehind (s : State) (r : Req) (a x : Nat) : Bool :=
  (s.reqs.takeWhile (·.id != r.id)).any fun q => q.wave == r.wave && match q.body with
    | .barrier _ b y _ => b == a && y == x
    | _ => false

/-- BARRIER REQUEST (R221 to R224): an ashlar performs a request at one of its objects; an arrival of another run, or on an
IDLE or DONE object, is discarded. A BTEST that sees the phase complete acquires as it is performed (R223). -/
def execBarrierRequest (s : State) : Out :=
  match s.req? s.evt.a with
  | none => .next s
  | some r => match r.body with
    | .barrier op a x lanes =>
      if !s.ready r || r.cross.isSome || s.barBehind r a x || s.cmdBehind r then .next s
      else
        let b := s.barrier a x
        let mine := b.state == .idle || b.run == r.run
        let s1 := s.dropReq r.id
        let arrive := fun (k : Nat) (wide : Bool) =>
          if b.run == r.run then s1.modBarrier a x fun b => b.arrive k wide else s1
        let s2 := match op with
          | .init e auto => if mine then s1.modBarrier a x fun b => b.init r.run e auto else s1
          | .arrive k _ => arrive k false
          | .remote k => arrive k true
          | .sync => (arrive 1 false).modWave r.wave fun w => match r.op with
              | some o => w.modOp o fun o => { o with wait := .barrier x b.ph }
              | none => w
          | .wait token => s1.modWave r.wave fun w => match r.op with
              | some o => w.modOp o fun o => { o with wait := .barrier x token }
              | none => w
          | .test va token => match r.op with
              | some o =>
                let t := s1.opReady r.wave o lanes ((lanesOf lanes).flatMap fun l =>
                  [(l, .pred l 7 (b.ph != token)), (l, .vreg l va (BitVec.ofNat 32 (b.ph.toNat + b.state.code * 2 ^ 16)))])
                if b.ph != token then t.barAcquire a x token else t
              | none => s1
        .next s2.settle
    | _ => .next s

/-! ### Gathering reductions -/

/-- The open object of a pair. -/
def State.reduction? (s : State) (run addr : Nat) : Option Reduction := s.reductions.find? fun x => x.run == run && x.addr == addr

/-- REDUCTION REQUEST (R225, R226): the result's home performs a request; an ROPEN waits for its pair's open object, or
for one of the slice's 64, to complete. -/
def execReductionRequest (s : State) : Out :=
  match s.req? s.evt.a with
  | none => .next s
  | some r => match r.body with
    | .reduce op addr pa =>
      if !s.ready r || r.cross.isSome || s.cmdBehind r then .next s
      else
        let here := (s.reductions.filter fun x => s.home (x.pa / 64) == s.home (pa / 64)).length
        let s1 := s.dropReq r.id
        match op, s.reduction? r.run addr with
        | .open_ ring e tag o, none =>
          if 64 ≤ here then .next s
          else
            let x : Reduction := { run := r.run, slot := r.slot, addr := addr, pa := pa, ring := ring, expect := e, tag := tag, op := o }
            let s2 := { s1 with reductions := s1.reductions ++ [x] }
            .next (if e = 0 then s2.completeReduction x false else s2).settle
        | .open_ .., some _ => .next s
        | .contrib v, some x =>
          let y := { x with count := x.count + 1, value := some (match x.value with | some u => redCombine x.op u v | none => v) }
          let s2 := { s1 with reductions := updWhere (fun (k : Reduction) => k.run == x.run && k.addr == x.addr) (fun _ => y) s1.reductions }
          .next (if y.expect ≤ y.count then s2.completeReduction y false else s2).settle
        | .close, some x => .next (s1.completeReduction x (decide (x.count < x.expect))).settle
        | .contrib _, none | .close, none => .next s1.settle
    | _ => .next s

end Sys2Proof.Machine
end

