-- ==== Sys2Proof/Machine/Engines.lean ====
section
/-! DEFINITION. Engines after their commands: the matrix array (spec 11_isa_engines.md R228, R236 to R238; 02_graphs.md R49),
async copies and multicast (R239 to R244, R347), and the vertical FIFO's bus (R252, R253; 18_subsystem_faults.md R361, R362). -/

namespace Sys2Proof.Machine

/-! ### Command queues -/

/-- Whether a request is a command for the matrix array. -/
def Req.isMatrix (r : Req) : Bool := match r.body with | .matrix _ _ => true | _ => false

/-- Whether a request is a command for the copy engine. -/
def Req.isCopy (r : Req) : Bool := match r.body with | .copy _ => true | _ => false

/-- Whether the run a request belongs to is being cancelled, or is gone. -/
def State.cancelled (s : State) (r : Req) : Bool :=
  match s.run? r.run with | some x => x.cancelling | none => true

/-- ENGINE COMMAND ARRIVAL (R228): the next command of a queue reaches its engine; commands still queued when their die
parks are sent after restore (Table 18-6). -/
def execEngineCommandArrival (s : State) : Out :=
  match s.req? s.evt.a with
  | none => .next s
  | some r =>
    if !s.ready r || s.cmdBehind r || s.dieHeld (dieOf r.ashlar) then .next s
    else match r.body with
      | .matrix c _ => .next (s.modReq r.id fun q => { q with body := .matrix c true })
      | .copy c => .next (s.modReq r.id fun q => { q with body := .copy { c with queued := false } })
      | _ => .next s

/-! ### The matrix array -/

/-- Changes an ashlar's array. -/
def State.modArray (s : State) (a : Nat) (f : MatArray → MatArray) : State :=
  s.modAshlar a fun (x : Ashlar) => { x with array := f x.array }

/-- Matrix commands of an ashlar that are not running streams, in queue order. -/
def State.matWaiting (s : State) (a : Nat) : List Req :=
  s.reqs.filter fun r => r.ashlar == a && r.isMatrix && !(s.ashlar a).array.streams.any (·.req == r.id)

/-- The command the array comes to next, where it has arrived. -/
def State.matNext (s : State) (a : Nat) : Option (Req × MatCmd) :=
  match s.matWaiting a with
  | r :: _ => match r.body with | .matrix c true => some (r, c) | _ => none
  | [] => none

/-- Ends a command of a cancelled run without its effect (R238). -/
def State.cancelMat (s : State) (r : Req) : State :=
  match r.body, s.wave? r.wave with
  | .matrix (.mstream b) _, some w =>
    match (s.ashlar r.ashlar).array.streams.find? (·.req == r.id) with
    | some t => s.stopStream w t
    | none =>
      let k := matBlock b
      (s.dropReq r.id).ringPost w.id k.ring { status := 3, tag := k.tag }
  | _, _ => s.dropReq r.id

/-- Ends the matrix commands of cancelled runs on an ashlar (R49, R238). -/
def State.sweepMat (s : State) (a : Nat) : State :=
  ((s.reqs.filter fun r => r.ashlar == a && r.isMatrix && s.cancelled r).foldl State.cancelMat s).settle

/-- MLDW FINISH (R233, R236): the image is in the shadow plane. -/
def execMldwFinish (s0 : State) : Out :=
  let a := s0.evt.a
  let s := s0.sweepMat a
  match if s.dieHeld (dieOf a) then none else s.matNext a with
  | some (r, .mldw off) => match s.wave? r.wave with
    | none => .next s
    | some w =>
      let image := s.scratchRead w off 4096
      .next ((s.dropReq r.id).modArray a fun x => { x with shadow := image }).settle
  | _ => .next s

/-- Whether a stream has begun its last pass. -/
def Stream.lastPass (t : Stream) : Bool := decide ((matBlock t.block).kch ≤ t.planes.length)

/-- Rows of the pass under way that a stream has issued. -/
def Stream.issued (t : Stream) : Nat := t.got.length - (t.planes.length - 1) * (matBlock t.block).m

/-- Whether a stream has issued every row of the pass it has begun. -/
def Stream.passDone (t : Stream) : Bool := decide ((matBlock t.block).m ≤ t.issued)

/-- Blocks of 32 in a chunk of a stream (R235). -/
def MatBlock.blocks (b : MatBlock) : Nat := (chunkLen b.afmt b.wfmt).getD 32 / 32

/-- The bytes that row m reads as it issues in pass j, as space-1 addresses and lengths: its chunk, its activation scales, the
weight scales (R235, R236). -/
def MatBlock.reads (b : MatBlock) (m j : Nat) : List (Nat × Nat) :=
  [(b.act + 64 * b.kch * m + 64 * j, 64),
   if b.ascale = 0xFFFF then (0, 0) else (16 * b.ascale + (m * b.kch + j) * b.blocks, b.blocks),
   if b.wscale = 0xFFFF then (0, 0) else (16 * b.wscale + 64 * j * b.blocks, 64 * b.blocks)]

/-- Whether a stream's rows that are not yet written reach bytes that a wave reads: later streams wait for them (R236). -/
def State.overlaps (s : State) (t : Stream) (w : Wave) (read : Nat × Nat) : Bool :=
  match s.wave? t.wave with
  | none => false
  | some v =>
    let b := matBlock t.block
    let lo := v.scratchAt (b.out + t.row * b.rowBytes)
    let at_ := w.scratchAt read.1
    !b.oq && read.2 != 0 && decide (at_ < lo + (b.m - t.row) * b.rowBytes) && decide (lo < at_ + read.2)

/-- The cycle at which the oldest stream's next row is finished: 72 cycles after its last pass issues (R237). -/
def MatArray.finishAt (x : MatArray) : Option Nat :=
  match x.streams with
  | t :: _ => if t.lastPass then (t.got[(t.planes.length - 1) * (matBlock t.block).m + t.row]?).map (·.1 + 72) else none
  | [] => none

/-- The stream that issues rows issues the next one of its pass, in the array's cycle, where that has come and no earlier stream has
still to write what the row reads (R236). -/
def State.issueRow (s : State) (a : Nat) : State :=
  let x := (s.ashlar a).array
  match x.streams.getLast? with
  | none => s
  | some t => match s.wave? t.wave with
    | none => s
    | some w =>
      let b := matBlock t.block
      let reads := b.reads t.issued (t.planes.length - 1)
      if t.passDone || decide (x.cycle < t.due) || x.streams.dropLast.any (fun e => reads.any (s.overlaps e w)) then s
      else
        let bs := reads.flatMap fun r => s.scratchRead w r.1 r.2
        (s.modArray a fun x => { x with
          streams := x.streams.dropLast ++ [{ t with due := x.cycle + 1, got := t.got ++ [(x.cycle, bs)] }] }).count a 13 1 w.slot

/-- Whether the array stands at a stream boundary: no stream is amid a pass (R236). -/
def MatArray.atBoundary (x : MatArray) : Bool := x.streams.all Stream.passDone

/-- Cycles of the row pipeline pass: in each the next row may issue; it stops where a row is due to be finished and has not been
(R237). -/
def State.pipe (s : State) (a : Nat) : Nat → State
  | 0 => s
  | n + 1 =>
    let x := (s.ashlar a).array
    let stop := x.finishAt.getD (x.cycle + n + 1)
    if x.streams.isEmpty || decide (stop ≤ x.cycle) then s
    else if x.atBoundary then s.modArray a fun x => { x with cycle := min stop (x.cycle + n + 1) }
    else ((s.modArray a fun x => { x with cycle := x.cycle + 1 }).issueRow a).pipe a n

/-- Cycles pass on every array; one of a parked die stops (Table 18-6). -/
def State.pipeAll (s : State) (cycles : Nat → Nat) : State :=
  ((List.range 128).filter fun a => !(s.ashlar a).array.streams.isEmpty && !s.dieHeld (dieOf a)).foldl
    (fun (s : State) a => s.pipe a (cycles (courseOf a))) s

/-- The streams after the planes were exchanged at a stream boundary: the one that issues rows begins its next pass with
the plane now active, or has ended (R236). -/
def swapStreams (active : List Byte) (l : List Stream) : List Stream :=
  l.map fun (t : Stream) =>
    if !t.issuing then t
    else if t.lastPass then { t with issuing := false }
    else { t with planes := t.planes ++ [active] }

/-- MSWAP EFFECT (R236): at a stream boundary the planes are exchanged; the next pass may begin. -/
def execMswapEffect (s0 : State) : Out :=
  let a := s0.evt.a
  let s := s0.sweepMat a
  match s.matNext a with
  | some (r, .mswap) =>
    if !(s.ashlar a).array.atBoundary || s.dieHeld (dieOf a) then .next s
    else
      let t := (s.dropReq r.id).modArray a fun x =>
        { x with active := x.shadow, shadow := x.active, streams := swapStreams x.shadow x.streams }
      .next (t.issueRow a).settle
  | _ => .next s

/-- STREAM START (R236): the first pass begins once the stream before it has issued its last row. -/
def execStreamStart (s0 : State) : Out :=
  let a := s0.evt.a
  let s := s0.sweepMat a
  match s.matNext a with
  | some (r, .mstream b) =>
    let x := (s.ashlar a).array
    if s.dieHeld (dieOf a) || !x.atBoundary || x.streams.any (fun t => t.issuing && !t.lastPass) then .next s
    else
      let due := (x.streams.getLast?.map (·.due)).getD 0
      .next ((s.modArray a fun x => { x with
        streams := x.streams.map (fun (t : Stream) => { t with issuing := false })
          ++ [{ req := r.id, wave := r.wave, block := b, planes := [x.active], due := due }] }).issueRow a)
  | _ => .next s

/-- The exponent of a scale byte; none for 0xFF (Table 6-1). -/
def scaleExp (b : Nat) : Option Int := if b = 255 then none else some ((b : Int) - 127)

/-- Exponent of the scales of block k of a row and column n, from the bytes that the row read as it issued (R235). -/
def MatBlock.scale (b : MatBlock) (bs : List Byte) (n blk : Nat) : Option Int :=
  let rd := fun i => (bs.getD (64 + i) 0).toNat
  let wAt := if b.ascale = 0xFFFF then 0 else b.blocks
  match (if b.ascale = 0xFFFF then some 0 else scaleExp (rd blk)), (if b.wscale = 0xFFFF then some 0 else scaleExp (rd (wAt + 64 * blk + n))) with
  | some x, some y => some (x + y)
  | _, _ => none

/-- Element n of row m of a stream (R237): the sums over the passes, from what the row read in each, and the finish of R146, whose
bias and existing element are read now (R236). -/
def MatBlock.element (b : MatBlock) (s : State) (w : Wave) (t : Stream) (m n : Nat) : Nat :=
  let rd := fun (a len : Nat) => ofBytes (s.scratchRead w a len)
  let k := (chunkLen b.afmt b.wfmt).getD 32
  let c0 := if b.acc = 1 then rd (b.out + m * 256 + 4 * n) 4 else 0
  let c := (List.range b.kch).foldl (fun c j =>
    let bs := ((t.got[j * b.m + m]?).map (·.2)).getD []
    accumulate c (chunkSum b.afmt b.wfmt k k (bs.take 64) (t.planes.getD j []) n (b.scale bs n))) c0
  finishElement c (if b.bias = 0xFFFFFFFF then none else some (rd (b.bias + 4 * n) 4)) b.epi b.ofmt

/-- Writes or pushes a finished row; none while the queue register has no room (R237). A draining wave's rows for a queue
register are discarded (R45). -/
def State.putRow (s : State) (w : Wave) (b : MatBlock) (m : Nat) (row : List Nat) : Option State :=
  if b.oq then
    if w.stat == .draining then some s
    else if 4 ≤ (w.rows b.out).length then none
    else
      let words := row.map fun x => BitVec.ofNat 32 (x % 2 ^ codeBits b.ofmt)
      some (s.modWave w.id fun w => { w with q := w.q.modify b.out (· ++ [words]) })
  else some (s.scratchWrite w.id (b.out + m * b.rowBytes) (packElems (codeBits b.ofmt) row))

/-- MATRIX ROW FINISH (R237): the oldest stream's next row, 72 cycles after its last pass issued, is finished and written or pushed;
with the last row the stream completes and posts its record. A parked die finishes none (Table 18-6). -/
def execMatrixRowFinish (s0 : State) : Out :=
  let a := s0.evt.a
  let s := s0.sweepMat a
  let x := (s.ashlar a).array
  match x.streams, x.finishAt with
  | t :: rest, some f =>
    let b := matBlock t.block
    match s.wave? t.wave with
    | none => .next s
    | some w =>
      if x.cycle < f || s.dieHeld (dieOf a) then .next s
      else match s.putRow w b t.row ((List.range 64).map (b.element s w t t.row)) with
        | none => .next s
        | some s1 =>
          if t.row + 1 < b.m then
            .next ((s1.modArray a fun x => { x with streams := { t with row := t.row + 1 } :: rest }).poke w.id)
          else
            let s2 := (s1.modArray a fun x => { x with streams := rest }).dropReq t.req
            .next ((s2.ringPost w.id b.ring { status := 0, tag := b.tag, moved := b.total }).settle.poke w.id)
  | _, _ => .next s

/-! ### Async copies -/

/-- Elements of a copy's box. -/
def Layout.elems (l : Layout) : Nat := l.ext 0 * l.ext 1 * l.ext 2 * l.ext 3

/-- Index of element n in dimension d, dimension 0 fastest. -/
def Layout.at_ (l : Layout) (n d : Nat) : Nat :=
  match d with
  | 0 => n % l.ext 0
  | 1 => n / l.ext 0 % l.ext 1
  | 2 => n / (l.ext 0 * l.ext 1) % l.ext 2
  | _ => n / (l.ext 0 * l.ext 1 * l.ext 2)

/-- Coordinates of element n (R241); idx gives the words of the index list. -/
def Copy.coords (c : Copy) (l : Layout) (idx : Nat → Nat) (n : Nat) : List Int :=
  (List.range 4).map fun d =>
    if l.dims ≤ d then 0
    else if d = 1 && 3 ≤ c.kind then (idx (l.at_ n 1) : Int)
    else c.c.getD d 0 + (l.at_ n d : Int)

/-- Whether coordinates lie inside the tensor. -/
def Layout.inside (l : Layout) (x : List Int) : Bool :=
  (List.range l.dims).all fun d => decide (0 ≤ x.getD d 0) && decide (x.getD d 0 < (l.size.getD d 0 : Int))

/-- Global address of an element inside the tensor. -/
def Layout.global (l : Layout) (x : List Int) : Nat :=
  l.base + (x.getD 0 0).toNat * l.bytes
    + sumBy (fun d => (x.getD (d + 1) 0).toNat * l.stride.getD d 0) (List.range 3)

/-- Scratch address of element n. -/
def Layout.scratch (l : Layout) (n : Nat) : Nat :=
  let s := l.dst + l.at_ n 0 * l.bytes + (l.at_ n 1 + l.ext 1 * (l.at_ n 2 + l.ext 2 * l.at_ n 3)) * l.dpitch
  if l.swizzle = 2 then s / 128 * 128 + ((s / 16 % 8) ^^^ (s / 128 % 8)) * 16 + s % 16 else s

/-- Code of Table 11-2 for an address-path fault. -/
def engineCode (cls : Nat) : Nat := if cls = cTranslation then 1 else if cls = cHardware then 3 else 2

/-- The translation a copy holds for a page (R347). -/
def Copy.held (c : Copy) (va : Nat) : Option Leaf :=
  (c.pages.find? fun t => t.page == va / 2 ^ 16).map fun t => ⟨t.at_, t.entry, t.odd, t.level⟩

/-- Why an access of a copy to a byte's page fails, as a code of Table 11-2: a page it holds is not walked again. -/
def State.copyFault (s : State) (r : Req) (c : Copy) (va : Nat) (write : Bool) : Option Nat :=
  match c.held va with
  | some l =>
    if !(if write then l.w else l.r) || reservedPa (l.pa va) then some 2
    else if !write && s.bad (l.pa va / 64) then some 3 else none
  | none => match s.pathFault r.ashlar r.slot va 1 { read := !write, write := write } with
    | some (cls, _) => some (engineCode cls)
    | none => if !write && s.bad (s.paOf r.ashlar r.slot va / 64) then some 3 else none

/-- Physical address of a byte a copy accesses. -/
def State.copyPa (s : State) (r : Req) (c : Copy) (va : Nat) : Nat :=
  match c.held va with | some l => l.pa va | none => s.paOf r.ashlar r.slot va

/-- Takes the translation of a byte's page at its first touch (R242), setting A, and D for a write. -/
def State.copyTouch (s : State) (r : Req) (c : Copy) (va : Nat) (write : Bool) : State × Copy :=
  match c.held va with
  | some _ => (s, c)
  | none =>
    let s1 := (s.noteMisses r.ashlar r.slot [va]).touch r.ashlar r.slot va write
    match s1.cached? r.ashlar r.slot va with
    | some t => (s1, { c with pages := c.pages ++ [{ t with page := va / 2 ^ 16 }] })
    | none => (s1, c)

/-- Policy of the leaf of a byte that a copy accesses. -/
def Copy.policy (c : Copy) (va : Nat) : Nat := ((c.held va).map (·.cp)).getD 0

/-- Whether the lines of n bytes that a copy accesses can be accessed now, as packets of its ashlar's L1 (R21). -/
def State.copyReach (s : State) (r : Req) (c : Copy) (va n : Nat) : Bool :=
  (lineStarts va n).all fun a =>
    let line := s.copyPa r c a / 64
    s.reach (s.l1Of r.ashlar line) line

/-- The packet of a copy to a line, and the line's place in a cache way, which policy 3 leaves empty (R21, Table 4-7). -/
def State.copyLine (s : State) (r : Req) (c : Copy) (va : Nat) (write : Bool) : State :=
  let line := s.copyPa r c va / 64
  (s.number (s.l1Of r.ashlar line) line write).unitWay line (c.policy va) write

/-- Bytes of global memory as a copy of an ashlar reads them: what the ashlar's L1 holds dirty, else the home's; L1 keeps no action
of an ashlar-scope fence from it (R103, R110, Table 5-4). -/
def State.copyByte (s : State) (ashlar pa : Nat) : Byte :=
  match s.l1Line? (s.l1Of ashlar (pa / 64)) (pa / 64) with
  | some l => if laneBit l.dirty (pa % 64) then l.data.getD (pa % 64) 0 else s.mem.read pa
  | none => s.mem.read pa

/-- Reads n bytes of an element from global memory. -/
def State.copyLoad (s : State) (r : Req) (c : Copy) (va n : Nat) : State × List Byte :=
  let t := (lineStarts va n).foldl (fun (s : State) a => s.copyLine r c (max a va) false) s
  (t, (List.range n).map fun i => t.copyByte r.ashlar (t.copyPa r c (va + i)))

/-- Writes bytes of an element to global memory at their homes; the ashlar's L1 holds them from now on where it holds the line. -/
def State.copyStore (s : State) (r : Req) (c : Copy) (va : Nat) (bs : List Byte) : State :=
  (linePieces va bs.length).foldl (fun (s : State) p =>
    let pa := s.copyPa r c p.2.1
    let new := (bs.drop p.1).take p.2.2
    let mask := maskOf ((List.range new.length).map fun i => (pa + i) % 64)
    let s1 := (s.copyLine r c p.2.1 true).homeWrite pa new false
    match s1.l1Line? (s1.l1Of r.ashlar (pa / 64)) (pa / 64) with
    | some l => s1.setL1 { l with data := overlay l.data (pa % 64) new, valid := l.valid ||| mask, dirty := l.dirty &&& ~~~mask }
    | none => s1) s

/-- A copy that has written every byte of a line with an uncorrectable error clears it (R345). -/
def State.copyWhole (s : State) (r : Req) (c : Copy) (va n : Nat) : State × Copy :=
  (linePieces va n).foldl (fun (acc : State × Copy) p =>
    let pa := acc.1.copyPa r acc.2 p.2.1
    let line := pa / 64
    if !acc.1.bad line then acc
    else
      let old := ((acc.2.wrote.find? (·.1 == line)).map (·.2)).getD 0
      let new := old ||| maskOf ((List.range p.2.2).map fun i => (pa + i) % 64)
      ({ acc.1 with poisoned := if new == ~~~0 then acc.1.poisoned.filter (· != line) else acc.1.poisoned },
       { acc.2 with wrote := (line, new) :: acc.2.wrote.filter (·.1 != line) })) (s, c)

/-- Performs a copy's next element (R241, R242): the state, and the copy after it; none while its lines cannot be accessed. -/
def State.copyElem (s : State) (r : Req) (w : Wave) (c : Copy) : Option (State × Copy) :=
  let l := layout c.lay
  let n := c.next
  let x := c.coords l (fun i => ofBytes (s.scratchRead w (c.index + 4 * i) 4)) n
  let at_ := l.scratch n
  let store := c.kind == 2 || c.kind == 4
  let on := { c with next := n + 1 }
  if !l.inside x then
    if store || l.skip then some (s, on)
    else if c.kind = 1 then some (s, { on with tile := c.tile ++ [(at_, List.replicate l.bytes 0)] })
    else some (s.scratchWrite w.id at_ (List.replicate l.bytes 0), on)
  else
    let g := l.global x
    match (List.range l.bytes).findSome? fun i => s.copyFault r c (g + i) store with
    | some code => some (s, { c with code := code })
    | none =>
      let (s1, c1) := s.copyTouch r on g store
      let (s2, c2) := s1.copyTouch r c1 (g + l.bytes - 1) store
      if !s2.copyReach r c2 g l.bytes then none
      else
        let c3 := { c2 with moved := c.moved + l.bytes }
        let counted := s2.count r.ashlar 14 l.bytes r.slot
        if store then some ((counted.copyStore r c3 g (s.scratchRead w at_ l.bytes)).copyWhole r c3 g l.bytes)
        else
          let (s3, bs) := counted.copyLoad r c3 g l.bytes
          if c.kind = 1 then some (s3, { c3 with tile := c.tile ++ [(at_, bs)] })
          else some (s3.scratchWrite w.id at_ bs, c3)

/-- Performs up to a number of further elements of a copy that has reached its engine. -/
def State.copyRun (s : State) (id : Nat) : Nat → State
  | 0 => s
  | fuel + 1 =>
    match s.req? id with
    | none => s
    | some r => match r.body, s.wave? r.wave with
      | .copy c, some w =>
        if c.queued || c.code != 0 || decide ((layout c.lay).elems ≤ c.next) then s
        else match s.copyElem r w c with
          | none => s
          | some (s1, c1) => (s1.modReq id fun q => { q with body := .copy c1 }).copyRun id fuel
      | _, _ => s

/-- Receivers of a multicast: the ashlars of the issuing die that MASK names. -/
def Copy.receivers (c : Copy) (r : Req) : List Nat :=
  if c.kind = 1 then (lanesOf (layout c.lay).mask).map fun i => 64 * dieOf r.ashlar + i else []

/-- Whether an ashlar's die or rails keep it from receiving a tile. -/
def State.cannotReceive (s : State) (a : Nat) : Bool :=
  let d := dieOf a
  s.dieHeld d || (s.ashlar a).retired || (s.gate d 1).gated || (s.gate d 2).gated

/-- MULTICAST DELIVERY (R244): the tile reaches a receiver, whose landing barrier accepts or refuses it by its state alone. -/
def execMulticastDelivery (s0 : State) : Out :=
  match s0.req? s0.evt.a with
  | none => .next s0
  | some r0 => match r0.body with
    | .copy c0 =>
      let s := s0.copyRun r0.id (layout c0.lay).elems
      match s.req? r0.id with
      | none => .next s
      | some r => match r.body with
        | .copy c =>
          let l := layout c.lay
          let a := s.evt.b
          if c.queued || c.code != 0 || decide (c.next < l.elems) || !(c.receivers r).contains a || c.delivered.contains a || s.cancelled r then .next s
          else
            let b := s.barrier a l.bar
            let takes := b.state == .armed && b.arrived == 0 && !s.cannotReceive a
            let told := { c with delivered := a :: c.delivered
                                 refused := if takes then c.refused else c.refused ||| oneLane (a % 64) }
            let s1 := s.modReq r.id fun q => { q with body := .copy told }
            if takes then
              let s2 := s1.modAshlar a fun (x : Ashlar) => { x with
                scratch := c.tile.foldl (fun (m : Mem) e => m.writeN e.1 e.2) x.scratch }
              .next (s2.modBarrier a l.bar fun b => b.arrive 1 true).settle
            else .next s1
        | _ => .next s
    | _ => .next s0

/-- The completion record of a copy that has ended. -/
def Copy.record (c : Copy) (l : Layout) (r : Req) (cancelled : Bool) : CmRec :=
  let whole := decide (l.elems ≤ c.next) && (c.receivers r).all fun a => c.delivered.contains a
  let none_ := c.kind == 1 && (c.receivers r).all fun a => laneBit c.refused (a % 64) || !c.delivered.contains a
  { status := if c.code != 0 then 2 else if !whole && cancelled then 3 else if c.refused != 0 then 1 else 0
    code := c.code, tag := l.tag, moved := if none_ then 0 else c.moved, refused := c.refused }

/-- COPY COMPLETION (R242, R243, R347): the copy performs what is left of it, gives up its translations and completes: its
release at SCOPE, its record, and after that its arrival, which only CPLOAD and CPGATH make (Table 11-8). A copy of a cancelled run stops where it stands. -/
def execCopyCompletion (s0 : State) : Out :=
  match s0.req? s0.evt.a with
  | none => .next s0
  | some r0 => match r0.body with
    | .copy c0 =>
      let l := layout c0.lay
      let cancelled := s0.cancelled r0
      let s := if cancelled then s0 else s0.copyRun r0.id l.elems
      match s.req? r0.id with
      | none => .next s
      | some r => match r.body with
        | .copy c =>
          let undelivered := (c.receivers r).any fun a => !c.delivered.contains a
          if !cancelled && (c.queued || (c.code == 0 && (decide (c.next < l.elems) || undelivered))) then .next s
          else
            let s1 := (s.dropReq r.id).modWave r.wave fun w => { w with cpScope := max w.cpScope l.scope }
            let arrives := l.arrive && c.code == 0 && decide (l.elems ≤ c.next) && (c.kind == 0 || c.kind == 3)
            let s2 := s1.ringPost r.wave l.ring (c.record l r cancelled)
              (if arrives then some (r.ashlar, l.bar, decide (3 ≤ l.scope)) else none)
            .next (s2.settle.poke r.wave)
        | _ => .next s
    | _ => .next s0

/-! ### The vertical FIFO's bus -/

/-- Changes the first entry that satisfies a test. -/
def updFirst {α : Type} (p : α → Bool) (f : α → α) : List α → List α
  | [] => []
  | x :: xs => if p x then f x :: xs else x :: updFirst p f xs

/-- VFIFO ENTRY AVAILABLE (R252): the oldest entry on the bus becomes available, 8 cycles after its push; one that a repair holds does
not (R361). -/
def execVfifoEntryAvailable (s : State) : Out :=
  let a := s.evt.a
  let x := s.ashlar a
  match x.fifo.find? fun e => !e.avail with
  | some e =>
    if e.held.isSome || x.retired || decide (s.now < e.at_) then .next s
    else .next (s.modAshlar a fun (x : Ashlar) => { x with
      fifo := updFirst (fun (e : FifoEntry) => !e.avail) (fun (e : FifoEntry) => { e with avail := true }) x.fifo })
  | none => .next s

/-- Whether the beats of an entry go over the bus now: the cycle that ends 6 cycles before it is available. Beats of earlier entries
have been delivered. -/
def State.onBus (s : State) (a : Nat) (e : FifoEntry) : Bool :=
  !e.avail && decide (s.now + s.cyclesPs a 6 ≤ e.at_) && decide (e.at_ ≤ s.now + s.cyclesPs a 7)

/-- Entries from the failing one on are held, k beats of it delivered; those before it have been delivered and stand (R361). -/
def holdFrom (k : Nat) (p : FifoEntry → Bool) : List FifoEntry → List FifoEntry
  | [] => []
  | e :: r => if p e then { e with held := some k } :: r.map fun e => { e with held := some 0 } else e :: holdFrom k p r

/-- Runs with a wave on an ashlar. -/
def State.runsOn (s : State) (a : Nat) : List Nat := nub ((s.waves.filter fun w => w.ashlar == a).map (·.run))

/-- VFIFO BEAT FAIL (R361, R362): beat 0, or with the flag beat 1, of the entry on the bus fails: the bus stops for the repair, 32 cycles
for the test pattern and 8 to map the wire, from the end of that cycle on; without a spare wire the ashlar is retired, and where its
die has no other its runs end with SPILLFULL. -/
def execVfifoBeatFail (s : State) : Out :=
  let a := s.evt.a
  let x := s.ashlar a
  match x.fifo.find? (s.onBus a) with
  | none => .next s
  | some e =>
    let stop := fun (x : Ashlar) => { x with
      fifoStop := true, fifoMends := e.at_ - s.cyclesPs a 6 + s.cyclesPs a 40
      fifo := holdFrom (if s.evt.flag then 1 else 0) (s.onBus a) x.fifo }
    if x.fifoStop || x.retired then .next s
    else if x.spares != 0 then .next (s.modAshlar a stop)
    else
      let s1 := (s.modAshlar a fun (x : Ashlar) => { stop x with retired := true, reservedFor := none }).cornerAdd
        (dieOf a) 8 a s.evt.b
      let s2 := (s1.requestAll fun w => w.ashlar == a && w.unasked).writeBack [a]
      if (dieAshlars (dieOf a)).all fun b => (s2.ashlar b).retired then
        .next ((s2.runsOn a).foldl (fun (s : State) r => s.abortRun r 1 0 0) s2)
      else .next s2

/-- VFIFO REPAIR COMPLETE (R361): the wire is mapped to a spare and the beats are replayed. -/
def execVfifoRepairComplete (s : State) : Out :=
  let a := s.evt.a
  let x := s.ashlar a
  if x.fifoStop && !x.retired && x.spares != 0 && decide (x.fifoMends ≤ s.now) then
    .next (s.modAshlar a fun (x : Ashlar) => { x with
      fifoStop := false, spares := x.spares - 1, fifo := replay s.now (s.cyclesPs a 1) x.fifo })
  else .next s

end Sys2Proof.Machine
end

