-- ==== Sys2Proof/Machine/Links.lean ====
section
/-! DEFINITION. Events of the die-to-die link (spec 11_isa_engines.md R256, R257; 15_platform.md R307; 18_subsystem_faults.md
R359, R360; 01_organisation.md R21): turns, leases, flits, recalibration and the removal of lane groups. -/

namespace Sys2Proof.Machine

/-- The 180 ns of a turn, of a retraining attempt and of a recalibration, in ps (R257, R307, R360). -/
def turnPs : Nat := 180000

/-- The 1 ms of a lease, in ps (R256). -/
def leasePs : Nat := 1000000000

/-- With no live group left the link is down: vector 67, and both dies park (R360). -/
def State.linkLost (s : State) : State :=
  if s.link.liveGroups.isEmpty && s.plumb.linkDown.isNone then
    ({ s with
      dies := s.dies.map fun (d : Die) => { d with linkPark := true }
      plumb := { s.plumb with linkDown := some s.now } }.requestAll Wave.unasked).msi 67
  else s

/-- Removes a lane group from service (R359): LIVE clears, the removal is logged, the split is recomputed and the next
turn due begins (R360). -/
def State.removeGroup (s : State) (g : Nat) : State :=
  if (s.group g).live then
    let s1 := s.modGroup g fun x => { x with live := false, replays := [], part := none }
    let turning := match s1.link.turning with | some (h, _) => h == g | none => false
    let recal := match s1.link.recal with | some (h, _) => h == g | none => false
    let s2 := { s1 with link := { s1.link with
      turning := if turning then none else s1.link.turning
      recal := if recal then none else s1.link.recal } }
    ((s2.cornerAdd 0 7 (0xC0 + g) g).linkLost).steer
  else s

/-- LINK TURN END (R257, R360): 180 ns after a turn or attempt began, the group has retrained and reopens, or fails; the
third failure in a row removes it. -/
def execLinkTurnEnd (s : State) : Out :=
  match s.link.turning with
  | none => .next s
  | some (g, t) =>
    if s.now < t + turnPs then .next s
    else if s.evt.flag then
      let s1 := s.modGroup g fun x => { x with lastTurn := some s.now, retrain := 0 }
      .next ({ s1 with link := { s1.link with turning := none } }).arbitrate
    else if (s.group g).retrain + 1 < 3 then
      let s1 := s.modGroup g fun x => { x with retrain := x.retrain + 1 }
      .next { s1 with link := { s1.link with turning := some (g, s.now) } }
    else .next ((s.modGroup g fun x => { x with retrain := 3 }).removeGroup g)

/-- LEASE TIMEOUT (R256): 1 ms after its grant a lease ends. -/
def execLeaseTimeout (s : State) : Out :=
  match s.link.lease with
  | some (slot, _, t) => if t + leasePs ≤ s.now then .next (s.endLease slot) else .next s
  | none => .next s

/-- TURN WAIT END (R257): a turn that waited for the 10 µs since its group's previous turn begins. -/
def execTurnWaitEnd (s : State) : Out := .next s.steer

/-- A message has come over the link whole: a packet, its reply or acknowledgement enters the other die's mesh; a home's answer
reaches its wave; another request stands on the die of its home. -/
def State.crossed (s : State) (id : Nat) : State :=
  match s.req? id with
  | none => s
  | some r =>
    let here := fun (q : Req) => { q with die := 1 - q.die, cross := none }
    match r.body with
    | .packet p => s.modReq id fun q => { here q with body := .packet { p with router := entryRouter p.router, came := none } }
    | .message => s.dropReq id
    | .reply m ds => match r.op with
      | some op => (s.dropReq id).opReady r.wave op m ds
      | none => s.dropReq id
    | _ => s.modReq id here

/-- FLIT RECEIVE (R24, R359): the next flit of a live lane group arrives, packed with the messages that wait in its direction. With a
good CRC the messages that end in it are delivered, each once; else the sender replays it, and more than 32 replays within 1 µs
remove the group. -/
def execFlitReceive (s : State) : Out :=
  let g := s.evt.a
  let x := s.group g
  let queue := s.flitQueue g s.ready
  if !s.carries g x.aToB || queue.isEmpty then .next s
  else if s.evt.flag then
    let (done, part) := packFlit 56 queue
    .next (done.foldl State.crossed (s.modGroup g fun x => { x with flit := x.flit + 1, part := part })).settle
  else
    let l := s.now :: x.replays.filter fun t => decide (s.now ≤ t + 1000000)
    let s1 := s.modGroup g fun x => { x with replays := l }
    .next (if 32 < l.length then s1.removeGroup g else s1)

/-- LINK RECALIBRATION (R307): Plumb takes one lane group at a time, not one that is turning. -/
def execLinkRecalibration (s : State) : Out :=
  let g := s.evt.a
  let turning := match s.link.turning with | some (h, _) => h == g | none => false
  if decide (g < 16) && (s.group g).live && s.link.recal.isNone && !turning then
    let s1 := s.modGroup g fun x => { x with retrain := 0, part := none }
    .next { s1 with link := { s1.link with recal := some (g, s.now) } }
  else .next s

/-- RECALIBRATION END (R307, R359): after 180 ns the group carries flits again, or retrains; the third failure in a row
removes it. A turn that waited for it begins. -/
def execRecalibrationEnd (s : State) : Out :=
  match s.link.recal with
  | none => .next s
  | some (g, t) =>
    if s.now < t + turnPs then .next s
    else if s.evt.flag then
      let s1 := s.modGroup g fun x => { x with retrain := 0 }
      .next ({ s1 with link := { s1.link with recal := none, calibrated := g } }).steer
    else if (s.group g).retrain + 1 < 3 then
      let s1 := s.modGroup g fun x => { x with retrain := x.retrain + 1 }
      .next { s1 with link := { s1.link with recal := some (g, s.now) } }
    else .next (s.removeGroup g)

end Sys2Proof.Machine
end

