-- ==== Sys2Proof/Machine/Dies.lean ====
section
/-! DEFINITION. Events of dies, memory slices and banks (spec 11_isa_engines.md R259, R260; 15_platform.md R306, R307;
04_memory.md R93 to R96; 18_subsystem_faults.md R349 to R351, R353, R363, R364; 20_programs_traps.md R376, R377), and the
writes of special registers that act on them (R231, R260). -/

namespace Sys2Proof.Machine

/-! ### Parks and rails -/

/-- Whether a request is work of a die that a park waits for: a copy already sent, an arrival at a barrier, an append, a store
on its way (Table 18-6). -/
def State.parkWork (s : State) (d : Nat) (r : Req) : Bool :=
  match r.body with
  | .copy c => dieOf r.ashlar == d && !c.queued
  | .barrier _ _ _ _ | .append _ _ _ _ => dieOf r.ashlar == d && (s.wave? r.wave).isSome
  | .packet p => decide (p.src < 128) && dieOf p.src == d && p.kind == .store && p.stage != .performed
  | _ => false

/-- Whether everything a park of a die saves or finishes is saved or finished (R259, Table 18-6). A draining wave's context
stands where it is. -/
def State.parkDone (s : State) (d : Nat) : Bool :=
  (s.waves.all fun w => w.die != d || w.stat == .saved || w.stat == .draining)
    && !s.reqs.any (s.parkWork d)
    && (dieAshlars d).all fun a => (s.ashlar a).rays.isEmpty && (s.ashlar a).mlp.isEmpty

/-- DIE PARK COMPLETE (R259): L1 contents are written back; then the die is parked and %parkcount rises. -/
def execDieParkComplete (s : State) : Out :=
  let d := s.evt.a
  let x := s.die d
  if !(x.parking || (x.linkPark && !x.parked)) then .next s
  else
    let s1 := s.writeBack (dieAshlars d)
    if s1.parkDone d then
      let n := x.parkcount + 1
      let s2 := s1.modDie d fun x => { x with
        parking := false, parked := true, parkcount := n
        gates := x.gates.map fun (g : Gate) => if g.busy then { g with at_ := s.now } else g }
      .next (({ s2 with
        l1 := s2.l1.filter fun l => dieOf l.cache != d
        imem := s2.imem.filter fun l => dieOf l.ashlar != d
        tlb := s2.tlb.filter fun t => if t.ashlar < 128 then dieOf t.ashlar != d else t.ashlar < 130 || (t.ashlar - 130) / 8 != d }).cornerAdd d 10 0xFF (n.toNat * 2))
    else .next s1

/-- The 60 ns and 500 ns of R306, in ps. -/
def railOffPs : Nat := 60000
def railOnPs : Nat := 500000

/-- RAIL OFF (R306, R363): 60 ns after the park, or once the slices have left the live set, the layer's rail is off. -/
def execRailOff (s : State) : Out :=
  let d := s.evt.a
  let layer := s.evt.b
  let g := s.gate d layer
  let ready := if layer = 0 then (List.range 16).all fun n => !(s.slice d n).inSet else (s.die d).parked
  if decide (layer < 3) && g.busy && g.req && !g.gated && ready && decide (g.at_ + railOffPs ≤ s.now) then
    .next (s.modGate d layer fun g => { g with gated := true, busy := false })
  else .next s

/-- RAIL READY (R306, R259): 500 ns after the ungate was accepted the rail is ready. With its A- and C-layer on again the die
is unparked and restores begin; an M-layer's slices then join (R363). -/
def execRailReady (s : State) : Out :=
  let d := s.evt.a
  let layer := s.evt.b
  let g := s.gate d layer
  if decide (layer < 3) && g.busy && !g.req && g.gated && decide (g.at_ + railOnPs ≤ s.now) then
    let s1 := s.modGate d layer fun g => { g with gated := false, busy := layer == 0 }
    if layer != 0 && (s1.die d).parked && !(s1.gate d 1).gated && !(s1.gate d 2).gated && !(s1.die d).linkPark then
      .next (((s1.modDie d fun x => { x with parked := false }).requestAll fun w => w.die == d && w.stat == .saved && w.saveFor == 3).cornerAdd d 10 0xFF ((s1.die d).parkcount.toNat * 2 + 1))
    else .next s1
  else .next s

/-! ### Queue ways that shrink -/

/-- Moves saved contexts that no longer fit a die's queue ways to the spill areas of their runs; a run without room ends
with SPILLFULL (R93, R353). -/
def State.shedContexts (s : State) (d : Nat) : State :=
  (s.waves.filter fun w => w.away && w.savedUnits.isNone && s.queueDie w.die == d).foldl (fun (s : State) w =>
    if s.queueUse d ≤ s.queueBytes d then s
    else match s.run? w.run with
      | none => s
      | some r =>
        let k := (w.contextBytes + (if w.saveFor == 3 || w.saveFor == 4 then 64 * s.fifoOf w else 0) + 63) / 64
        match s.spillPlace r k with
        | .inl (code, addr) => s.abortRun r.id code w.node addr
        | .inr u => (s.spillWrite r u k).modWave w.id fun w => { w with savedUnits := some (u, k) }) s

/-- Moves keystone overflow entries that no longer fit likewise (R355). -/
def State.shedEntries (s : State) (d : Nat) : State :=
  (s.keystones.filter fun e => e.overflow && e.unit.isNone && s.keyHome e.key / 16 == d).foldl
    (fun (s : State) e => s.placeOverflow e.run e.key) s

/-- What a die's queue ways no longer hold goes elsewhere, queue records first (R73, R93, R351). -/
def State.shed (s : State) (d : Nat) : State := ((s.shedRecords d none).shedContexts d).shedEntries d

/-! ### Slices -/

/-- Whether a packet is on its way to, or held at, the home of its line. -/
def Packet.underWay (p : Packet) : Bool :=
  p.stage != .window && p.stage != .performed

/-- Whether the lines that move when a slice leaves or joins are at rest: no packet to them in flight, none of them marked
(R351 steps 1 and 2). -/
def State.atRest (s : State) (n : Nat) : Bool :=
  (s.reqs.all fun r => match r.body with | .packet p => !(p.underWay && s.moves n p.line) | _ => true)
    && s.marks.all fun m => match m.kind with | .window _ => s.markHome m != n | _ => !s.moves n m.line

/-- Held packets go to the new homes of their lines, numbered anew for the pair (R351 step 4); a weak store whose last line leaves
its ashlar so completes (R209). -/
def State.rehome (s : State) (r : Req) : State :=
  match r.body with
  | .packet p =>
    let h := s.home p.line
    if p.stage == .window && h != p.home then
      let held := decide (64 ≤ s.unacked p.src h) || s.holdsFor p.line
      let t := (s.bump p.src h).modPacket r.id fun p => { p with
        home := h, seq := s.seqOf p.src h, router := startRouter p.src h, came := none, stage := if held then .window else .flight }
      (p.parent.map t.storeLeft).getD t
    else s
  | _ => s

/-- The state of the lines that move with a slice (Table 18-4): watch entries are evicted, short-lived lines dropped, dirty
lines written back; keystone entries and reduction objects follow their homes. -/
def State.moveLines (s : State) (n : Nat) : State :=
  let evicted := fun (w : Wave) => match w.watch with
    | some x => if x.space == 0 && s.moves n (x.addr / 64) then s.loseWatch w 3 else w
    | none => w
  let s1 := { s with
    waves := s.waves.map evicted
    shorts := s.shorts.filter fun l => !s.moves n l.line }
  let s2 := ((s.ways.filter fun l => s.moves n l.line).foldl (fun (s : State) l => s.dropWay l.line) s1).setSlice n !(s.slice (n / 16) (n % 16)).inSet
  s2.reqs.foldl State.rehome s2

/-- Watch entries armed on a die's stacked-scratch window in a slice are evicted. -/
def State.evictWindow (s : State) (n : Nat) : State :=
  { s with waves := s.waves.map fun (w : Wave) => match w.watch with
      | some x => if x.space == 2 && s.watchHome x w.die == n then s.loseWatch w 3 else w
      | none => w }

/-- SLICE LEAVE (R351, R363): a slice moves its work and leaves the live set. With the last slice of a gated M-layer the
die's stacked-scratch window is lost. -/
def execSliceLeave (s : State) : Out :=
  let n := s.evt.a
  let d := n / 16
  let others := (List.range 32).any fun m => m != n && s.sliceLive m
  if decide (n < 32) && s.leaving n && others && s.atRest n then
    let hadScratch := !(s.slice d (n % 16)).scratchBanks.isEmpty
    let gating := (s.gate d 0).busy && (s.gate d 0).req
    let s1 := ((s.evictWindow n).moveLines n)
    let s2 := s1.shed (s1.queueDie d)
    if gating then
      if (List.range 16).any fun m => (s2.slice d m).inSet then .next s2.settle
      else .next ((s2.modDie d fun x => { x with banks := [], stacked := [] }).scratchLost d none).settle
    else .next (if hadScratch then s2.rebuildWindow d none else s2).settle
  else .next s

/-- SLICE JOIN (R351, R363): a slice of an ungated M-layer joins the live set with every way empty; after the last the
window is rebuilt and zero-filled. -/
def execSliceJoin (s : State) : Out :=
  let n := s.evt.a
  let d := n / 16
  if decide (n < 32) && s.joining n && s.atRest n then
    let s1 := s.moveLines n
    if (List.range 16).any fun m => s1.joining (16 * d + m) then .next s1.settle
    else
      let s2 := s1.modGate d 0 fun g => { g with busy := false }
      .next (s2.modDie d fun x => { x with banks := x.scratchList, stacked := [] }).settle
  else .next s

/-! ### Banks -/

/-- Takes a bank from the role it holds: that role's count falls by one, every other bank keeps its role (R349), and this one holds
nothing. -/
def Slice.retireBank (x : Slice) (b : Nat) (thermal : Bool) : Slice :=
  let bit : BitVec 16 := 1 <<< b
  let y := { x with live := x.live &&& ~~~bit, hot := if thermal then x.hot ||| bit else x.hot
                    busy := true, wasScratch := if x.busy then x.wasScratch else x.scratch, now := x.now.set b .idle }
  match x.target b with
  | .cache => { y with cache := x.cache - 1 }
  | .queue => { y with queue := x.queue - 1 }
  | .scratch => { y with scratch := x.scratch - 1, wasScratch := y.wasScratch - 1 }
  | .short => { y with short := x.short - 1 }
  | .idle => y

/-- Lines leave the cache ways of a slice that its banks no longer are, written back (R93). -/
def State.dropWays (s : State) (d n : Nat) : State :=
  (s.ways.filter fun l => l.home == 16 * d + n && !(s.slice d n).cacheBanks.contains l.bank).foldl (fun (s : State) l => s.dropWay l.line) s

/-- Whether Plumb retires a bank now (R349): for temperature, above 110 °C for 1 ms; for errors, with one uncorrectable in a
refreshed way or with more than 16 distinct lines corrected within 1 s. -/
def BankHealth.fails (h : BankHealth) (thermal : Bool) (now : Nat) : Bool :=
  if thermal then match h.hotSince with | some t => decide (t + 10 ^ 9 ≤ now) | none => false
  else h.bad || decide (16 < (nub ((h.fixed.filter fun f => decide (now ≤ f.2 + 10 ^ 12)).map (·.1))).length)

/-- Changes what Plumb keeps of a bank. -/
def State.modHealth (s : State) (d n b : Nat) (f : BankHealth → BankHealth) : State :=
  s.modSlice d n fun x => { x with health := x.health.modify b f }

/-- A single error is corrected, in a line of a bank where one is named: it is counted (R349, R370). -/
def State.fixLine (s : State) (at_ : Option (Nat × Nat × Nat)) : State :=
  let s1 := { s with plumb := { s.plumb with corrected := s.plumb.corrected + 1 } }
  match at_ with
  | some (n, b, line) => s1.modHealth (n / 16) (n % 16) b fun h => { h with fixed := (line, s.now) :: h.fixed }
  | none => s1

/-- The bank whose way holds a line, with its slice. -/
def State.wayBank (s : State) (line : Nat) : Option (Nat × Nat × Nat) := (s.way? line).map fun v => (v.home, v.bank, line)

/-- An uncorrectable error in a line: one in a refreshed way counts against its bank (R345, R349). -/
def State.breakLine (s : State) (line : Nat) : State :=
  let s1 := { s with poisoned := nub (line :: s.poisoned) }
  match s.way? line with
  | some v => s1.modHealth (v.home / 16) (v.home % 16) v.bank fun h => { h with bad := true }
  | none => s1

/-- BANK RETIREMENT (R349): Plumb takes a bank of a slice out of service and logs it. -/
def execBankRetirement (s : State) : Out :=
  let d := s.evt.a / 16
  let n := s.evt.a % 16
  let b := s.evt.b
  let x := s.slice d n
  if d < 2 && decide (b < 16) && x.inSet && x.live.getLsbD b && (x.healthOf b).fails s.evt.flag s.now then
    .next ((((s.modSlice d n fun x => x.retireBank b s.evt.flag).cornerBank d n b false).dropShort d n).dropWays d n)
  else .next s

/-- GAIN CELL REFRESH (R307): no value that a program sees changes. -/
def execGainCellRefresh (s : State) : Out := .next s

/-- PATROL SCRUB (R307, R345): a corrected line keeps its value and is counted; an uncorrectable one is logged and stays
uncorrectable until it is written whole. -/
def execPatrolScrub (s : State) : Out :=
  match s.evt.scrub with
  | .clean => .next s
  | .corrected => .next (s.fixLine (s.wayBank s.evt.a))
  | .uncorrectable => .next ((s.breakLine s.evt.a).logLine s.evt.a)

/-! ### The partition and the window -/

/-- PARTITION CHANGE COMPLETE (R93): lines have left the banks that are no longer cache ways and queue contents have moved, on
which the change waits; the banks take their roles, the window is remapped if SCRATCH changed, once every earlier space-2 access has
been performed (R376), and BUSY clears. -/
def execPartitionChangeComplete (s : State) : Out :=
  let d := s.evt.a
  let n := s.evt.b
  let x := s.slice d n
  if x.busy then
    let s1 := (s.dropWays d n).shed (s.queueDie d)
    if s1.queueBytes (s.queueDie d) < s1.queueUse (s.queueDie d) + s1.recUse (s.queueDie d) || (x.rebuilds && s.windowUse d x.since) then .next s1
    else
      let s2 := s1.modSlice d n fun x => { x.settled with busy := false, wasScratch := x.scratch, by_ := none }
      .next (if x.rebuilds then s2.rebuildWindow d x.by_ else s2)
  else .next s

/-- REMAP COMPLETE (R95): the window is rebuilt and zero-filled, and START clears. -/
def execRemapComplete (s : State) : Out :=
  let d := s.evt.a
  if (s.die d).remap then
    .next ((s.rebuildWindow d (s.die d).remapBy).modDie d fun x => { x with remap := false, remapBy := none })
  else .next s

/-! ### Writes of special registers that are events -/

/-- Whether the first pending write of a wave is of a number and value. -/
def Wave.writes1 (w : Wave) (n : Nat) (v : DWord) : Bool := w.ssets.head? == some (n, v)

/-- Performs a wave's pending write of a special register. -/
def State.writeNow (s : State) (n : Nat) (v : DWord) (p : Wave → Bool) : Out :=
  match s.waves.find? fun w => p w && w.writes1 n v with
  | some w => .next ((s.ssetEvent w.id n v).poke w.id)
  | none => .next s

/-- MLPART WRITE (R92, R93). -/
def execMlpartWrite (s : State) : Out :=
  if s.evt.b < 16 then s.writeNow (0x30 + s.evt.b) s.evt.v fun w => w.die == s.evt.a else .next s

/-- MLREMAP WRITE (R95). -/
def execMlremapWrite (s : State) : Out := s.writeNow 0x45 s.evt.v fun w => w.die == s.evt.a

/-- CMCFG WRITE (R231). -/
def execCmcfgWrite (s : State) : Out :=
  if s.evt.b < 4 then s.writeNow (0x18 + s.evt.b) s.evt.v fun w => w.id == s.evt.a else .next s

/-- CMHEAD WRITE (R231). -/
def execCmheadWrite (s : State) : Out :=
  if s.evt.b < 4 then s.writeNow (0x10 + 2 * s.evt.b) s.evt.v fun w => w.id == s.evt.a else .next s

/-- LAYERGATE REQ WRITE (R260). -/
def execLayergateReqWrite (s : State) : Out := s.writeNow 0x62 s.evt.v fun w => w.die == s.evt.a

end Sys2Proof.Machine
end

