-- ==== Sys2Proof/Machine/LinkPower.lean ====
section
/-! DEFINITION. Link-direction and power instructions (spec 11_isa_engines.md R255 to R261; 17_isa_faults.md R332). -/

namespace Sys2Proof.Machine

/-- TREQ (R255). -/
def execTreq (d a : SR) (s : State) : Out :=
  issue s { ct := true } fun x _ =>
    let (s1, r) := x.s.treq x.w.slot x.w.die (x.sr a).toNat
    ({ x with s := s1 }).put (.sreg d.toNat (BitVec.ofNat 64 r))

/-- TSTAT (R255): %linkstat. -/
def execTstat (d : SR) (s : State) : Out :=
  issue s { ct := true } fun x _ => x.put (.sreg d.toNat (x.s.linkstat x.w.slot))

/-- PHINT (R258): the class takes effect at the end of the clause. -/
def execPhint (c : BitVec 2) (s : State) : Out :=
  issue s { ct := true } fun x _ => { x with c := { x.c with specials := x.c.specials ++ [(0x60, c.setWidth 64)] } }

/-- PGATE or PUNGATE (R259): the result of the request, or 4 for a bad argument. A gate may ask for the save of the wave itself. -/
def gateWord (s : State) (d a : SR) (gate : Bool) : Out :=
  issue s { ct := true, priv := true } fun x _ =>
    let v := (x.sr a).toNat
    if gateArgOk v then
      let req := fun (s : State) => (s.toPlumb x.w.die).gateReq (v / 2 ^ 8) (v % 4) gate
      (x.onState fun s => (req s).1).put (.sreg d.toNat (BitVec.ofNat 64 (req x.s).2))
    else x.put (.sreg d.toNat 4)

/-- PGATE (R258, R259). -/
def execPgate (d a : SR) (s : State) : Out := gateWord s d a true
/-- PUNGATE (R258, R259). -/
def execPungate (d a : SR) (s : State) : Out := gateWord s d a false

/-- Queues a request for a course point (R261): the new state and the result 0 or 1. -/
def State.vfReq (s : State) (course point : Nat) : State × Nat :=
  if 16 ≤ s.plumb.vfQueue.length then (s, 1)
  else ({ s with plumb := { s.plumb with vfQueue := s.plumb.vfQueue ++ [(course, point)] } }, 0)

/-- PVF (R258, R261). -/
def execPvf (d a : SR) (s : State) : Out :=
  issue s { ct := true, priv := true } fun x _ =>
    let v := (x.sr a).toNat
    if v / 16 % 16 == 0 && decide (v < 2 ^ 11) then
      let (s1, r) := (x.s.toPlumb x.w.die).vfReq (v % 16) (v / 2 ^ 8)
      ({ x with s := s1 }).put (.sreg d.toNat (BitVec.ofNat 64 r))
    else x.put (.sreg d.toNat 2)

end Sys2Proof.Machine
end

