-- ==== Sys2Proof/Machine/PlumbEvents.lean ====
section
/-! DEFINITION. Events of Plumb (spec 15_platform.md R299 to R304; 19_platform_faults.md R365 to R369, R373): the 10 µs tick,
course points, emergencies, resets, the boot and the mailbox commands. -/

namespace Sys2Proof.Machine

/-! ### The tick (R303, R304, R368) -/

/-- °C in sixteenths. -/
def degrees (t : Int) : Int := 16 * t

/-- Whether Plumb's firmware runs. -/
def State.firmwareRuns (s : State) : Bool := (s.plumb.state == 2 || (s.plumb.state == 4 && s.plumb.before == 2)) && !s.plumb.tripped

/-- Changes Plumb. -/
def State.modPlumb (s : State) (f : Plumb → Plumb) : State := { s with plumb := f s.plumb }

/-- The device courses, hottest first, the lower number first among equals. -/
def State.hottest (s : State) (k : Nat) : List Nat :=
  let before := fun (a b : Nat) =>
    decide ((s.course b).temp < (s.course a).temp) || ((s.course a).temp == (s.course b).temp && decide (a < b))
  (List.range 16).filter fun c => decide (((List.range 16).filter fun b => before b c).length < k)

/-- The condition of the first row of Table 19-2, with the die whose record has it and its DATA. Power is the device's, which die A
logs (log entry 46). -/
def State.alarmNow (s : State) : Option (Nat × Nat) :=
  match s.hottest 1 with
  | c :: _ =>
    if degrees 112 ≤ (s.course c).temp then some (c / 8, (s.course c).temp.toNat)
    else if 12 * s.plumb.cap < 10 * s.plumb.power then some (0, s.plumb.power) else none
  | [] => none

/-- Every junction with its die: of the courses, then of the slices. -/
def State.junctions (s : State) : List (Nat × Int) :=
  (s.courses.mapIdx fun c x => (c / 8, x.temp)) ++ ([0, 1].flatMap fun d => (s.die d).slices.map fun x => (d, x.temp))

/-- Whether every junction is below a temperature. -/
def State.coolBelow (s : State) (t : Int) : Bool := s.junctions.all fun j => decide (j.2 < degrees t)

/-- The request last received for a course (R303). -/
def State.request? (s : State) (c : Nat) : Option Nat := ((s.plumb.vfQueue.filter fun q => q.1 == c).getLast?).map (·.2)

/-- Whether a limit of R304 or a gate forbids a request for a point. -/
def State.forbids (s : State) (c p : Nat) : Bool :=
  let x := s.course c
  s.courseGated c || (decide (x.point < p) && (x.hot || decide (s.plumb.cap < s.plumb.power) || s.plumb.emergency))

/-- Begins a change of a course's point: the voltage first where it rises (R303). -/
def Course.change (x : Course) (p now : Nat) : Course :=
  if p = x.point then { x with next := p }
  else { x with next := p, vf := if x.point < p then .rampUp else .switching, vfAt := now }

/-- What a limit forces a course's point to at this tick, if anything: 0 in an emergency, one less where the course is hot,
or hottest after three ticks over the cap. -/
def State.forced (s : State) (c : Nat) : Option Nat :=
  let x := s.course c
  if x.point = 0 then none
  else if s.plumb.emergency then some 0
  else if x.hot || (decide (3 ≤ s.plumb.overTicks) && (s.hottest 1).contains c) then some (x.point - 1)
  else none

/-- The point of one course at a tick: its request unless forbidden, then what a limit forces, else one step back to the
point last requested while power stays below 90 % of the cap. -/
def State.tickPoint (s : State) (c : Nat) : State :=
  let x := s.course c
  if x.vf != .steady then s
  else
    let log := fun (s : State) (p : Nat) => s.cornerAdd (c / 8) 5 0xFF (c * 2 ^ 8 + p)
    let (s1, base) := match s.request? c with
      | none => (s, x.point)
      | some p =>
        let s0 := s.modPlumb fun b => { b with vfQueue := b.vfQueue.filter fun q => q.1 != c }
        if s.forbids c p then (log s0 p, x.point) else (s0.modCourse c fun x => { x with want := p }, p)
    match s1.forced c with
    | some f =>
      if base < f then s1.modCourse c fun x => x.change base s.now
      else ((log s1 f).msi 66).modCourse c fun x => x.change f s.now
    | none =>
      let y := s1.course c
      if base = y.point && decide (y.point < y.want) && decide (10 * s.plumb.power < 9 * s.plumb.cap) && !s.courseGated c && !y.hot
          && !s.plumb.emergency then
        s1.modCourse c fun x => x.change (x.point + 1) s.now
      else s1.modCourse c fun x => if base = x.point then x else x.change base s.now

/-- The budgets a tick publishes: 256 in an emergency, 1/8 less for the two hottest courses over the cap, one step more while
power stays below 90 % of the cap. -/
def State.tickBudget (s : State) (c : Nat) : State :=
  let p := s.plumb
  s.modCourse c fun (x : Course) => { x with budget :=
    if p.emergency then 256
    else if p.cap < p.power then (if (s.hottest 2).contains c then x.budget - x.budget / 8 else x.budget)
    else if 10 * p.power < 9 * p.cap then min 2048 (x.budget + 256)
    else x.budget }

/-- PLUMB TICK (R303, R304, R368): every 10 µs. An emergency sensed at one tick throttles every course at the next. -/
def execPlumbTick (s : State) : Out :=
  let n := s.now / 10000000
  if n ≤ s.plumb.ticks || !s.firmwareRuns then .next s
  else
    let cold := s.coolBelow 95
    let begins := s.plumb.alarm && !s.plumb.emergency
    let s1 := { s with courses := s.courses.map fun (x : Course) =>
      { x with hot := decide (degrees 100 < x.temp) || (x.hot && decide (degrees 95 ≤ x.temp)) } }
    let above := if s.plumb.cap < s.plumb.power then s.plumb.overTicks + 1 else 0
    let s2 := s1.modPlumb fun b => { b with
      ticks := n, heartbeat := s.now, overTicks := above, emergency := (b.emergency && !cold) || b.alarm }
    let s3 := if begins then s2.msi 66 else s2
    let s4 := match s3.alarmNow with
      | some v => (if s.plumb.alarm then s3 else s3.cornerAdd v.1 3 0xFF v.2).modPlumb fun b => { b with alarm := true }
      | none => s3.modPlumb fun b => { b with alarm := false }
    .next ((List.range 16).foldl (fun (s : State) c => (s.tickPoint c).tickBudget c) s4)

/-- VOLTAGE RAMP END (R303): the raised voltage is reached, and issue on the course stops for the clock switch. -/
def execVoltageRampEnd (s : State) : Out :=
  let c := s.evt.a
  if decide (c < 16) && (s.course c).vf == .rampUp then .next (s.modCourse c fun x => { x with vf := .switching, vfAt := s.now })
  else .next s

/-- The 1 µs of a clock switch, in ps (R303). -/
def switchPs : Nat := 1000000

/-- VF CHANGE COMPLETE (R303): the clock runs at the new point. -/
def execVfChangeComplete (s : State) : Out :=
  let c := s.evt.a
  let x := s.course c
  if decide (c < 16) && x.vf == .switching && decide (x.vfAt + switchPs ≤ s.now) then
    .next (s.modCourse c fun x => { x with point := x.next, vf := .steady })
  else .next s

/-! ### Resets (R368, R369) -/

/-- Physical memory as a loss of power in the stacks or a warm reset leaves it: HBM with each line's last write kept or not
where it was still in a cache way, and the host's memory. -/
def State.memAfterLoss (s : State) : Mem :=
  s.ways.foldl (fun (m : Mem) w =>
    match w.old with
    | none => m
    | some b => if Sys2Proof.Config.warmKeepsWrite s.plumb.resets w.line then m else m.writeN (w.line * 64) b) s.mem

/-- Everything on chip lost; HBM, the flash, the cornerstone records, temperatures and what lies outside the device stay. R366 has a
program operation that a power loss cuts off; one that a warm reset or a trip cuts off has written its whole range, and DROPPED counts
on over a warm reset as the records and their SEQ do (DESIGN CHOICE, log entry 70). -/
def State.lose (s : State) : State :=
  let r := State.reset
  { r with
    now := s.now, tape := s.tape, evt := s.evt, free := s.free
    mem := s.memAfterLoss
    poisoned := s.poisoned
    courses := List.zipWith (fun (x y : Course) => { x with temp := y.temp }) r.courses s.courses
    dies := List.zipWith (fun (x y : Die) => { x with
      corner := y.corner, cornerSeq := y.cornerSeq, cornerDropped := y.cornerDropped
      slices := List.zipWith (fun (u v : Slice) => { u with temp := v.temp, overTemp := decide (degrees 105 < v.temp) }) x.slices y.slices }) r.dies s.dies
    host := { r.host with vectors := s.host.vectors, barSize := s.host.barSize, readData := s.host.readData }
    plumb := { r.plumb with flash := s.plumb.flash, power := s.plumb.power, undervolt := s.plumb.undervolt
                            resets := s.plumb.resets, signs := s.plumb.signs, telemetry := s.plumb.telemetry } }

/-- A warm reset (R369): %time restarts, and its cause is logged. -/
def State.warmReset (s : State) (cause : Nat) : State :=
  let s1 := s.lose
  ({ s1 with now := 0, plumb := { s1.plumb with resets := s1.plumb.resets + 1 } }).cornerAdd 0 2 0xFF cause

/-- HARDWARE TRIP (R368): at 125 °C or undervoltage the core rails switch off without any save. -/
def execHardwareTrip (s : State) : Out :=
  let hot := s.junctions.find? fun j => decide (degrees 125 ≤ j.2)
  if s.plumb.tripped || (hot.isNone && !s.plumb.undervolt) then .next s
  else
    let (die, data) := match hot with | some j => (j.1, j.2.toNat) | none => (0, 0xFFFFFFFF)
    .next ((s.cornerAdd die 4 0xFF data).lose.modPlumb fun b => { b with tripped := true })

/-- The 100 ms of R368, in ps. -/
def heartbeatPs : Nat := 100000000000

/-- HEARTBEAT MISS (R368): a warm reset. -/
def execHeartbeatMiss (s : State) : Out :=
  if s.firmwareRuns && decide (s.plumb.heartbeat + heartbeatPs ≤ s.now) then .next (s.warmReset 2) else .next s

/-- The 1 ms after which a link that is down ends in a warm reset, in ps (R368). -/
def linkDownPs : Nat := 1000000000

/-- The cause of a warm reset now (Table 19-5); none while a trip waits for cool junctions and good rails. -/
def State.resetCause (s : State) : Option Nat :=
  if s.plumb.tripped then
    if s.coolBelow 90 && !s.plumb.undervolt then some 1 else none
  else match s.plumb.linkDown with
    | some t => some (if t + linkDownPs ≤ s.now then 3 else 5)
    | none => some 5

/-- WARM RESET (R368, R369): after a trip, after the link went down, or asked for by the host. -/
def execWarmReset (s : State) : Out :=
  match s.resetCause with
  | some c => .next (s.warmReset c)
  | none => .next s

/-- POWER ON RESET (R369): nothing of the device stays but the flash, the fuses and the identity block; a program operation
cut off leaves an image that fails the boot (R366). -/
def execPowerOnReset (s : State) : Out :=
  let r := State.reset
  let flash := if s.plumb.state = 4 then s.plumb.flash.clear 0 4096 else s.plumb.flash
  .next { r with
    tape := s.tape, evt := s.evt, free := s.free
    mem := s.mem.clear 0 hbmTop
    host := { r.host with vectors := s.host.vectors, barSize := s.host.barSize, readData := s.host.readData }
    plumb := { r.plumb with flash := flash, signs := s.plumb.signs, telemetry := s.plumb.telemetry, resets := s.plumb.resets } }

/-! ### Boot (R300, R365) -/

/-- Ends a boot: STATE, FAILCODE and the boot result in the cornerstone record. -/
def State.bootEnds (s : State) (code : Nat) : State :=
  (s.modPlumb fun b => { b with state := if code = 0 then 2 else 3, failcode := code, heartbeat := s.now, ticks := s.now / 10000000 }).cornerAdd
    0 1 0xFF code

/-- BOOT (R300, R365): the ROM checks the header's magic and length, then the signature over the header and the body. -/
def execBootImage (s : State) : Out :=
  let rd := fun (a n : Nat) => s.plumb.flash.readN a n
  let len := ofBytes (rd 8 4)
  if s.plumb.tripped then .next s
  else if s.plumb.state = 0 then
    if ofBytes (rd 0 4) ≠ 0x5A4C5056 then .next (s.bootEnds 1)
    else if len < 4096 ∨ 2 ^ 24 < len then .next (s.bootEnds 2)
    else .next (s.modPlumb fun b => { b with state := 1 })
  else if s.plumb.state = 1 then
    let e := Sys2Proof.Config.sm3 (rd 0 64 ++ rd 4096 len)
    if Sys2Proof.Config.sm2Verifies e (rd 64 64) then .next ((s.modPlumb fun b => { b with firmware := e }).bootEnds 0)
    else .next (s.bootEnds 3)
  else .next s

/-- FLASH READ TIMEOUT (R365): a flash read of the boot fails. -/
def execFlashReadTimeout (s : State) : Out :=
  if s.plumb.state < 2 && !s.plumb.tripped then .next (s.bootEnds 4) else .next s

/-! ### The mailbox (R301, R365, R366, R373) -/

/-- A mailbox argument. -/
def State.arg (s : State) (i : Nat) : Nat := (s.host.args.getD i 0).toNat

/-- Whether a command waits to be carried out: rung, and one that Plumb accepts in its state. -/
def State.commands (s : State) (c : Nat) : Bool :=
  s.host.doorbell && !s.host.done && s.host.cmd.toNat == c && (s.plumb.state == 2 || (s.plumb.state == 3 && decide (6 ≤ c)))

/-- Ends a command with a result. -/
def State.mailAnswer (s : State) (result : Nat) : State := { s with host := { s.host with done := true, outcome := result } }

/-- A mailbox command: its effect where it is waiting. -/
def mailbox (s : State) (c : Nat) (f : State → State) : Out := if s.commands c then .next (f s) else .next s

/-- Writes bytes to the host window, by packets of die A's units to the homes and from there to the PCIe port (R21, R295). -/
def State.hostWrite (s : State) (pa : Nat) (bs : List Byte) : State :=
  (linePieces pa bs.length).foldl (fun (s : State) p =>
    let line := p.2.1 / 64
    ((s.number (dieSrc 0) line true).unitWay line 3 true).homeWrite p.2.1 ((bs.drop p.1).take p.2.2) false) s

/-- SETVF (R301): queued as PVF is. -/
def execSetvf (s : State) : Out :=
  mailbox s 1 fun s =>
    if 15 < s.arg 0 ∨ 7 < s.arg 1 then s.mailAnswer 2
    else let (t, r) := s.vfReq (s.arg 0) (s.arg 1); t.mailAnswer r

/-- SETCAP (R301). -/
def execSetcap (s : State) : Out :=
  mailbox s 2 fun s =>
    if s.arg 0 < 150 ∨ 480 < s.arg 0 then s.mailAnswer 2 else (s.modPlumb fun b => { b with cap := s.arg 0 }).mailAnswer 0

/-- MEASURE (R301, R302): the range is read through the slot's address space. -/
def execMeasure (s : State) : Out :=
  mailbox s 3 fun s =>
    let slot := s.arg 0
    let va := s.arg 1
    let n := s.arg 2
    if 63 < slot ∨ 2 ^ 26 < n then s.mailAnswer 2
    else if (s.pathFault unitTlb slot va n { read := true }).isSome || !s.cleanVa unitTlb slot va n then s.mailAnswer 2
    else
      let h := Sys2Proof.Config.sm3 (s.readVa unitTlb slot va n)
      ((s.unitTouch (dieSrc 0) unitTlb slot va n false).modPlumb fun b => { b with
        m := Sys2Proof.Config.sm3 (b.m ++ h), count := b.count + 1 }).mailAnswer 0

/-- The 168 bytes of a quote (R302). -/
def State.quote (s : State) : List Byte :=
  let head := s.plumb.firmware ++ s.plumb.m ++ (List.range 4).flatMap (fun i => toBytes 8 (s.arg (2 + i))) ++ toBytes 8 s.plumb.count
  head ++ Sys2Proof.Config.sm2Sign s.plumb.signs head

/-- QUOTE (R301, R302): the buffer's address is ARG0 + ARG1 × 2^32. -/
def execQuote (s : State) : Out :=
  mailbox s 4 fun s =>
    let pa := s.arg 0 + s.arg 1 * 2 ^ 32
    if !hostRange pa 168 then s.mailAnswer 2
    else ((s.hostWrite pa s.quote).modPlumb fun b => { b with signs := b.signs + 1 }).mailAnswer 0

/-- TELEMETRY (R301): 256 bytes, as Config gives them. -/
def execTelemetry (s : State) : Out :=
  mailbox s 5 fun s =>
    let pa := s.arg 0 + s.arg 1 * 2 ^ 32
    if !hostRange pa 256 then s.mailAnswer 2
    else ((s.hostWrite pa ((List.range 256).map (Sys2Proof.Config.telemetryByte s.plumb.telemetry s.plumb.corrected))).modPlumb fun b =>
      { b with telemetry := b.telemetry + 1 }).mailAnswer 0

/-- Whether ARG1 and ARG2 of a FLASH read or program are in range (R366): the offset and the length as the rule bounds them. A range that
begins below 32 MiB and ends beyond is refused too, since no flash is described there (DESIGN CHOICE, log entry 70). -/
def State.flashArgs (s : State) : Bool :=
  s.arg 1 % 4096 == 0 && decide (1 ≤ s.arg 2) && decide (s.arg 2 ≤ 16) && decide (s.arg 1 + 4096 * s.arg 2 ≤ 2 ^ 25)

/-- FLASH READ (R366): the range goes to the flash window. -/
def execFlashRead (s : State) : Out :=
  mailbox s 6 fun s =>
    if s.arg 0 != 0 then s
    else if !s.flashArgs then s.mailAnswer 2
    else (s.modPlumb fun b => { b with window := b.window.writeN 0 (b.flash.readN (s.arg 1) (4096 * s.arg 2)) }).mailAnswer 0

/-- FLASH PROGRAM (R366): the range is erased and programmed; STATE reads 4 until the command ends. -/
def execFlashProgram (s : State) : Out :=
  mailbox s 6 fun s =>
    if s.arg 0 != 1 then s
    else if !s.flashArgs then s.mailAnswer 2
    else (s.modPlumb fun b => { b with
      flash := b.flash.writeN (s.arg 1) (b.window.readN 0 (4096 * s.arg 2)), before := b.state, state := 4 }).mailAnswer 0

/-- FLASH REBOOT (R366): a warm reset, then the boot. -/
def execFlashReboot (s : State) : Out :=
  mailbox s 6 fun s =>
    if s.arg 0 != 2 then s
    else if s.arg 1 != 0 || s.arg 2 != 0 then s.mailAnswer 2
    else s.warmReset 4

/-- The bytes of a cornerstone entry (Table 19-4). -/
def Corner.bytes (c : Corner) : List Byte :=
  toBytes 6 c.time ++ toBytes 1 c.event ++ toBytes 1 c.source ++ toBytes 4 c.data ++ toBytes 4 c.seq

/-- CORNERREAD (R373): the entries present when the doorbell was rung. -/
def execCornerread (s : State) : Out :=
  mailbox s 7 fun s =>
    let d := s.arg 0
    let pa := s.arg 1
    let k := s.arg 3
    if !s.host.cornerArgs then s.mailAnswer 2
    else if d = 1 && s.plumb.linkDown.isSome then s.mailAnswer 3
    else
      let next := s.host.rungSeq.getD d 0
      let es := ((s.die d).corner.filter (s.host.cornerTakes d)).take k
      let head := toBytes 4 es.length ++ toBytes 4 next ++ toBytes 4 (s.die d).cornerDropped ++ toBytes 4 0
      (s.hostWrite pa (head ++ es.flatMap (·.bytes))).mailAnswer 0

/-- The RESULT of a command that Plumb does not carry out: one it does not accept in STATE 3, an unknown one, an unknown FLASH
operation. -/
def State.rejected (s : State) : Option Nat :=
  let c := s.host.cmd.toNat
  if s.plumb.state = 3 ∧ c ≠ 6 ∧ c ≠ 7 then some 3
  else if c = 0 ∨ 7 < c then some 2
  else if c = 6 ∧ 2 < s.arg 0 then some 2
  else none

/-- MAILBOX COMPLETION (R301, R366, R367): RESULT is written and DOORBELL cleared; vector 65 goes to a command rung from the
host path. -/
def execMailboxCompletion (s : State) : Out :=
  let h := s.host
  let finish := fun (r : Nat) =>
    let s1 := { s with
      host := { h with result := BitVec.ofNat 64 r, doorbell := false, done := false }
      plumb := { s.plumb with state := if s.plumb.state = 4 then s.plumb.before else s.plumb.state } }
    if h.hostRang then s1.msi 65 else s1
  if !h.doorbell then .next s
  else if h.done then .next (finish h.outcome)
  else match s.rejected with
    | some r => .next (finish r)
    | none => .next s

end Sys2Proof.Machine
end

