-- ==== Sys2Proof/Machine/HostEvents.lean ====
section
/-! DEFINITION. What the host does through BAR0 and BAR2 (spec 15_platform.md R294 to R297, R299, R308; 04_memory.md R72, R86;
02_graphs.md R49; 11_isa_engines.md R251; 16_traps.md R321; 18_subsystem_faults.md R347; 19_platform_faults.md R367). -/

namespace Sys2Proof.Machine

/-- A register write that the device takes: only firmware that runs answers (R299). -/
def hostWord (s : State) (f : State → State) : Out := if s.firmwareRuns then .next (f s) else .next s

/-- Changes the host registers. -/
def State.modHost (s : State) (f : HostRegs → HostRegs) : State := { s with host := f s.host }

/-! ### The root queue (R297) -/

/-- RQTAIL WRITE: records are released, and code is kept for them as it stands (R99); more pending than the queue holds is an
overrun, which halts it. -/
def execRqtailWrite (s : State) : Out :=
  hostWord s fun s =>
    let v : Word := s.evt.v.setWidth 32
    let keys := if v = s.host.tail then s.codeKeys else s.codeKeys ++ [.tail v.toNat]
    let s1 := { s with codeKeys := keys }.modHost fun h => { h with tail := v, waiting := h.waiting && v != h.head }
    if 2 ^ s.host.rqsize < (v - s.host.head).toNat then (s1.modHost fun h => { h with err := true }).msi 64 else s1

/-- Whether a write to RQBASE or RQSIZE is ignored: records are pending and the queue is not halted. -/
def HostRegs.rqBusy (h : HostRegs) : Bool := h.head != h.tail && !h.err

/-- RQBASE WRITE: HEAD, TAIL, ERR and the counts of bad records are cleared. -/
def execRqbaseWrite (s : State) : Out :=
  hostWord s fun s =>
    if s.host.rqBusy then s
    else (s.codeKeys.foldl (fun (s : State) k => match k with | .tail _ => s.codeEnd k | _ => s) s).modHost fun h => { h with
      rqbase := s.evt.v.toNat % 2 ^ 44 / 64 * 64, head := 0, tail := 0, err := false, waiting := false, badIndex := 0, badCount := 0 }

/-- RQSIZE WRITE: a LOG2 outside 6 to 16, or a reserved bit set, is ignored. -/
def execRqsizeWrite (s : State) : Out :=
  hostWord s fun s =>
    let v := s.evt.v.toNat
    if s.host.rqBusy || decide (v < 6) || decide (16 < v) then s else s.modHost fun h => { h with rqsize := v }

/-! ### BAR2 -/

/-- Physical address of a byte of the BAR2 window, where it lies in HBM. -/
def HostRegs.bar2 (h : HostRegs) (off : Nat) : Option Nat :=
  if off < h.barSize ∧ h.winbase + off < hbmTop then some (h.winbase + off) else none

/-- The lines of HBM that a BAR2 access of n bytes reaches. -/
def HostRegs.bar2Lines (h : HostRegs) (off n : Nat) : List Nat :=
  (linePieces off n).filterMap fun p => (h.bar2 p.2.1).map (· / 64)

/-- HOST BAR2 ACCESS (R297, R113): performed at the home slices by packets of the PCIe port (R21); beyond the end of HBM a read
gives zero and a write nothing. While a line is out of the port's reach, which stands on die A (R25), the access waits. -/
def execHostBar2Access (s : State) : Out :=
  let send := fun (n off : Nat) (write : Bool) (f : State → State) =>
    let ls := s.host.bar2Lines off n
    if !s.firmwareRuns then .next s
    else if ls.all (s.reach pcieSrc) then .next (f (ls.foldl (fun (s : State) l => s.number pcieSrc l write) s)) else .next s
  match s.evt.acc with
  | .read off len =>
    if s.firmwareRuns then
      send len off false fun s => s.modHost fun h => { h with
        readData := (List.range len).map fun i => match s.host.bar2 (off + i) with | some pa => s.mem.read pa | none => 0 }
    else .next (s.modHost fun h => { h with readData := List.replicate len 0 })
  | .write off data =>
    send data.length off true fun s => (linePieces off data.length).foldl (fun (s : State) p =>
      match s.host.bar2 p.2.1 with
      | some pa => s.homeWrite pa ((data.drop p.1).take (min p.2.2 (hbmTop - pa))) false
      | none => s) s

/-! ### Registers without behaviour of their own (Tables 15-2, 15-3, 16-7) -/

/-- Bits lo and up, n of them, of a doubleword. -/
def dbits (v : DWord) (lo n : Nat) : Nat := v.toNat / 2 ^ lo % 2 ^ n

/-- A write to a register of a slot. -/
def Slot.writeReg (x : Slot) (off : Nat) (v : DWord) : Slot :=
  let g := (dbits v 0 24, dbits v 32 24)
  if off = 0x10 then { x with grant := x.grant.set 0 g }
  else if off = 0x18 then { x with grant := x.grant.set 1 g }
  else if off = 0x20 then { x with debug := v.getLsbD 0 }
  else if off = 0x28 then { x with fsvc := v.getLsbD 0 }
  else x

/-- A write to the mailbox: ignored while DOORBELL reads 1; a 1 to DOORBELL rings it. -/
def State.writeMailbox (s : State) (off : Nat) (v : DWord) (management : Bool) : State :=
  if s.host.doorbell then s
  else if off = 0 then s.modHost fun h => { h with cmd := v }
  else if off < 0x40 then s.modHost fun h => { h with args := h.args.set (off / 8 - 1) v }
  else if off = 0x48 && v.getLsbD 0 then
    s.modHost fun h => { h with doorbell := true, done := false, hostRang := !management, rungSeq := s.dies.map (·.cornerSeq) }
  else s

/-- Whether the device answers at the mailbox and the flash window: firmware runs, or the boot failed (R299, R365). -/
def State.mailOpen (s : State) : Bool := !s.plumb.tripped && decide (2 ≤ s.plumb.state)

/-- A write to an entry of the MSI-X table, 68 entries of two doublewords. -/
def HostRegs.writeMsix (h : HostRegs) (i : Nat) (v : DWord) : HostRegs :=
  let rest := h.msix.filter fun e => e.1 != i
  { h with msix := if v = 0 then rest else rest ++ [(i, v)] }

/-- REGISTER WRITE (R296, R301, R321, R366, R367): a register of BAR0 that no other event writes; the management port reaches
the mailbox and the flash window only. Reserved offsets and offsets that are not aligned are ignored. A virtual function, which b names
where it is not 0, has its slot's registers alone, of which those that no other event writes are the physical function's to write: what
it writes to them is ignored (Tables 15-2 and 16-7). -/
def execRegisterWrite (s : State) : Out :=
  let off := s.evt.a
  let v := s.evt.v
  if off % 8 != 0 || s.evt.b != 0 then .next s
  else if 0x40000 ≤ off ∧ off < 0x40050 then .next (if s.mailOpen then s.writeMailbox (off - 0x40000) v s.evt.flag else s)
  else if 0x50000 ≤ off ∧ off < 0x60000 then
    .next (if s.mailOpen then s.modPlumb fun b => { b with window := b.window.writeN (off - 0x50000) (toBytes 8 v.toNat) } else s)
  else if s.evt.flag then .next s
  else hostWord s fun s =>
    if off = 0x10028 then s.modHost fun h => { h with winbase := dbits v 30 14 * 2 ^ 30 / h.barSize * h.barSize }
    else if 0x20000 ≤ off ∧ off < 0x24000 then s.modSlot ((off - 0x20000) / 256) fun x => x.writeReg (off % 256) v
    else if off = 0x31000 then s.modHost fun h => { h with invva := dbits v 16 32 * 2 ^ 16 }
    else if 0x100000 ≤ off ∧ off < 0x100440 then s.modHost fun h => h.writeMsix ((off - 0x100000) / 8) v
    else s

/-! ### Cancels (R49, R251) -/

/-- Cancels the runs and waiting launches of a slot; the phase ends once its runs have. -/
def State.cancelPhase (s : State) (n : Nat) : State :=
  let s1 := (s.launches.filter fun l => l.slot == n).foldl State.dropLaunch s
  ((s1.runs.filter fun r => r.slot == n).foldl (fun (s : State) r => s.askCancel r.id) s1).checkPhase n

/-- Whether the phase of a slot has completed but for its record: no launch of it waits, and the counters of all its runs have
reached zero with their roots fed, so that a cancel comes too late (R49). -/
def State.phaseOver (s : State) (n : Nat) : Bool :=
  (s.launches.all fun l => l.slot != n) && s.runs.all fun r => r.slot != n || (s.runCount r == 0 && (r.cancelling || r.rootsFed))

/-- Cancels the phase of a slot that has started (R49). -/
def State.askPhase (s : State) (n : Nat) : State :=
  if s.phaseOver n then s else (s.modSlot n fun x => { x with phaseCancelled := true }).cancelPhase n

/-- Cancels the job of a slot (R49): its current phase is cancelled and no later one starts; a job whose last phase has completed is
over. -/
def State.askJob (s : State) (n : Nat) : State :=
  let x := s.slot n
  if !x.bound || (x.started && s.phaseOver n && decide (x.nphase ≤ x.phase + 1)) then s
  else
    let s1 := s.modSlot n fun x => { x with jobCancel := true }
    if x.started then s1.askPhase n else s1.endJob n .cancelled 0

/-- SLOTCMD PHASE (R49): a phase that has not started or has ended is not there to cancel. -/
def execSlotcmdPhase (s : State) : Out :=
  hostWord s fun s =>
    let n := s.evt.a
    if (s.slot n).bound && (s.slot n).started then s.askPhase n else s

/-- SLOTCMD JOB (R49). -/
def execSlotcmdJob (s : State) : Out := hostWord s fun s => s.askJob s.evt.a

/-! ### Invalidation (R86, R347) -/

/-- INVCTL GO: GO set starts an invalidation of what the registers then name; a write with GO set is ignored while one runs. The TLBs
drop its entries at once, so that what is translated from now on, by a copy's first touch of a page too, is walked (R347). -/
def execInvctlGo (s : State) : Out :=
  hostWord s fun s =>
    let go := s.evt.v.getLsbD 63
    if s.host.invgo && go then s
    else
      let t := s.modHost fun h =>
        let h1 := { h with invpages := dbits s.evt.v 16 16, invrange := s.evt.v.getLsbD 6, invasid := dbits s.evt.v 0 6 }
        if go then { h1 with invgo := true, inval := (h1.invasid, if h1.invrange then some (h1.invva / 2 ^ 16, h1.invpages) else none) }
        else h1
      if go then { t with tlb := t.tlb.filter fun e => !t.host.coversEntry e } else t

/-- Whether a request uses translations of the address space that an invalidation names. -/
def State.translated (s : State) (r : Req) : Bool :=
  match r.body with
  | .mem m => r.slot == s.host.inval.1 && m.space == 0 && m.sent
  | .packet p => r.slot == s.host.inval.1 && p.parent.isSome && p.stage != .performed
  | .copy c => c.pages.any s.host.coversEntry
  | .reduce _ _ _ => r.slot == s.host.inval.1
  | _ => false

/-- INVALIDATION COMPLETE (R86, R347): no access translated before is left, no copy holds a page of the range; every TLB
drops its entries, and GO clears. -/
def execInvalidationComplete (s : State) : Out :=
  if s.host.invgo && !s.reqs.any s.translated then
    .next (({ s with tlb := s.tlb.filter fun t => !s.host.coversEntry t }).modHost fun h => { h with invgo := false })
  else .next s

/-! ### Course and counter registers -/

/-- L1MODE WRITE (R72): ignored while a change is under way. -/
def execL1modeWrite (s : State) : Out :=
  hostWord s fun s =>
    let c := s.evt.a
    let x := s.course c
    if x.l1next.isSome || x.fused == s.evt.v.getLsbD 0 then s else s.modCourse c fun x => { x with l1next := some (s.evt.v.getLsbD 0) }

/-- Ashlars of a course. -/
def courseAshlars (c : Nat) : List Nat := (List.range 8).map (8 * c + ·)

/-- L1MODE CHANGE COMPLETE (R72): the L1 shares of the course are written back and invalidated, and the mode changes. -/
def execL1modeChangeComplete (s : State) : Out :=
  let c := s.evt.a
  match (s.course c).l1next with
  | none => .next s
  | some m =>
    let s1 := s.writeBack (courseAshlars c)
    let busy := s1.reqs.any fun r => match r.body with
      | .packet p => (courseAshlars c).contains p.src && p.stage != .performed
      | _ => false
    if busy then .next s1
    else .next ((s1.l1Invalidate (courseAshlars c)).modCourse c fun x => { x with fused := m, l1next := none })

/-- Zeroes a counter of an ashlar. -/
def State.pmcClear (s : State) (a n : Nat) : State :=
  if n = 0 then s else s.modAshlar a fun (x : Ashlar) => { x with pmc := x.pmc.set (n - 1) 0 }

/-- PMCSEL WRITE (R308): the event and its job filter; CLEAR zeroes the counter too. -/
def execPmcselWrite (s : State) : Out :=
  hostWord s fun s =>
    let a := s.evt.a
    let n := s.evt.b
    let s1 := if n = 0 then s else s.modAshlar a fun (x : Ashlar) => { x with pmcsel := x.pmcsel.set (n - 1) (s.evt.v &&& 0x7FFF) }
    if s.evt.v.getLsbD 63 then s1.pmcClear a n else s1

/-- PMC CLEAR (R308). -/
def execPmcClear (s : State) : Out := hostWord s fun s => s.pmcClear s.evt.a s.evt.b

end Sys2Proof.Machine
end

