-- ==== Sys2Proof/Machine/Raster.lean ====
section
/-! DEFINITION. Events of the binning units, visibility resolvers and material classifiers (spec 12_fixed_nodes.md R263 to R277;
18_subsystem_faults.md R343 codes 5 and 7; 05_ordering.md R113). -/

namespace Sys2Proof.Machine

/-! ### What fixed units read -/

/-- The first address of n bytes that a unit's access fails at; a read needs correct data too (R343, FIXEDFAULT). -/
def State.unitFail (s : State) (slot va n : Nat) (write : Bool) : Option Nat :=
  ((lineStarts va n).find? fun a =>
    (s.pathFault unitTlb slot a 1 (if write then { write := true } else { read := true })).isSome
      || (!write && !s.cleanVa unitTlb slot a 1)).map (max va)

/-- Bytes of a run's parameters as a fixed unit reads them, as they stood at the release that launched the run (R264), with the
state in which their pages are marked accessed (R84) and their packets numbered (R21), or the address at which the read fails. -/
def State.fixedRead (s : State) (src : Nat) (r : Run) (va n : Nat) : Nat ⊕ (State × List Byte) :=
  match s.unitFail r.slot va n false with
  | some a => .inl a
  | none => .inr (s.unitTouch src unitTlb r.slot va n false, s.readCode r.id unitTlb r.slot va n)

/-- Ends a run by FIXEDFAULT at a node (Table 18-3 code 5). -/
def State.fixedFault (s : State) (run node addr : Nat) : State := s.abortRun run 5 node addr

/-- Whether the units of a die do no work: it is parked, or a layer they stand on is gated (R270, R278). -/
def State.unitsDown (s : State) (d : Nat) : Bool :=
  s.dieHeld d || (s.gate d 1).gated || (s.gate d 1).busy || (s.gate d 2).gated || (s.gate d 2).busy

/-- The binning parameter structure (Table 12-5). -/
structure BinParam where
  vpw : Nat
  vph : Nat
  tset : Nat
  ntarg : Nat
  gt : Bool
  dclear : Nat
  rttab : Nat
  grouptab : Nat
  base : Nat
  size : Nat
  deriving DecidableEq, Repr

/-- The fields of a binning parameter structure. -/
def binParamOf (b : List Byte) : BinParam where
  vpw := field b 0 2
  vph := field b 2 2
  tset := field b 4 1
  ntarg := min 8 (field b 5 1)
  gt := field b 6 1 % 2 == 1
  dclear := field b 8 4
  rttab := field b 16 8
  grouptab := field b 24 8
  base := field b 32 8
  size := field b 40 8

/-- Tiles of a viewport across and down. -/
def BinParam.tw (p : BinParam) : Nat := (p.vpw + 31) / 32
def BinParam.th (p : BinParam) : Nat := (p.vph + 31) / 32

/-- The parameter structure of a binning node, or the address at which reading it fails. -/
def State.binParam (s : State) (src : Nat) (r : Run) (node : Nat) : Nat ⊕ (State × BinParam) :=
  match s.fixedRead src r (((r.node? node).map (·.fixparam)).getD 0) 64 with
  | .inl a => .inl a
  | .inr (t, b) => .inr (t, binParamOf b)

/-! ### Groups (R266, R268) -/

/-- Bytes of vertex j. -/
def groupVertex (recs : List (List Byte)) (j : Nat) : List Byte := ((recs.getD (1 + j / 4) []).drop (16 * (j % 4))).take 16

/-- Bytes of primitive i of a group. -/
def groupPrim (recs : List (List Byte)) (i : Nat) : List Byte :=
  let v := field (recs.getD 0 []) 0 2
  ((recs.getD (1 + (v + 3) / 4 + i / 8) []).drop (8 * (i % 8))).take 8

/-- Whether a reserved field of a whole group is not zero. -/
def groupReserved (recs : List (List Byte)) : Bool :=
  let h := recs.getD 0 []
  field h 4 4 != 0 || field h 16 48 != 0
    || (List.range (field h 2 2)).any fun i => field (groupPrim recs i) 6 2 != 0 || field (groupPrim recs i) 3 1 / 8 != 0

/-- Whether a group is malformed (R268). -/
def groupBad (recs : List (List Byte)) : Bool :=
  match recs with
  | h :: _ => !countsOk h || (groupWhole recs && groupReserved recs)
  | [] => false

/-- Primitive i of group g; none where it is discarded alone (R268). -/
def primOf (recs : List (List Byte)) (g i : Nat) : Option Prim :=
  let b := groupPrim recs i
  let v := field (recs.getD 0 []) 0 2
  let vs := [field b 0 1, field b 1 1, field b 2 1]
  let flags := field b 3 1
  if vs.any (fun k => decide (v ≤ k)) || flags % 4 == 3 then none
  else some { key := g * 4096 + i, mat := field b 4 2, transp := flags / 4 % 2 == 1, cull := flags % 4
              verts := vs.map fun k => wordsOf (groupVertex recs k) }

/-! ### Rasterisation (R271) -/

/-- A finite F32 as a dyadic number: mantissa and exponent of two. -/
def finiteOf (x : Word) : Option (Int × Int) :=
  match Fmt.f32.unpack x.toNat with
  | .fin s m e => some (sgn s m, e)
  | _ => none

/-- A finite number in units of 1/256, rounded to nearest even. -/
def snap (x : Int × Int) : Int := sgn (decide (x.1 < 0)) (integral .rne (decide (x.1 < 0)) x.1.natAbs (x.2 + 8)).1

/-- A vertex after R271 step 1: X and Y in units of 1/256, Z and Q exactly. -/
structure Vert where
  x : Int
  y : Int
  z : Int × Int
  q : Int × Int
  deriving DecidableEq, Repr

/-- The vertex of four words; none where a value is not finite or Q is not positive. -/
def vertOf (w : List Word) : Option Vert :=
  match finiteOf (w.getD 0 0), finiteOf (w.getD 1 0), finiteOf (w.getD 2 0), finiteOf (w.getD 3 0) with
  | some x, some y, some z, some q => if 0 < q.1 then some { x := snap x, y := snap y, z := z, q := q } else none
  | _, _, _, _ => none

/-- The three vertices of a primitive that is not discarded in step 1. -/
def Prim.vs (p : Prim) : Option (Vert × Vert × Vert) :=
  match vertOf (p.verts.getD 0 []), vertOf (p.verts.getD 1 []), vertOf (p.verts.getD 2 []) with
  | some a, some b, some c => some (a, b, c)
  | _, _, _ => none

/-- The edge function of the edge from a to b at a point, in units of 2^-16. -/
def edgeFn (a b : Vert) (x y : Int) : Int := (b.x - a.x) * (y - a.y) - (x - a.x) * (b.y - a.y)

/-- A primitive set up: its vertices, A, and whether A is negative. -/
def Prim.area (p : Prim) : Option (Vert × Vert × Vert × Int) :=
  match p.vs with
  | none => none
  | some (a, b, c) =>
    let n := edgeFn a b c.x c.y
    if n = 0 || (p.cull == 1 && decide (n < 0)) || (p.cull == 2 && decide (0 < n)) then none else some (a, b, c, n)

/-- Whether an edge function's value covers, for an edge of direction (dx, dy). -/
def covers (e dx dy : Int) : Bool := decide (0 < e) || (e == 0 && (decide (dy < 0) || (dy == 0 && decide (0 < dx))))

/-- Σ of products of integers with dyadic numbers. -/
def dySum (l : List (Int × (Int × Int))) : Int × Int :=
  l.foldl (fun acc t => dyAdd acc.1 acc.2 (t.1 * t.2.1) t.2.2) (0, 0)

/-- RoundTo(F32, n / d, RNE) of dyadic numbers, d positive. -/
def roundQuot (n d : Int × Int) : Word :=
  if n.1 = 0 then 0
  else BitVec.ofNat 32 (Fmt.f32.roundRatio .rne false (decide (n.1 < 0)) n.1.natAbs d.1.natAbs (n.2 - d.2)).1

/-- The fragment of a primitive at a pixel; none where it does not cover the centre (R271 steps 2 to 4). -/
def Prim.frag (p : Prim) (x y : Nat) : Option Frag :=
  match p.area with
  | none => none
  | some (v0, v1, v2, n) =>
    let px : Int := 256 * x + 128
    let py : Int := 256 * y + 128
    let k : Int := if n < 0 then -1 else 1
    let e0 := k * edgeFn v1 v2 px py
    let e1 := k * edgeFn v2 v0 px py
    let e2 := k * edgeFn v0 v1 px py
    if covers e0 (k * (v2.x - v1.x)) (k * (v2.y - v1.y)) && covers e1 (k * (v0.x - v2.x)) (k * (v0.y - v2.y))
        && covers e2 (k * (v1.x - v0.x)) (k * (v1.y - v0.y)) then
      let q := dySum [(e0, v0.q), (e1, v1.q), (e2, v2.q)]
      some { x := x, y := y, key := p.key, mat := p.mat, transp := p.transp
             depth := roundQuot (dySum [(e0, v0.z), (e1, v1.z), (e2, v2.z)]) (n.natAbs, 0)
             b1 := roundQuot (e1 * v1.q.1, v1.q.2) q, b2 := roundQuot (e2 * v2.q.1, v2.q.2) q }
    else none

/-- Floor of a coordinate in units of 1/256 to a tile number. -/
def tileNo (x : Int) : Int := x / 8192

/-- Whether the bounds of a primitive touch a tile (R268). -/
def Prim.touches (p : Prim) (tx ty : Nat) : Bool :=
  match p.vs with
  | none => false
  | some (a, b, c) =>
    decide (tileNo (min a.x (min b.x c.x)) ≤ tx) && decide ((tx : Int) ≤ tileNo (max a.x (max b.x c.x)))
      && decide (tileNo (min a.y (min b.y c.y)) ≤ ty) && decide ((ty : Int) ≤ tileNo (max a.y (max b.y c.y)))

/-- Numbers from lo to hi inclusive that lie below n. -/
def clampRange (lo hi : Int) (n : Nat) : List Nat :=
  let a := lo.toNat
  if hi < 0 then [] else (List.range (min (hi.toNat + 1) n - a)).map (a + ·)

/-- The tiles of a viewport that the bounds of a primitive touch, row-major. -/
def Prim.tiles (p : Prim) (v : BinParam) : List (Nat × Nat) :=
  match p.vs with
  | none => []
  | some (a, b, c) =>
    (clampRange (tileNo (min a.y (min b.y c.y))) (tileNo (max a.y (max b.y c.y))) v.th).flatMap fun ty =>
      (clampRange (tileNo (min a.x (min b.x c.x))) (tileNo (max a.x (max b.x c.x))) v.tw).map fun tx => (tx, ty)

/-! ### The binning unit (R268, R269) -/

/-- The mesh node and group that a place in the order names. -/
def Run.groupAt (r : Run) (b : Binning) : Option (Nat × Nat) :=
  let ms := r.meshOf b.node
  if ms.isEmpty then none else some (ms.getD (b.next % ms.length) 0, b.next / ms.length)

/-- Whether every group given to a lane has been taken. -/
def Run.allTaken (r : Run) (b : Binning) : Bool :=
  let ms := r.meshOf b.node
  (List.range ms.length).all fun p =>
    let given := (r.inst (ms.getD p 0) r.orderedDie).given
    given == 0 || decide ((given - 1) * ms.length + p < b.next)

/-- Whether a mesh node gets no further record and holds none. -/
def State.meshDone (s : State) (r : Run) (m : Nat) : Bool := s.noMore r m && (r.inst m r.orderedDie).queued == 0

/-- Removes the records of a group from the mesh ring. -/
def Run.takeGroup (r : Run) (node tag : Nat) : Run :=
  r.modInst node r.orderedDie fun i => { i with recs := i.recs.filter fun q => q.group != some tag }

/-- Changes the binning state of a node. -/
def Run.modBin (r : Run) (node : Nat) (f : Binning → Binning) : Run := { r with bins := updWhere (·.node == node) f r.bins }

/-- Writes ranges of a bin area in a form of the unit's own. -/
def State.binWrite (s : State) (src slot : Nat) (l : List (Nat × Nat)) : State :=
  l.foldl (fun (s : State) p =>
    { s.writeVa src unitTlb slot p.1 ((List.range p.2).map (Sys2Proof.Config.unstatedByte s.free)) false with free := s.free + 1 }) s

/-- Bins a whole, well-formed group (R268, R269). -/
def State.binGroup (s : State) (r : Run) (b : Binning) (p : BinParam) (g : Nat) (recs : List (List Byte)) : State :=
  let h := recs.getD 0 []
  let n := field h 2 2
  let prims := (List.range n).filterMap (primOf recs g)
  let lists := prims.map fun q => q.tiles p
  let add := 64 * groupSize h + 8 * sumBy List.length lists
  let heads := 64 * p.tw * p.th
  let areas := (p.base + heads + b.used, add) :: (nub (lists.flatten)).map fun t => (p.base + 64 * (t.2 * p.tw + t.1), 64)
  let user := p.grouptab + 8 * g
  if p.size < heads + b.used + add then s.abortRun r.id 7 b.node p.base
  else match if p.grouptab = 0 then none else s.unitFail r.slot user 8 true, areas.findSome? fun a => s.unitFail r.slot a.1 a.2 true with
    | some a, _ => s.fixedFault r.id b.node a
    | none, some a => s.fixedFault r.id b.node a
    | none, none =>
      let src := dieSrc r.orderedDie
      let s1 := if p.grouptab = 0 then s else s.writeVa src unitTlb r.slot user ((h.drop 8).take 8) false
      (s1.binWrite src r.slot areas).modRun r.id fun r => r.modBin b.node fun b => { b with
        prims := b.prims ++ prims, groups := b.groups + 1, held := b.held + groupSize h, badPrims := b.badPrims + (n - prims.length), used := b.used + add }

/-- BIN GROUP (R268): the unit takes the group it awaits once that is closed, and passes one that no lane is to have. -/
def execBinGroup (s : State) : Out :=
  match s.run? s.evt.a with
  | none => .next s
  | some r => match r.bins.find? (·.node == s.evt.b) with
    | none => .next s
    | some b =>
      match r.groupAt b with
      | none => .next s
      | some (m, g) =>
        let tag := g * 256 + m
        let given := (r.inst m r.orderedDie).given
        let qs := (r.inst b.node r.orderedDie).recs.filter fun q => q.group == some tag
        let recs := qs.map fun (q : QRec) => q.bytes
        let coming := s.reqs.any fun q => q.run == r.id && match q.body with
          | .append n _ l _ => n == b.node && l.any fun x => x.group == some tag
          | _ => false
        let past := fun (r : Run) => r.modBin b.node fun b => { b with next := b.next + 1 }
        if b.closed || s.unitsDown r.orderedDie then .next s
        else if given ≤ g then
          if s.meshDone r m && !r.allTaken b then .next (s.modRun r.id past) else .next s
        else if coming || !(r.closedGroups.contains (m, g) || groupWhole recs) then .next s
        else match s.binParam (dieSrc r.orderedDie) r b.node with
          | .inl a => .next (s.fixedFault r.id b.node a)
          | .inr (s, p) =>
            let s1 := s.modRun r.id fun r => { past (r.takeGroup b.node tag) with delivered := r.delivered + recs.length }
            if groupBad recs then
              .next (s1.modRun r.id fun r => r.modBin b.node fun b => { b with badGroups := b.badGroups + 1 })
            else if groupWhole recs then .next (s1.binGroup r b p g recs)
            else .next s1

/-! ### Reservations of fixed units (R62, R263) -/

/-- Slots that a unit reserves at a time (R263). -/
def unitSlots : Nat := 64

/-- Die of the instance that a unit of a die uses of a node (R32). -/
def Run.instDie (r : Run) (n d : Nat) : Nat := if r.isOrdered n then r.orderedDie else d

/-- A fixed unit reserves 64 slots on an edge of its node in the instance of its own die, or of an ordered target's
(R263); none where there is no room. -/
def State.unitReserve (s : State) (r : Run) (n : Node) (e d : Nat) (own : Bool) : Option (State × Resv) :=
  match r.pickDie { n.edge e with isLocal := (n.edge e).isLocal || own } d unitSlots with
  | some t => some (s.modRun r.id fun r => r.reserve (n.edge e).target t unitSlots, { edge := e, die := t, left := unitSlots })
  | none => none

/-- Reserves 64 slots on each used edge of a node, one edge after another, in the instances of a die (own) or as R61 picks them; none where
one must wait. -/
def State.reserveEdges (s : State) (r : Run) (n : Node) (d : Nat) (own : Bool) : Option (State × List Resv) :=
  n.used.foldl (fun acc e => match acc with
    | none => none
    | some (s, l) => match (s.run? r.id).bind fun r => s.unitReserve r n e.1 d own with
      | some (s1, x) => some (s1, l ++ [x])
      | none => none) (some (s, []))

/-- Appends a record on an edge from a unit's reservation. -/
def State.unitAppend (s : State) (r : Run) (n : Node) (e d : Nat) (q : QRec) : State :=
  let t := (n.edge e).target
  s.modRun r.id fun r => (r.giveBack t d 1).push t d s.now [q]

/-- Whether some reservation has a slot left in the instance of a die. -/
def slotOn (d : Nat) (l : List Resv) : Bool := l.any fun x => x.die == d && x.left != 0

/-- Takes a slot in the instance of a die. -/
def useSlotOn (d : Nat) (l : List Resv) : List Resv := updWhere (fun x => x.die == d) (fun (x : Resv) => { x with left := x.left - 1 }) l

/-- A fixed unit takes the first c records that a predicate allows out of an instance, each spilled batch read back for them charged
(R59); a read of one that fails ends the run (SPILLFAULT, RECORDLOST). -/
def State.unitTake (s : State) (r : Run) (n : Node) (i d : Nat) (p : QRec → Bool) (c : Nat) : State × List QRec :=
  let x := r.inst i d
  let recs := (x.all.filter p).take c
  let (y, read) := x.takeOut p recs.length
  match s.batchFault r n.recsize read with
  | some (code, addr) => (s.abortRun r.id code i addr, [])
  | none => ((s.modRun r.id fun r => { r.modInst i d (fun z => { y with reserved := z.reserved }) with
      delivered := r.delivered + recs.length }).readBatches r n.recsize d read, recs)

/-- The course of a tile (R270). -/
def tileCourse (t : Nat × Nat) : Nat := (t.1 + 5 * t.2) % 16

/-- A tile record: the units' own (R263). -/
def tileRec (t : Nat × Nat) : QRec := { bytes := toBytes 4 t.1 ++ toBytes 4 t.2 ++ toBytes 8 0, course := some (tileCourse t) }

/-- The tile of a tile record. -/
def QRec.tileOf (q : QRec) : Nat × Nat := (field q.bytes 0 4, field q.bytes 4 4)

/-- The binning unit's emission: tile records from the front while slots are had (R263). -/
def State.emitTiles (s : State) (run node : Nat) : Nat → State
  | 0 => s
  | fuel + 1 => match s.run? run with
    | none => s
    | some r => match r.bins.find? (·.node == node), r.node? node with
      | some b, some n => match b.tiles with
        | [] => s.modRun run fun r => (r.returnAll n b.resv).modBin node fun b => { b with resv := [] }
        | t :: rest =>
          let d := r.instDie (n.edge 0).target (tileCourse t / 8)
          if slotOn d b.resv then
            ((s.unitAppend r n 0 d (tileRec t)).modRun run fun r =>
              r.modBin node fun b => { b with tiles := rest, resv := useSlotOn d b.resv }).emitTiles run node fuel
          else match s.unitReserve r n 0 d true with
            | some (s1, x) =>
              (s1.modRun run fun r => r.modBin node fun b => { b with resv := addSlots 0 x.die x.left b.resv }).emitTiles run node fuel
            | none => s
      | _, _ => s

/-- VIEWPORT CLOSE (R269): no further group can come and the last is binned; every tile's record goes to its resolver, as the
resolver's instances have room. -/
def execViewportClose (s : State) : Out :=
  match s.run? s.evt.a with
  | none => .next s
  | some r => match r.bins.find? (·.node == s.evt.b) with
    | none => .next s
    | some b =>
      let emit := fun (s : State) (n : Nat) => s.emitTiles r.id b.node (2 * n + 2)
      if s.unitsDown r.orderedDie then .next s
      else if b.closed then .next (emit s b.tiles.length)
      else if !((r.meshOf b.node).all (s.meshDone r)) || !r.allTaken b then .next s
      else match s.binParam (dieSrc r.orderedDie) r b.node with
        | .inl a => .next (s.fixedFault r.id b.node a)
        | .inr (s, p) =>
          let heads := 64 * p.tw * p.th
          if p.size < heads + b.used then .next (s.abortRun r.id 7 b.node p.base)
          else match s.unitFail r.slot p.base heads true with
            | some a => .next (s.fixedFault r.id b.node a)
            | none =>
              let tiles := (List.range p.th).flatMap fun ty => (List.range p.tw).map fun tx => (tx, ty)
              .next (emit ((s.binWrite (dieSrc r.orderedDie) r.slot [(p.base, heads)]).modRun r.id fun r => r.modBin b.node fun b =>
                { b with closed := true, held := 0, tiles := tiles }) tiles.length)

/-! ### Tile slots (R273, R274) -/

/-- A tile slot of a course. -/
def State.tile (s : State) (c k : Nat) : Tile := (s.course c).tiles.getD k {}

/-- Changes a tile slot. -/
def State.modTile (s : State) (c k : Nat) (f : Tile → Tile) : State :=
  s.modCourse c fun x => { x with tiles := x.tiles.modify k f }

/-- The node that EDGE0 of a node names. -/
def Run.next0 (r : Run) (n : Nat) : Nat := ((r.node? n).map fun x => (x.edge 0).target).getD 0

/-- A tile record of a run for a course that waits in a resolver's instance: the resolver node, its binning unit, and the tile. -/
def Run.tileFor (r : Run) (c : Nat) : Option (Nat × Binning × (Nat × Nat)) :=
  r.bins.findSome? fun b =>
    let m := r.next0 b.node
    ((r.inst m (r.instDie m (c / 8))).all.find? fun q => q.course == some c).map fun q => (m, b, q.tileOf)

/-- A render-target entry (Table 12-6). -/
structure Target where
  base : Nat
  load : Bool
  wb : Bool
  pitch : Nat
  clear : Nat
  deriving DecidableEq, Repr

/-- The render targets of a viewport, or the address at which reading them fails. -/
def State.targets (s : State) (src : Nat) (r : Run) (p : BinParam) : Nat ⊕ (State × List Target) :=
  match s.fixedRead src r p.rttab (16 * p.ntarg) with
  | .inl a => .inl a
  | .inr (u, b) => .inr (u, (List.range p.ntarg).map fun i =>
    let f := field b (16 * i + 6) 1
    { base := field b (16 * i) 6, load := f % 2 == 1, wb := f / 2 % 2 == 1, pitch := field b (16 * i + 8) 4, clear := field b (16 * i + 12) 4 })

/-- Address of a pixel of a target. -/
def Target.at_ (t : Target) (x y : Nat) : Nat := t.base + y * t.pitch + 4 * x

/-- Pixel columns or rows of tile t that lie inside a viewport of v pixels. -/
def insideOf (t v : Nat) : Nat := min 32 (v - 32 * t)

/-- The rows of a tile inside the viewport: pixel row, address and bytes in a target. -/
def Target.rows (t : Target) (p : BinParam) (tx ty : Nat) : List (Nat × Nat × Nat) :=
  (List.range (insideOf ty p.vph)).map fun py => (py, t.at_ (32 * tx) (32 * ty + py), 4 * insideOf tx p.vpw)

/-- The 4,096 bytes that fill a plane (R274). -/
def State.planeFill (s : State) (slot : Nat) (t : Target) (p : BinParam) (tx ty k : Nat) : List Byte :=
  if t.load then
    let rows := t.rows p tx ty
    (List.range 32).flatMap fun py =>
      let got := match rows[py]? with
        | some r => s.readVa unitTlb slot r.2.1 r.2.2
        | none => []
      got ++ (List.range (128 - got.length)).map fun i =>
        Sys2Proof.Config.unstatedByte (s.free + k) (128 * py + got.length + i)
  else (List.range 1024).flatMap fun _ => toBytes 4 t.clear

/-- Fills tile slot k of a course with a tile (R274), from its targets' memory where they say so; an address where a read of that
memory fails. -/
def State.fillTile (s : State) (r : Run) (c k : Nat) (p : BinParam) (ts : List Target) (t : Tile) : Nat ⊕ State :=
  let loads := ts.filter (·.load)
  match loads.findSome? fun g => (g.rows p t.tx t.ty).findSome? fun q => s.unitFail r.slot q.2.1 q.2.2 false with
  | some a => .inl a
  | none =>
    let s1 := loads.foldl (fun (s : State) g => (g.rows p t.tx t.ty).foldl (fun (s : State) q =>
      s.unitTouch (courseSrc c) unitTlb r.slot q.2.1 q.2.2 false) s) s
    let mem := (List.range ts.length).foldl (fun (m : Mem) i =>
      m.writeN (32768 * k + 4096 * i) (s.planeFill r.slot (ts.getD i ⟨0, false, false, 0, 0⟩) p t.tx t.ty i)) (s.course c).tileMem
    let prim := (s.course c).primMem.writeN (8192 * k)
      ((List.range 1024).flatMap fun _ => toBytes 4 p.dclear ++ toBytes 4 0xFFFFFFFF)
    let s2 := (s1.modCourse c fun x => { x with tileMem := mem, primMem := prim }).modTile c k fun _ => t
    .inr { s2 with free := s2.free + ts.length }

/-- TILE FILL (R274): the resolver of a course, once it has its slots on EDGE0 (R62), takes the next tile record of its course into
a free slot and fills the slot. -/
def execTileFill (s : State) : Out :=
  let c := s.evt.a
  match (List.range 4).find? (fun k => (s.tile c k).state == .free), s.runs.find? (fun r => !r.cancelling && (r.tileFor c).isSome) with
  | some k, some r => match r.tileFor c with
    | none => .next s
    | some (m, b, tx, ty) => match r.node? m with
      | none => .next s
      | some n =>
        if 16 ≤ c || s.unitsDown (c / 8) then .next s
        else match s.unitReserve r n 0 (c / 8) true with
          | none => .next s
          | some (s0, x) => match s0.binParam (courseSrc c) r b.node with
            | .inl a => .next (s.fixedFault r.id m a)
            | .inr (s1, p) => match s1.targets (courseSrc c) r p with
              | .inl a => .next (s.fixedFault r.id m a)
              | .inr (s2, ts) =>
                match s2.unitTake r n m (r.instDie m (c / 8)) (fun q => q.course == some c) 1 with
                | (s3, []) => .next s3
                | (s3, _ :: _) =>
                  match s3.fillTile r c k p ts { state := .filled, run := r.id, bin := b.node, resolver := m, classifier := r.next0 m
                                                 tx := tx, ty := ty, resv := [x] } with
                  | .inl a => .next (s.fixedFault r.id m a)
                  | .inr s4 => .next s4
  | _, _ => .next s

/-! ### Visibility (R271, R272) -/

/-- Whether a depth is nearer than another (Table 12-5 DEPTHGT). -/
def nearer (gt : Bool) (a b : Word) : Bool :=
  if gt then (Fmt.f32.unpack b.toNat).lt (Fmt.f32.unpack a.toNat) else (Fmt.f32.unpack a.toNat).lt (Fmt.f32.unpack b.toNat)

/-- Fragments of one pixel in key order: the final opaque one and the transparent ones that survive. -/
def resolve (gt : Bool) (dclear : Word) (fs : List Frag) : List Frag :=
  let op := fs.foldl (fun (best : Option Frag) f =>
    if f.transp then best else if nearer gt f.depth ((best.map (·.depth)).getD dclear) then some f else best) none
  let d := (op.map (·.depth)).getD dclear
  op.toList ++ fs.filter fun f => f.transp && nearer gt f.depth d

/-- Primitives of a binning node that touch a tile, by ascending key. -/
def Binning.primsAt (b : Binning) (tx ty : Nat) : List Prim :=
  (b.prims.filter fun p => p.touches tx ty).mergeSort fun p q => decide (p.key ≤ q.key)

/-- The pixels of a tile inside the viewport, row-major. -/
def tilePixels (p : BinParam) (tx ty : Nat) : List (Nat × Nat) :=
  (List.range (insideOf ty p.vph)).flatMap fun py => (List.range (insideOf tx p.vpw)).map fun px => (32 * tx + px, 32 * ty + py)

/-- TILE VISIBILITY (R271, R272): the tile's primitives are rasterised, its primitive-ID store becomes final, and its record goes to
the classifier; the slots that the resolver has left go back. -/
def execTileVisibility (s : State) : Out :=
  let c := s.evt.a
  let k := s.evt.b
  let t := s.tile c k
  match s.run? t.run with
  | none => .next s
  | some r => match r.bins.find? (·.node == t.bin) with
    | none => .next s
    | some b =>
      if t.state != .filled || s.unitsDown (c / 8) then .next s
      else match s.binParam (courseSrc c) r b.node with
        | .inl a => .next (s.fixedFault r.id t.resolver a)
        | .inr (s, p) =>
          let prims := b.primsAt t.tx t.ty
          let fs := (tilePixels p t.tx t.ty).flatMap fun x =>
            resolve p.gt (BitVec.ofNat 32 p.dclear) (prims.filterMap fun q => q.frag x.1 x.2)
          let store := (fs.filter fun f => !f.transp).foldl (fun (m : Mem) f =>
            m.writeN (8192 * k + (32 * (f.y % 32) + f.x % 32) * 8) (toBytes 4 f.depth.toNat ++ toBytes 4 f.key)) (s.course c).primMem
          let n := (r.node? t.resolver).getD (nodeOf [])
          let (resv, d) := takeSlot 0 t.resv
          .next ((((s.modCourse c fun x => { x with primMem := store }).unitAppend r n 0 d
              { tileRec (t.tx, t.ty) with tile := some (4 * c + k) }).modRun r.id fun r => r.returnAll n resv).modTile c k fun t =>
            { t with state := .visible, frags := fs, resv := [] })

/-! ### The material classifier (R275 to R277) -/

/-- The classifier parameter structure (Table 12-7). -/
structure ClsParam where
  mattab : Nat
  matcount : Nat
  bgedge : Nat
  bgen : Bool
  deriving DecidableEq, Repr

/-- The parameter structure of a classifier node, or the address at which reading it fails. -/
def State.clsParam (s : State) (src : Nat) (r : Run) (node : Nat) : Nat ⊕ (State × ClsParam) :=
  match s.fixedRead src r (((r.node? node).map (·.fixparam)).getD 0) 16 with
  | .inl a => .inl a
  | .inr (t, b) => .inr (t, { mattab := field b 0 8, matcount := field b 8 4, bgedge := field b 12 1 % 8, bgen := field b 12 1 / 128 == 1 })

/-- The edge of a material: none where its entry gives no record (Table 12-8). -/
def State.materialEdge (s : State) (r : Run) (n : Node) (p : ClsParam) (mat : Nat) : Option Nat :=
  if p.matcount ≤ mat then none
  else
    let e := field (s.readCode r.id unitTlb r.slot (p.mattab + mat) 1) 0 1
    if e / 128 == 1 && (n.edge (e % 8)).emits != 0 then some (e % 8) else none

/-- The bytes of a pixel record (Table 12-9); a background record where no fragment is given. -/
def pixelRecord (tset slot x y : Nat) (f : Option Frag) (dclear seq : Nat) (sect : Bool) : List Byte :=
  let flags := (if sect then 4 else 0) + (if f.isNone then 2 else 0) + (if (f.map (·.transp)).getD false then 1 else 0)
  toBytes 2 x ++ toBytes 2 y ++ toBytes 4 ((f.map (·.key)).getD 0) ++ toBytes 4 ((f.map (·.b1.toNat)).getD 0)
    ++ toBytes 4 ((f.map (·.b2.toNat)).getD 0) ++ toBytes 4 ((f.map (·.depth.toNat)).getD dclear)
    ++ toBytes 2 ((f.map (·.mat)).getD 0) ++ toBytes 1 slot ++ toBytes 1 flags ++ toBytes 4 seq ++ toBytes 1 tset ++ toBytes 3 0

/-- The records of one pixel, numbered: number, edge, bytes (R275, R277). -/
def pixelRecords (tset slot dclear x y : Nat) (bg : Option Nat) (edge : Nat → Option Nat) (fs : List Frag) :
    List (Nat × Nat × List Byte) :=
  let emitted := fs.filterMap fun f => (edge f.mat).map fun e => (e, some f)
  let first := if fs.any fun f => !f.transp then [] else match bg with
    | some e => [(e, none)]
    | none => []
  let all := first ++ emitted
  let sect := emitted.any fun r => match r.2 with | some f => f.transp | none => false
  (List.range all.length).map fun i =>
    let (e, f) := all.getD i (0, none)
    (i, e, pixelRecord tset slot x y f dclear (if sect then i else 0) sect)

/-- All records of a tile in ascending (SEQ, Y, X) order, with their edges. -/
def State.tileRecords (s : State) (r : Run) (n : Node) (p : BinParam) (q : ClsParam) (t : Tile) (k : Nat) :
    List (Nat × List Byte) :=
  let bg := if q.bgen && (n.edge q.bgedge).emits != 0 then some q.bgedge else none
  let all := (tilePixels p t.tx t.ty).flatMap fun x =>
    pixelRecords p.tset k p.dclear x.1 x.2 bg (s.materialEdge r n q) (t.frags.filter fun f => f.x == x.1 && f.y == x.2)
  let top := all.foldl (fun m e => max m (e.1 + 1)) 0
  (List.range top).flatMap fun i => (all.filter fun e => e.1 == i).map (·.2)

/-- The classifier's emission: records from the front while slots are had. -/
def State.emitTile (s : State) (n : Node) (c k : Nat) : Nat → State
  | 0 => s
  | fuel + 1 =>
    let t := s.tile c k
    match s.run? t.run, t.left with
    | some r, (e, b) :: rest =>
      if t.resv.any fun x => x.edge == e && x.left != 0 then
        let (resv, d) := takeSlot e t.resv
        ((s.unitAppend r n e d { bytes := b, course := some c, tile := some (4 * c + k) }).modTile c k fun t =>
          { t with left := rest, resv := resv }).emitTile n c k fuel
      else match s.unitReserve r n e (c / 8) true with
        | some (s1, x) => (s1.modTile c k fun t => { t with resv := addSlots e x.die x.left t.resv }).emitTile n c k fuel
        | none => s
    | some r, [] => (s.modRun r.id fun r => r.returnAll n t.resv).modTile c k fun t => { t with resv := [] }
    | none, _ => s

/-- CLASSIFIER EMIT (R275 to R277): the classifier takes the record of a tile that has become visible, once it has slots on each of
its edges (R62), and emits the tile's pixel records as far as the targets have room. -/
def execClassifierEmit (s : State) : Out :=
  let c := s.evt.a
  let k := s.evt.b
  let t := s.tile c k
  match s.run? t.run with
  | none => .next s
  | some r => match r.node? t.classifier with
    | none => .next s
    | some n =>
      if s.unitsDown (c / 8) then .next s
      else if t.state == .visible then
        let m := t.classifier
        match s.reserveEdges r n (c / 8) true with
        | none => .next s
        | some (s1, resv) =>
        match (s1.modTile c k fun t => { t with state := .shading, resv := resv }).unitTake ((s1.run? r.id).getD r) n m (r.instDie m (c / 8))
          (fun q => q.tile == some (4 * c + k)) 1 with
        | (s, []) => .next s
        | (s, _ :: _) => match s.binParam (courseSrc c) r t.bin with
        | .inl a => .next (s.fixedFault r.id t.classifier a)
        | .inr (s, p) => match s.clsParam (courseSrc c) r t.classifier with
        | .inl a => .next (s.fixedFault r.id t.classifier a)
        | .inr (s, q) =>
          let mats := nub ((t.frags.map (·.mat)).filter fun m => decide (m < q.matcount))
          match mats.findSome? fun m => s.unitFail r.slot (q.mattab + m) 1 false with
          | some a => .next (s.fixedFault r.id t.classifier a)
          | none =>
            let left := s.tileRecords r n p q t k
            let s1 := mats.foldl (fun (s : State) m => s.unitTouch (courseSrc c) unitTlb r.slot (q.mattab + m) 1 false) s
            .next ((s1.modTile c k fun t => { t with left := left }).emitTile n c k (3 * left.length + 1))
      else if t.state == .shading && !t.left.isEmpty then .next (s.emitTile n c k (3 * t.left.length + 1))
      else .next s

/-- Whether a record of a tile slot is outstanding (R274). -/
def State.tileOut (s : State) (r : Run) (tag : Nat) : Bool :=
  (r.insts.any fun i => i.all.any fun q => q.tile == some tag) || (s.wavesOf r.id).any fun w => w.tiles.contains tag

/-- TILE WRITEBACK (R274): the WB targets' pixels inside the viewport go to memory and the slot is free. -/
def execTileWriteback (s : State) : Out :=
  let c := s.evt.a
  let k := s.evt.b
  let t := s.tile c k
  match s.run? t.run with
  | none => .next s
  | some r =>
    if t.state != .shading || !t.left.isEmpty || s.tileOut r (4 * c + k) || s.unitsDown (c / 8) then .next s
    else match s.binParam (courseSrc c) r t.bin with
      | .inl a => .next (s.fixedFault r.id t.resolver a)
      | .inr (s, p) => match s.targets (courseSrc c) r p with
        | .inl a => .next (s.fixedFault r.id t.resolver a)
        | .inr (s, ts) =>
          let rows := (List.range ts.length).flatMap fun i =>
            let x := ts.getD i ⟨0, false, false, 0, 0⟩
            if x.wb then (x.rows p t.tx t.ty).map fun q => (32768 * k + 4096 * i + 128 * q.1, q.2) else []
          match rows.findSome? fun q => s.unitFail r.slot q.2.1 q.2.2 true with
          | some a => .next (s.fixedFault r.id t.resolver a)
          | none =>
            let m := (s.course c).tileMem
            .next ((rows.foldl (fun (s : State) q => s.writeVa (courseSrc c) unitTlb r.slot q.2.1 (m.readN q.1 q.2.2) false) s).modTile c k fun _ => {})

end Sys2Proof.Machine
end

