-- ==== Sys2Proof/Machine/Fixed.lean ====
section
/-! DEFINITION. Events of the ray traversal units and the matrix nodes (spec 12_fixed_nodes.md R278 to R284). -/

namespace Sys2Proof.Machine

/-! ### Exact numbers (R280) -/

/-- The number a unit computes with for an F32 encoding: its value where it is finite. -/
def numOf (x : Nat) : Rat :=
  match Fmt.f32.unpack x with
  | .fin s m e => if 0 ≤ e then ((sgn s m * 2 ^ e.toNat : Int) : Rat) else mkRat (sgn s m) (2 ^ (-e).toNat)
  | _ => (Sys2Proof.Config.oddValue x : Rat)

/-- A bound of a ray: an infinity or a number. -/
inductive Ext where
  | low
  | val (r : Rat)
  | high
  deriving DecidableEq, Repr

/-- A bound that is not a NaN. -/
def extOf (x : Nat) : Ext :=
  match Fmt.f32.unpack x with
  | .inf true => .low
  | .inf false => .high
  | _ => .val (numOf x)

/-- Order of bounds. -/
def Ext.le (a b : Ext) : Bool :=
  match a, b with
  | .low, _ => true
  | _, .high => true
  | .val x, .val y => decide (x ≤ y)
  | _, _ => false

/-- The greater of two bounds. -/
def Ext.max (a b : Ext) : Ext := if a.le b then b else a
/-- The lesser of two bounds. -/
def Ext.min (a b : Ext) : Ext := if a.le b then a else b

/-- RoundTo(F32, r, RNE). -/
def roundRat (r : Rat) : Word :=
  if r.num = 0 then 0
  else BitVec.ofNat 32 (Fmt.f32.roundRatio .rne false (decide (r.num < 0)) r.num.natAbs r.den 0).1

/-- A point or direction. -/
structure Vec where
  x : Rat
  y : Rat
  z : Rat
  deriving DecidableEq, Repr

/-- Difference. -/
def Vec.sub (a b : Vec) : Vec := ⟨a.x - b.x, a.y - b.y, a.z - b.z⟩
/-- Dot product. -/
def Vec.dot (a b : Vec) : Rat := a.x * b.x + a.y * b.y + a.z * b.z
/-- Cross product. -/
def Vec.cross (a b : Vec) : Vec := ⟨a.y * b.z - a.z * b.y, a.z * b.x - a.x * b.z, a.x * b.y - a.y * b.x⟩
/-- The point a + t b. -/
def Vec.along (a b : Vec) (t : Rat) : Vec := ⟨a.x + t * b.x, a.y + t * b.y, a.z + t * b.z⟩
/-- Components. -/
def Vec.list (a : Vec) : List Rat := [a.x, a.y, a.z]

/-- The vector of three F32 at an offset. -/
def vecOf (b : List Byte) (o : Nat) : Vec := ⟨numOf (field b o 4), numOf (field b (o + 4) 4), numOf (field b (o + 8) 4)⟩

/-! ### Rays (R278, R280) -/

/-- A ray record (Table 12-10). -/
structure Ray where
  o : Vec
  d : Vec
  tmin : Ext
  tmax : Ext
  root : Nat
  payload : Nat
  first : Bool
  cullBack : Bool
  cullFront : Bool

/-- The ray of a record. Its reserved bits are ignored, where the spec gives them no consequence (DESIGN CHOICE, log entry 70). -/
def rayOf (b : List Byte) : Ray where
  o := vecOf b 0
  d := vecOf b 16
  tmin := extOf (field b 12 4)
  tmax := extOf (field b 28 4)
  root := field b 32 8
  payload := field b 40 4
  first := field b 44 4 % 2 == 1
  cullBack := field b 44 4 / 2 % 2 == 1
  cullFront := field b 44 4 / 4 % 2 == 1

/-- Whether a ray record holds a NaN or a zero direction. -/
def rayInvalid (b : List Byte) : Bool :=
  ((List.range 8).any fun i => (Fmt.f32.unpack (field b (4 * i) 4)).isNan)
    || (List.range 3).all fun i => field b (16 + 4 * i) 4 % 2 ^ 31 == 0

/-- 2^e. -/
def pow2 (e : Int) : Rat := if 0 ≤ e then ((2 ^ e.toNat : Nat) : Rat) else mkRat 1 (2 ^ (-e).toNat)

/-- Bounds of child i of a box node on an axis (R279). -/
def childBounds (b : List Byte) (i axis : Nat) : Rat × Rat :=
  let o := numOf (field b (4 * axis) 4)
  let u := pow2 (b.getD (12 + axis) 0).toInt
  (o + (field b (16 + 6 * i + axis) 1 : Nat) * u, o + ((field b (19 + 6 * i + axis) 1 : Nat) + 1) * u)

/-- The part of [lo, hi] of a ray that lies between two planes of an axis; none where there is none. -/
def slab (o d lo hi : Rat) (seg : Ext × Ext) : Option (Ext × Ext) :=
  if hi < lo then none
  else if d = 0 then (if lo ≤ o && o ≤ hi then some seg else none)
  else
    let a := (lo - o) / d
    let b := (hi - o) / d
    let near := if a ≤ b then a else b
    let far := if a ≤ b then b else a
    let r := (seg.1.max (.val near), seg.2.min (.val far))
    if r.1.le r.2 then some r else none

/-- Entry distance of a child's closed box on the segment [TMIN, best]; none where it does not meet it. -/
def boxEntry (ray : Ray) (b : List Byte) (i : Nat) (best : Ext) : Option Ext :=
  let seg : Option (Ext × Ext) := if ray.tmin.le best then some (ray.tmin, best) else none
  let go := fun (s : Option (Ext × Ext)) (k : Nat) => match s with
    | none => none
    | some s =>
      let (lo, hi) := childBounds b i k
      slab (ray.o.list.getD k 0) (ray.d.list.getD k 0) lo hi s
  ((List.range 3).foldl go seg).map (·.1)

/-- Weights of V1 and V2 at a point of a triangle's plane, with normal n. -/
def weights (v0 e1 e2 n p : Vec) : Rat × Rat :=
  let q := p.sub v0
  let k := n.dot n
  ((q.cross e2).dot n / k, (e1.cross q).dot n / k)

/-- Narrows [lo, hi] to where a + b t ≥ 0. -/
def halfLine (a b : Rat) (seg : Option (Ext × Ext)) : Option (Ext × Ext) :=
  match seg with
  | none => none
  | some (lo, hi) =>
    let r := if b = 0 then (if a < 0 then none else some (lo, hi))
      else if 0 < b then some (lo.max (.val (-a / b)), hi) else some (lo, hi.min (.val (-a / b)))
    match r with
    | some (x, y) => if x.le y then some (x, y) else none
    | none => none

/-- A hit on a triangle: t, the weights of V1 and V2, and whether the face is a back face (R280). -/
def triangleHit (ray : Ray) (b : List Byte) (best : Ext) : Option (Rat × Rat × Rat × Bool) :=
  let v0 := vecOf b 0
  let e1 := (vecOf b 12).sub v0
  let e2 := (vecOf b 24).sub v0
  let n := e1.cross e2
  let det := n.dot ray.d
  let back := !decide (det < 0)
  if n = ⟨0, 0, 0⟩ || (ray.cullFront && !back) || (ray.cullBack && back) then none
  else if det ≠ 0 then
    let t := n.dot (v0.sub ray.o) / det
    let (w1, w2) := weights v0 e1 e2 n (ray.o.along ray.d t)
    if 0 ≤ w1 && 0 ≤ w2 && w1 + w2 ≤ 1 && ray.tmin.le (.val t) && (Ext.val t).le best then some (t, w1, w2, back) else none
  else if n.dot (v0.sub ray.o) ≠ 0 then none
  else
    -- the ray lies in the plane: the least t at which its point is in the triangle
    let (a1, a2) := weights v0 e1 e2 n ray.o
    let (c1, c2) := weights v0 e1 e2 n (ray.o.along ray.d 1)
    let seg := if ray.tmin.le best then some (ray.tmin, best) else none
    match halfLine (1 - a1 - a2) (a1 + a2 - c1 - c2) (halfLine a2 (c2 - a2) (halfLine a1 (c1 - a1) seg)) with
    | some (.val t, _) =>
      let (w1, w2) := weights v0 e1 e2 n (ray.o.along ray.d t)
      some (t, w1, w2, back)
    | _ => none

/-! ### The search (R280) -/

/-- The nearest hit so far. -/
structure Hit where
  t : Rat
  b1 : Rat
  b2 : Rat
  back : Bool
  prim : Nat
  geom : Nat

/-- How a ray ends: STATUS, CODE and its hit. -/
structure RayEnd where
  status : Nat
  code : Nat := 0
  hit : Option Hit := none
  boxes : Nat := 0
  tris : Nat := 0
  reads : List (Nat × Nat) := []       -- addresses and lengths of the reads that succeeded

/-- An entry of the traversal stack: a box node or a leaf run, its reference and entry distance. -/
structure Pend where
  leaf : Bool
  ref : Nat
  entry : Ext

/-- The code of Table 11-2 of a read by a fixed unit that fails; none where it succeeds. -/
def State.unitCode (s : State) (slot va n : Nat) : Option Nat :=
  match s.pathFault unitTlb slot va n { read := true } with
  | some (c, _) => some (engineCode c)
  | none => if s.cleanVa unitTlb slot va n then none else some 3

/-- Children of a box node that the segment meets, nearest first, ties to the lower index; KINDS 3 is taken as empty and the node's
reserved bytes are ignored (DESIGN CHOICE, log entry 70). -/
def childrenOf (ray : Ray) (b : List Byte) (best : Ext) : List Pend :=
  let l := (List.range 4).filterMap fun i =>
    let k := field b 15 1 / 4 ^ i % 4
    if k == 1 || k == 2 then (boxEntry ray b i best).map fun e => ({ leaf := k == 2, ref := field b (40 + 4 * i) 4, entry := e } : Pend) else none
  l.foldl (fun (acc : List Pend) p => (acc.takeWhile fun q => q.entry.le p.entry) ++ [p] ++ (acc.dropWhile fun q => q.entry.le p.entry)) []

/-- The search from a stack on, with the reserved fields of a leaf ignored (DESIGN CHOICE, log entry 70): leaf is the run of leaves under way, at its address; fuel bounds the reads. None where the
fuel ends: a search without an end. -/
def State.search (s : State) (slot : Nat) (ray : Ray) (leaf : Option Nat) (stack : List Pend) (acc : RayEnd) : Nat → Option RayEnd
  | 0 => none
  | fuel + 1 =>
    let best := match acc.hit with | some h => Ext.val h.t | none => ray.tmax
    match leaf with
    | some va =>
      match s.unitCode slot va 48 with
      | some c => some { acc with status := 3, code := c, hit := none }
      | none =>
        let b := s.readVa unitTlb slot va 48
        let acc1 := { acc with tris := acc.tris + 1, reads := (va, 48) :: acc.reads }
        let acc2 := match triangleHit ray b best with
          | some (t, b1, b2, back) =>
            if (acc.hit.map fun h => decide (t < h.t)).getD true then
              { acc1 with hit := some ({ t := t, b1 := b1, b2 := b2, back := back, prim := field b 36 4, geom := field b 40 3 } : Hit) }
            else acc1
          | none => acc1
        if ray.first && acc2.hit.isSome then some { acc2 with status := 1 }
        else s.search slot ray (if field b 43 1 / 128 == 1 then none else some (va + 48)) stack acc2 fuel
    | none => match stack with
      | [] => some { acc with status := if acc.hit.isSome then 1 else 0 }
      | p :: rest =>
        let va := ray.root + 16 * p.ref
        if !p.entry.le best then s.search slot ray none rest acc fuel
        else if p.leaf then s.search slot ray (some va) rest acc fuel
        else match s.unitCode slot va 64 with
          | some c => some { acc with status := 3, code := c, hit := none }
          | none =>
            let b := s.readVa unitTlb slot va 64
            let kids := childrenOf ray b best
            let kinds := (List.range 4).filter fun i => field b 15 1 / 4 ^ i % 4 == 1 || field b 15 1 / 4 ^ i % 4 == 2
            let acc1 := { acc with boxes := acc.boxes + kinds.length, reads := (va, 64) :: acc.reads }
            if 32 < rest.length + kids.length then some { acc1 with status := 2, hit := none }
            else s.search slot ray none (kids ++ rest) acc1 fuel

/-- More steps than a search has different states, so that one that takes them has no end: 32 entries of the stack, each one of the
children of one of 2^32 box nodes, an address below 2^48 and the nearest of at most 2^48 triangles. -/
def rayFuel : Nat := 2 ^ 4096

/-- The outcome of a ray record (R280). -/
def State.trace (s : State) (slot : Nat) (b : List Byte) : Option RayEnd :=
  let ray := rayOf b
  if rayInvalid b then some { status := 4 }
  else if !ray.tmin.le ray.tmax then some { status := 0 }
  else s.search slot ray none [{ leaf := false, ref := 0, entry := ray.tmin }] { status := 0 } rayFuel

/-- The result record (Table 12-13). -/
def rayRecord (payload : Nat) (e : RayEnd) : List Byte :=
  match e.hit with
  | some h => toBytes 4 payload ++ toBytes 4 (roundRat h.t).toNat ++ toBytes 4 (roundRat h.b1).toNat ++ toBytes 4 (roundRat h.b2).toNat
      ++ toBytes 4 h.prim ++ toBytes 4 h.geom ++ toBytes 1 e.status ++ toBytes 1 0 ++ toBytes 1 (if h.back then 1 else 0) ++ toBytes 5 0
  | none => toBytes 4 payload ++ toBytes 20 0 ++ toBytes 1 e.status ++ toBytes 1 e.code ++ toBytes 6 0

/-! ### Batches (R278, R282) -/

/-- Records of a batch (R278, R282). -/
def batchMax : Nat := 64

/-- Takes a batch of an instance (R62): the state without its records, and the batch; an uncorrectable error in a spilled record
ends the run (RECORDLOST). -/
def State.takeBatch (s : State) (r : Run) (n : Node) (i d : Nat) (resv : List Resv) : State × Option Batch :=
  match s.unitTake r n i d (fun _ => true) batchMax with
  | (t, []) => (t, none)
  | (t, recs) => (t, some { run := r.id, node := i, recs := recs, resv := resv })

/-- The edges of a batch's node. -/
def State.batchNode (s : State) (b : Batch) : Option (Run × Node) :=
  match s.run? b.run with
  | some r => (r.node? b.node).map fun n => (r, n)
  | none => none

/-- RAY BATCH (R278): a traversal unit takes up to 64 rays once it has its slots. -/
def execRayBatch (s : State) : Out :=
  let i := s.evt.b
  let d := s.evt.c
  let a := s.evt.d
  match s.run? s.evt.a with
  | none => .next s
  | some r => match r.node? i with
    | none => .next s
    | some n =>
      let x := s.ashlar a
      if !n.isFixed 4 || r.cancelling || 2 ≤ d || 128 ≤ a || dieOf a != d || s.unitsDown d || x.retired || !x.rays.isEmpty || (r.inst i d).queued == 0 then .next s
      else match s.reserveEdges r n d false with
        | none => .next s
        | some (s1, resv) => match s1.run? r.id with
          | none => .next s
          | some r1 => match s1.takeBatch r1 n i d resv with
            | (s2, some b) => .next (s2.modAshlar a fun x => { x with rays := x.rays ++ [b] })
            | (s2, none) => .next s2

/-- Appends a result of a batch on an edge from its reservation; on an unused edge it is discarded. -/
def State.batchResult (s : State) (r : Run) (n : Node) (b : Batch) (e : Nat) (bytes : List Byte) : State × Batch :=
  let rest := { b with recs := b.recs.tail }
  if (n.edge e).emits = 0 then (s, rest)
  else
    let (resv, d) := takeSlot e b.resv
    (s.unitAppend r n e d { bytes := bytes }, { rest with resv := resv })

/-- The slots a finished batch has left go back. -/
def State.batchEnd (s : State) (n : Node) (b : Batch) : State := s.modRun b.run fun r => r.returnAll n b.resv

/-- Marks the pages of a unit's reads accessed (R84) and numbers their packets (R21). -/
def State.touchAll (s : State) (src slot : Nat) (l : List (Nat × Nat)) : State :=
  l.foldr (fun p (s : State) => s.unitTouch src unitTlb slot p.1 p.2 false) s

/-- RAY RESULT (R280, R281): the oldest ray of a unit's batch ends, and its record is appended. -/
def execRayResult (s : State) : Out :=
  let a := s.evt.a
  match (s.ashlar a).rays with
  | [] => .next s
  | b :: rest => match s.batchNode b, b.recs with
    | some (r, n), q :: _ => match s.trace r.slot q.bytes with
      | none => .next s
      | some e =>
        let s0 := s.touchAll (courseSrc (courseOf a)) r.slot e.reads
        let (s1, b1) := s0.batchResult r n b (if e.status == 1 then 0 else 1) (rayRecord (field q.bytes 40 4) e)
        let s2 := (s1.count a 23 e.boxes r.slot).count a 24 e.tris r.slot
        if b1.recs.isEmpty then .next ((s2.batchEnd n b1).modAshlar a fun x => { x with rays := rest })
        else .next (s2.modAshlar a fun x => { x with rays := b1 :: rest })
    | _, _ => .next (s.modAshlar a fun x => { x with rays := rest })

/-! ### The matrix node (R282 to R284) -/

/-- A matrix node as a node to be placed: R68 with MATRIX set and no registers or scratch. -/
def Node.asMatrix (n : Node) : Node :=
  { n with matrix := true, width := 0, regs := 0, pscr := 0, sscr := 0, split := 0, l1mode := 0, maxwaves := 0, prologue := 0 }

/-- MATRIX NODE BATCH (R282): a batch is taken on an ashlar with a free context, its array, which an unused node gives up for it,
and its energy; the node is resident there from its first batch on, so that the array stays bound to it (R69). -/
def execMatrixNodeBatch (s : State) : Out :=
  let i := s.evt.b
  let d := s.evt.c
  let a := s.evt.d
  match s.run? s.evt.a with
  | none => .next s
  | some r => match r.node? i with
    | none => .next s
    | some n =>
      let want : Want := { run := r.id, n := i, node := n.asMatrix, die := d, token := instToken r.id (2 * i + d) (none, none) }
      let s0 := s.giveUp want a
      if !n.isFixed 5 || r.cancelling || 2 ≤ d || 128 ≤ a || dieOf a != d || !(s.ashlar a).mlp.isEmpty || (r.inst i d).queued == 0
          || !(s0.failedSteps want a).isEmpty then .next s
      else match s0.reserveEdges r n d false with
        | none => .next s
        | some (s1, resv) => match s1.run? r.id with
          | none => .next s
          | some r1 => match s1.takeBatch r1 n i d resv with
            | (s2, some b) =>
              let s3 := if (s2.residency? a r.id i).isSome then s2 else s2.makeResident a r.id i n.asMatrix 0 true
              .next (s3.modAshlar a fun x => { x.leave s.now with mlp := x.mlp ++ [b] })
            | (s2, none) => .next s2

/-- Element n of a layer (R283): K inputs, their bytes, or the address at which a read fails. -/
def State.layerElement (s : State) (r : Run) (cfmt k : Nat) (l : Layer) (ofmt : Nat) (acts : List Byte) (n : Nat) : Nat ⊕ Nat :=
  let len := (chunkLen cfmt l.wfmt).getD 32
  let kch := (k + len - 1) / len
  let plane := fun j => l.waddr + (n / 64 * kch + j) * 4096
  let bias := l.baddr + 4 * n
  match (List.range kch).findSome? fun j => s.unitFail r.slot (plane j) 4096 false with
  | some a => .inl a
  | none => match if l.baddr = 0 then none else s.unitFail r.slot bias 4 false with
    | some a => .inl a
    | none =>
      let c := (List.range kch).foldl (fun c j =>
        accumulate c (chunkSum cfmt l.wfmt len (k - j * len) ((acts.drop (64 * j)).take 64) (s.readCode r.id unitTlb r.slot (plane j) 4096)
          (n % 64) fun _ => some 0)) 0
      .inr (finishElement c (if l.baddr = 0 then none else some (ofBytes (s.readCode r.id unitTlb r.slot bias 4))) l.epi ofmt)

/-- The packed results of a layer. -/
def State.layerOut (s : State) (r : Run) (cfmt k : Nat) (l : Layer) (ofmt : Nat) (acts : List Byte) : Nat ⊕ List Byte :=
  let xs := (List.range l.n).foldl (fun (acc : Nat ⊕ List Nat) n => match acc with
    | .inl a => .inl a
    | .inr ys => match s.layerElement r cfmt k l ofmt acts n with
      | .inl a => .inl a
      | .inr x => .inr (x :: ys)) (.inr [])
  match xs with
  | .inl a => .inl a
  | .inr ys => .inr (packElems (codeBits ofmt) ys.reverse)

/-- The layers of a network in turn from K inputs. -/
def State.netOut (s : State) (r : Run) (w : Network) (k : Nat) (acts : List Byte) : List Layer → Nat ⊕ List Byte
  | [] => .inr acts
  | l :: ls => match s.layerOut r w.cfmt k l (if ls.isEmpty then w.outfmt else w.cfmt) acts with
    | .inl a => .inl a
    | .inr out => s.netOut r w l.n out ls

/-- Addresses and lengths of the planes and biases that layers read, from K inputs. -/
def netReads (w : Network) (k : Nat) : List Layer → List (Nat × Nat)
  | [] => []
  | l :: ls =>
    let len := (chunkLen w.cfmt l.wfmt).getD 32
    (l.waddr, (l.n + 63) / 64 * ((k + len - 1) / len) * 4096) :: (l.baddr, if l.baddr = 0 then 0 else 4 * l.n) :: netReads w l.n ls

/-- The network of a matrix node, with the state in which its pages are marked, or the address at which reading it fails. -/
def State.readNet (s : State) (src : Nat) (r : Run) (va : Nat) : Nat ⊕ (State × Network) :=
  match s.fixedRead src r va 64 with
  | .inl a => .inl a
  | .inr (_, h) => match s.fixedRead src r va (networkBytes (field h 0 1)) with
    | .inl a => .inl a
    | .inr (t, b) => .inr (t, networkOf b)

/-- The result record of an input record (R284). -/
def resultRecord (w : Network) (size : Nat) (rec_ out : List Byte) : List Byte :=
  let base := (rec_.take w.copy ++ List.replicate (size - min w.copy rec_.length) 0).take size
  base.take w.outoff ++ out ++ base.drop (w.outoff + out.length)

/-- MATRIX NODE RESULT (R283, R284): the oldest record of a batch passes the network and its result is appended. -/
def execMatrixNodeResult (s : State) : Out :=
  let a := s.evt.a
  let free := fun (s : State) => s.modAshlar a fun x => { x with mlp := x.mlp.tail, idleSince := s.now }
  match (s.ashlar a).mlp with
  | [] => .next s
  | b :: rest => match s.batchNode b, b.recs with
    | some (r, n), q :: _ => match s.readNet (courseSrc (courseOf a)) r n.fixparam with
      | .inl x => .next (s.fixedFault r.id b.node x)
      | .inr (s, w) =>
        match s.netOut r w w.inputs (q.bytes.drop w.inoff) w.layers with
        | .inl x => .next (s.fixedFault r.id b.node x)
        | .inr out =>
          let size := ((r.node? (n.edge 0).target).map (·.recsize)).getD 0
          let s0 := s.touchAll (courseSrc (courseOf a)) r.slot (netReads w w.inputs w.layers)
          let (s1, b1) := s0.batchResult r n b 0 (resultRecord w size q.bytes out)
          if b1.recs.isEmpty then .next (free (s1.batchEnd n b1))
          else .next (s1.modAshlar a fun x => { x with mlp := b1 :: rest })
    | _, _ => .next (free s)

end Sys2Proof.Machine
end

