-- ==== Sys2Proof/Machine/VectorInt.lean ====
section
/-! DEFINITION. Vector integer, predicate, move, cross-lane and indirect instructions
(spec 09_isa_vector.md R200 to R206): one meaning per instruction. -/

namespace Sys2Proof.Machine

/-- An integer operation of format VV (R200): a, c and the old d. -/
def vecInt (s : State) (d a : VR) (b : B8) (p : PR) (op : Word → Word → Word → Word) : Out :=
  issue s { pr := p, regs := regsVV d a b } fun x m =>
    x.mapI m d fun l => op (x.vr l a) (x.b8 b l) (x.vr l d)

/-- An integer operation of one source (R201). -/
def vecInt1 (s : State) (d a : VR) (p : PR) (op : Word → Word) : Out :=
  issue s { pr := p, regs := regsV [d, a] } fun x m => x.mapI m d fun l => op (x.vr l a)

/-- The low five bits as a shift amount. -/
def amt (c : Word) : Nat := c.toNat % 32

/-- Number of set bits among the low n. -/
def popCount {n : Nat} (x : BitVec n) : Nat := sumBy (fun i => if x.getLsbD i then 1 else 0) (List.range n)

/-- Leading zeros of n bits. -/
def clz {n : Nat} (x : BitVec n) : Nat := if x.toNat = 0 then n else n - 1 - Nat.log2 x.toNat

/-- Trailing zeros of n bits; n for zero. -/
def ctz {n : Nat} (x : BitVec n) : Nat := ((List.range n).find? fun i => x.getLsbD i).getD n

/-- Width of a BFE or BFI field: min(c[13:8], 32 − o) (Table 9-9). -/
def bfWidth (c : Word) : Nat := min (c.toNat / 256 % 64) (32 - amt c)

/-- BFE's extraction (Table 9-9). -/
def bfExtract (a c : Word) : Word :=
  let w := bfWidth c
  let f := a.toNat / 2 ^ amt c % 2 ^ w
  if c.getLsbD 15 && w != 0 && f / 2 ^ (w - 1) % 2 == 1 then BitVec.ofNat 32 (f + 2 ^ 32 - 2 ^ w)
  else BitVec.ofNat 32 f

/-- BFI's insertion (Table 9-9). -/
def bfInsert (d a c : Word) : Word :=
  let m : Word := BitVec.ofNat 32 ((2 ^ bfWidth c - 1) * 2 ^ amt c)
  (d &&& ~~~m) ||| ((a <<< amt c) &&& m)

/-- Signed byte i of a word. -/
def sbyteOf (x : Word) (i : Nat) : Int := (BitVec.ofNat 8 (x.toNat / 2 ^ (8 * i))).toInt

/-- IDOT4's sum (Table 9-9). -/
def dot4 (a c d : Word) : Word :=
  BitVec.ofInt 32 (d.toInt + sbyteOf a 0 * sbyteOf c 0 + sbyteOf a 1 * sbyteOf c 1
    + sbyteOf a 2 * sbyteOf c 2 + sbyteOf a 3 * sbyteOf c 3)

/-- Bit i becomes bit 31 − i. -/
def bitRev (a : Word) : Word :=
  BitVec.ofNat 32 (sumBy (fun i => if a.getLsbD i then 2 ^ (31 - i) else 0) (List.range 32))

/-- Byte i becomes byte 3 − i. -/
def byteSwap (a : Word) : Word := BitVec.ofNat 32 (ofBytes (toBytes 4 a.toNat).reverse)

/-- IADD (R200). -/
def execIadd (d a : VR) (b : B8) (p : PR) (s : State) : Out :=
  vecInt s d a b p fun a c _ => a + c

/-- ISUB (R200). -/
def execIsub (d a : VR) (b : B8) (p : PR) (s : State) : Out :=
  vecInt s d a b p fun a c _ => a - c

/-- IMUL (R200). -/
def execImul (d a : VR) (b : B8) (p : PR) (s : State) : Out :=
  vecInt s d a b p fun a c _ => a * c

/-- IMULHI (R200): bits 63:32 of the signed product. -/
def execImulhi (d a : VR) (b : B8) (p : PR) (s : State) : Out :=
  vecInt s d a b p fun a c _ => BitVec.ofInt 32 (a.toInt * c.toInt / 2 ^ 32)

/-- UMULHI (R200): bits 63:32 of the unsigned product. -/
def execUmulhi (d a : VR) (b : B8) (p : PR) (s : State) : Out :=
  vecInt s d a b p fun a c _ => BitVec.ofNat 32 (a.toNat * c.toNat / 2 ^ 32)

/-- IMAD (R200). -/
def execImad (d a : VR) (b : B8) (p : PR) (s : State) : Out :=
  vecInt s d a b p fun a c d => a * c + d

/-- IMIN (R200). -/
def execImin (d a : VR) (b : B8) (p : PR) (s : State) : Out :=
  vecInt s d a b p fun a c _ => if a.slt c then a else c

/-- IMAX (R200). -/
def execImax (d a : VR) (b : B8) (p : PR) (s : State) : Out :=
  vecInt s d a b p fun a c _ => if a.slt c then c else a

/-- UMIN (R200). -/
def execUmin (d a : VR) (b : B8) (p : PR) (s : State) : Out :=
  vecInt s d a b p fun a c _ => if a.ult c then a else c

/-- UMAX (R200). -/
def execUmax (d a : VR) (b : B8) (p : PR) (s : State) : Out :=
  vecInt s d a b p fun a c _ => if a.ult c then c else a

/-- AND (R200). -/
def execVand (d a : VR) (b : B8) (p : PR) (s : State) : Out :=
  vecInt s d a b p fun a c _ => a &&& c

/-- OR (R200). -/
def execVor (d a : VR) (b : B8) (p : PR) (s : State) : Out :=
  vecInt s d a b p fun a c _ => a ||| c

/-- XOR (R200). -/
def execVxor (d a : VR) (b : B8) (p : PR) (s : State) : Out :=
  vecInt s d a b p fun a c _ => a ^^^ c

/-- ANDN (R200). -/
def execAndn (d a : VR) (b : B8) (p : PR) (s : State) : Out :=
  vecInt s d a b p fun a c _ => a &&& ~~~c

/-- SHL (R200): by c[4:0]. -/
def execShl (d a : VR) (b : B8) (p : PR) (s : State) : Out :=
  vecInt s d a b p fun a c _ => a <<< amt c

/-- SHR (R200): logical, by c[4:0]. -/
def execShr (d a : VR) (b : B8) (p : PR) (s : State) : Out :=
  vecInt s d a b p fun a c _ => a >>> amt c

/-- SAR (R200): arithmetic, by c[4:0]. -/
def execSar (d a : VR) (b : B8) (p : PR) (s : State) : Out :=
  vecInt s d a b p fun a c _ => a.sshiftRight (amt c)

/-- BFE (R200). -/
def execBfe (d a : VR) (b : B8) (p : PR) (s : State) : Out :=
  vecInt s d a b p fun a c _ => bfExtract a c

/-- BFI (R200). -/
def execBfi (d a : VR) (b : B8) (p : PR) (s : State) : Out :=
  vecInt s d a b p fun a c d => bfInsert d a c

/-- IDOT4 (R200). -/
def execIdot4 (d a : VR) (b : B8) (p : PR) (s : State) : Out :=
  vecInt s d a b p fun a c d => dot4 a c d

/-- IADDI (R201): the immediate sign-extended. -/
def execIaddi (d a : VR) (i : B8) (p : PR) (s : State) : Out :=
  vecInt1 s d a p fun x => x + i.signExtend 32

/-- ANDI (R201): the immediate zero-extended. -/
def execAndi (d a : VR) (i : B8) (p : PR) (s : State) : Out :=
  vecInt1 s d a p fun x => x &&& i.setWidth 32

/-- SHLI (R201). -/
def execShli (d a : VR) (n : BitVec 5) (p : PR) (s : State) : Out := vecInt1 s d a p fun x => x <<< n.toNat

/-- SHRI (R201). -/
def execShri (d a : VR) (n : BitVec 5) (p : PR) (s : State) : Out := vecInt1 s d a p fun x => x >>> n.toNat

/-- SARI (R201). -/
def execSari (d a : VR) (n : BitVec 5) (p : PR) (s : State) : Out := vecInt1 s d a p fun x => x.sshiftRight n.toNat

/-- ROTRI (R201). -/
def execRotri (d a : VR) (n : BitVec 5) (p : PR) (s : State) : Out := vecInt1 s d a p fun x => x.rotateRight n.toNat

/-- POPC (R201). -/
def execPopc (d a : VR) (p : PR) (s : State) : Out := vecInt1 s d a p fun x => BitVec.ofNat 32 (popCount x)

/-- CLZ (R201): 32 for zero. -/
def execClz (d a : VR) (p : PR) (s : State) : Out := vecInt1 s d a p fun x => BitVec.ofNat 32 (clz x)

/-- CTZ (R201): 32 for zero. -/
def execCtz (d a : VR) (p : PR) (s : State) : Out := vecInt1 s d a p fun x => BitVec.ofNat 32 (ctz x)

/-- BREV (R201). -/
def execBrev (d a : VR) (p : PR) (s : State) : Out := vecInt1 s d a p bitRev

/-- IABS (R201): wrapping. -/
def execIabs (d a : VR) (p : PR) (s : State) : Out := vecInt1 s d a p fun x => if x.msb then -x else x

/-- INEG (R201): wrapping. -/
def execIneg (d a : VR) (p : PR) (s : State) : Out := vecInt1 s d a p fun x => -x

/-- BSWAP (R201). -/
def execBswap (d a : VR) (p : PR) (s : State) : Out := vecInt1 s d a p byteSwap

/-- The integer conditions of ICMP by cond4 (R197). -/
def icond (c : Nat) (a b : Word) : Bool :=
  match c with
  | 0 => a == b
  | 1 => a != b
  | 2 => a.slt b
  | 3 => a.sle b
  | 4 => b.slt a
  | 5 => b.sle a
  | 6 => a.ult b
  | 7 => a.ule b
  | 8 => b.ult a
  | _ => b.ule a

/-- ICMP (R197). -/
def execIcmp (d : PR) (c : BX) (a : VR) (b : B8) (p : PR) (s : State) : Out :=
  issue s { pr := p, regs := (a.toNat, 1) :: b8Regs b } fun x m =>
    x.mapP m d fun l => (icond c.toNat (x.vr l a) (x.b8 b l), 0)

/-- SEL (R202): every lane of the subgroup writes, the predicate selects. -/
def execSel (d a : VR) (b : B8) (p : PR) (s : State) : Out :=
  issue s { regs := regsVV d a b } fun x m =>
    x.mapI m d fun l => if x.w.pred l p.toNat then x.vr l a else x.b8 b l

/-- A predicate operation (R203) in each lane of Active. -/
def predOp (s : State) (d p : PR) (op : Ctx → Mask → Nat → Bool) : Out :=
  issue s { pr := p } fun x m => x.mapP m d fun l => (op x m l, 0)

/-- P(n) of a lane. -/
def Ctx.pr (x : Ctx) (l : Nat) (n : PR) : Bool := x.w.pred l n.toNat

/-- PAND (R203). -/
def execPand (d a b p : PR) (s : State) : Out :=
  predOp s d p fun x _ l => x.pr l a && x.pr l b

/-- POR (R203). -/
def execPor (d a b p : PR) (s : State) : Out :=
  predOp s d p fun x _ l => x.pr l a || x.pr l b

/-- PXOR (R203). -/
def execPxor (d a b p : PR) (s : State) : Out :=
  predOp s d p fun x _ l => x.pr l a != x.pr l b

/-- PNOT (R203). -/
def execPnot (d a p : PR) (s : State) : Out :=
  predOp s d p fun x _ l => !x.pr l a

/-- PMOV (R203). -/
def execPmov (d a p : PR) (s : State) : Out :=
  predOp s d p fun x _ l => x.pr l a

/-- PSET (R203). -/
def execPset (d p : PR) (s : State) : Out :=
  predOp s d p fun _ _ _ => true

/-- PCLR (R203). -/
def execPclr (d p : PR) (s : State) : Out :=
  predOp s d p fun _ _ _ => false

/-- PLEADER (R203): true in the lowest lane of Active in which P(pa) holds. -/
def execPleader (d a p : PR) (s : State) : Out :=
  predOp s d p fun x m l => x.pr l a && !((lanesOf m).any fun k => decide (k < l) && x.pr k a)

/-- VMOV (R204): moves bits. -/
def execVmov (d : VR) (b : B8) (p : PR) (s : State) : Out :=
  issue s { pr := p, regs := (d.toNat, 1) :: b8Regs b } fun x m => x.mapI m d fun l => x.b8 b l

/-- VSHFL (R204): lane B(L) AND (W − 1) of va, whatever its state; a filed lane reads as zero. -/
def execVshfl (d a : VR) (b : B8) (p : PR) (s : State) : Out :=
  issue s { pr := p, regs := regsVV d a b } fun x m =>
    x.mapI m d fun l => x.vr ((x.b8 b l).toNat % x.w.width) a

/-- LANEID (R205). -/
def execLaneid (d : VR) (p : PR) (s : State) : Out :=
  issue s { pr := p, regs := regsV [d] } fun x m => x.mapI m d fun l => BitVec.ofNat 32 l

/-- RED.ADD (R205): the wrapped sum over Active, in every lane of Active. -/
def execRedAdd (d a : VR) (p : PR) (s : State) : Out :=
  issue s { pr := p, regs := regsV [d, a] } fun x m =>
    let t : Word := (lanesOf m).foldl (fun z l => z + x.vr l a) 0
    x.mapI m d fun _ => t

/-- One level of the tree of R141: neighbours combined, a value with an absent partner passed up. -/
def treeLevel (op : Nat → Nat → Nat × Flags) : List (Option Nat) → List (Option Nat) × Flags
  | [] => ([], 0)
  | [y] => ([y], 0)
  | y :: z :: t =>
    let (r, g) := treeLevel op t
    match y, z with
    | some u, some v => let (k, h) := op u v; (some k :: r, g ||| h)
    | some u, none => (some u :: r, g)
    | none, v => (v :: r, g)

/-- The tree of R141 over 2^n leaves; none when every leaf is absent. -/
def tree (op : Nat → Nat → Nat × Flags) : Nat → List (Option Nat) → Option Nat × Flags
  | 0, l => (l.headD none, 0)
  | n + 1, l =>
    let (u, g) := treeLevel op l
    let (r, h) := tree op n u
    (r, g ||| h)

/-- A float reduction over Active by the tree of R141, each element reduced in its own format. -/
def floatReduce (x : Ctx) (m : Mask) (a : VR) (op : Nat → Nat → Nat × Flags) : Word × Flags :=
  perEl x.fmt fun e =>
    let leaves := (List.range 64).map fun l => if laneBit m l then some (el x.fmt (x.vr l a) e) else none
    let (r, g) := tree op 6 leaves
    (r.getD 0, g)

/-- RED.FADD (R141, R205): +0 where no lane is Active; flags that trap fault every lane of Active. -/
def execRedFadd (d a : VR) (p : PR) (s : State) : Out :=
  issue s { pr := p, regs := regsV [d, a] } fun x m =>
    let r := floatReduce x m a fun u v => x.fmt.add x.rm x.c.hdr.fz false u v
    x.mapV m d fun _ => r

/-- RED.MIN and RED.MAX (R205): signed, unsigned or float of VT by aux3. -/
def redMinMax (s : State) (d a : VR) (k p : PR) (isMax : Bool) : Out :=
  issue s { pr := p, regs := regsV [d, a] } fun x m =>
    if k.toNat = 2 then
      let r := floatReduce x m a fun u v => x.fmt.minmax x.c.hdr.fz isMax u v
      x.mapV m d fun _ => r
    else
      let less := fun (u v : Word) => if k.toNat = 0 then u.slt v else u.ult v
      let t := (lanesOf m).foldl (fun z l =>
        let y := x.vr l a
        if less y z != isMax then y else z) (x.vr (leader m) a)
      x.mapI m d fun _ => t

/-- RED.MIN (R205). -/
def execRedMin (d a : VR) (x p : PR) (s : State) : Out := redMinMax s d a x p false

/-- RED.MAX (R205). -/
def execRedMax (d a : VR) (x p : PR) (s : State) : Out := redMinMax s d a x p true

/-- SCAN.ADD (R205): inclusive, or exclusive with aux3 1. -/
def execScanAdd (d a : VR) (k p : PR) (s : State) : Out :=
  issue s { pr := p, regs := regsV [d, a] } fun x m =>
    x.mapI m d fun l =>
      (lanesOf m).foldl (fun z j => if j < l || (k = 0 && j == l) then z + x.vr j a else z) 0

/-- BALLOT (R205): lanes 0 to 31, or 32 to 63 with aux3 1. -/
def execBallot (d a : VR) (k p : PR) (s : State) : Out :=
  issue s { pr := p, regs := regsV [d, a] } fun x m =>
    let full := maskOf ((lanesOf m).filter fun l => x.vr l a != 0)
    let r : Word := (full >>> (32 * k.toNat)).setWidth 32
    x.mapI m d fun _ => r

/-- BCAST (R205): the leader's value. -/
def execBcast (d a : VR) (p : PR) (s : State) : Out :=
  issue s { pr := p, regs := regsV [d, a] } fun x m =>
    let r := x.vr (leader m) a
    x.mapI m d fun _ => r

/-- The computed register of VRDI and VWRI (R206). -/
def Ctx.indexOf (x : Ctx) (a : VR) (i : B8) (l : Nat) : Nat := (x.vr l a).toNat + i.toNat

/-- Lanes whose computed register is at or beyond REGS fault alone (R206). -/
def Ctx.indexFaults (x : Ctx) (m : Mask) (a : VR) (i : B8) : List LaneFault :=
  ((lanesOf m).filter fun l => decide (x.w.regs ≤ x.indexOf a i l)).map fun l => { lane := l, cls := cRegIndex }

/-- VRDI (R206): reads the register a per-lane index names. -/
def execVrdi (d a : VR) (i : B8) (p : PR) (s : State) : Out :=
  issue s { pr := p, regs := regsV [d, a] } fun x m =>
    let good := (lanesOf m).filter fun l => decide (x.indexOf a i l < x.w.regs)
    (x.puts (good.map fun l => .vreg l d.toNat (x.w.vreg l (x.indexOf a i l)))).raise m (x.indexFaults m a i)

/-- VWRI (R206): writes vd into the register a per-lane index names. -/
def execVwri (d a : VR) (i : B8) (p : PR) (s : State) : Out :=
  issue s { pr := p, regs := regsV [d, a] } fun x m =>
    let good := (lanesOf m).filter fun l => decide (x.indexOf a i l < x.w.regs)
    (x.puts (good.map fun l => .vreg l (x.indexOf a i l) (x.vr l d))).raise m (x.indexFaults m a i)

end Sys2Proof.Machine
end

