-- ==== Sys2Proof/Machine/Scalar.lean ====
section
/-! DEFINITION. Scalar arithmetic, comparison, float and constant instructions
(spec 08_isa_scalar_flow.md R172 to R176): one meaning per instruction. -/

namespace Sys2Proof.Machine

/-- A fixed-latency scalar operation (R172, R173): acts once, and a control thread may execute it. -/
def scalarOp (s : State) (d : SR) (f : Ctx → DWord) : Out :=
  issue s { ct := true } fun x _ => x.put (.sreg d.toNat (f x))

/-- A binary SALU or SCMP operation of a = s[sa] and b = SS. -/
def scalarBin (s : State) (d a : SR) (b : B8) (op : DWord → DWord → DWord) : Out :=
  scalarOp s d fun x => op (x.sr a) (x.ss b)

/-- A unary operation of SS. -/
def scalarUn (s : State) (d : SR) (b : B8) (op : DWord → DWord) : Out := scalarOp s d fun x => op (x.ss b)

/-- A shift amount b[5:0]. -/
def amt64 (b : DWord) : Nat := b.toNat % 64

/-- SBFE's field (Table 8-3). -/
def sbfField (a b : DWord) : DWord :=
  let o := amt64 b
  let w := min (b.toNat / 256 % 128) (64 - o)
  BitVec.ofNat 64 (a.toNat / 2 ^ o % 2 ^ w)

/-- SADD (R173). -/
def execSadd (d a : SR) (b : B8) (s : State) : Out := scalarBin s d a b fun a b => a + b

/-- SSUB (R173). -/
def execSsub (d a : SR) (b : B8) (s : State) : Out := scalarBin s d a b fun a b => a - b

/-- SMUL (R173): low 64 bits. -/
def execSmul (d a : SR) (b : B8) (s : State) : Out := scalarBin s d a b fun a b => a * b

/-- SMULHI (R173): bits 127:64 of the signed product. -/
def execSmulhi (d a : SR) (b : B8) (s : State) : Out := scalarBin s d a b fun a b => BitVec.ofInt 64 (a.toInt * b.toInt / 2 ^ 64)

/-- SUMULHI (R173): bits 127:64 of the unsigned product. -/
def execSumulhi (d a : SR) (b : B8) (s : State) : Out := scalarBin s d a b fun a b => BitVec.ofNat 64 (a.toNat * b.toNat / 2 ^ 64)

/-- SAND (R173). -/
def execSand (d a : SR) (b : B8) (s : State) : Out := scalarBin s d a b fun a b => a &&& b

/-- SOR (R173). -/
def execSor (d a : SR) (b : B8) (s : State) : Out := scalarBin s d a b fun a b => a ||| b

/-- SXOR (R173). -/
def execSxor (d a : SR) (b : B8) (s : State) : Out := scalarBin s d a b fun a b => a ^^^ b

/-- SANDN (R173). -/
def execSandn (d a : SR) (b : B8) (s : State) : Out := scalarBin s d a b fun a b => a &&& ~~~b

/-- SSHL (R173). -/
def execSshl (d a : SR) (b : B8) (s : State) : Out := scalarBin s d a b fun a b => a <<< amt64 b

/-- SSHR (R173). -/
def execSshr (d a : SR) (b : B8) (s : State) : Out := scalarBin s d a b fun a b => a >>> amt64 b

/-- SSAR (R173). -/
def execSsar (d a : SR) (b : B8) (s : State) : Out := scalarBin s d a b fun a b => a.sshiftRight (amt64 b)

/-- SMIN (R173). -/
def execSmin (d a : SR) (b : B8) (s : State) : Out := scalarBin s d a b fun a b => if a.slt b then a else b

/-- SMAX (R173). -/
def execSmax (d a : SR) (b : B8) (s : State) : Out := scalarBin s d a b fun a b => if a.slt b then b else a

/-- SUMIN (R173). -/
def execSumin (d a : SR) (b : B8) (s : State) : Out := scalarBin s d a b fun a b => if a.ult b then a else b

/-- SUMAX (R173). -/
def execSumax (d a : SR) (b : B8) (s : State) : Out := scalarBin s d a b fun a b => if a.ult b then b else a

/-- SMOV (R173). -/
def execSmov (d : SR) (b : B8) (s : State) : Out := scalarUn s d b fun b => b

/-- SNOT (R173). -/
def execSnot (d : SR) (b : B8) (s : State) : Out := scalarUn s d b fun b => ~~~b

/-- SCLZ (R173): 64 for zero. -/
def execSclz (d : SR) (b : B8) (s : State) : Out := scalarUn s d b fun b => BitVec.ofNat 64 (clz b)

/-- SCTZ (R173): 64 for zero. -/
def execSctz (d : SR) (b : B8) (s : State) : Out := scalarUn s d b fun b => BitVec.ofNat 64 (ctz b)

/-- SPOPC (R173). -/
def execSpopc (d : SR) (b : B8) (s : State) : Out := scalarUn s d b fun b => BitVec.ofNat 64 (popCount b)

/-- SBFE (R173). -/
def execSbfe (d a : SR) (b : B8) (s : State) : Out := scalarBin s d a b sbfField

/-- SSEXT32 (R173). -/
def execSsext32 (d : SR) (b : B8) (s : State) : Out := scalarUn s d b fun b => (b.setWidth 32).signExtend 64

/-- SZEXT32 (R173). -/
def execSzext32 (d : SR) (b : B8) (s : State) : Out := scalarUn s d b fun b => (b.setWidth 32).setWidth 64

/-- A division (R174): variable latency, the result written when it arrives. -/
def scalarDiv (s : State) (d a : SR) (b : B8) (op : DWord → DWord → DWord) : Out :=
  issue s { ct := true } fun x m =>
    (x.newOp m .ready [(leader m, .sreg d.toNat (op (x.sr a) (x.ss b)))]).1

/-- Signed quotient, truncated towards zero, with the edge cases of Table 8-4. -/
def sdivRes (a b : DWord) : DWord := if b = 0 then ~~~0 else BitVec.ofInt 64 (a.toInt.tdiv b.toInt)
/-- Signed remainder with the sign of the dividend. -/
def sremRes (a b : DWord) : DWord := if b = 0 then a else BitVec.ofInt 64 (a.toInt.tmod b.toInt)
/-- Unsigned quotient. -/
def udivRes (a b : DWord) : DWord := if b = 0 then ~~~0 else BitVec.ofNat 64 (a.toNat / b.toNat)
/-- Unsigned remainder. -/
def uremRes (a b : DWord) : DWord := if b = 0 then a else BitVec.ofNat 64 (a.toNat % b.toNat)

/-- SDIV (R174). -/
def execSdiv (d a : SR) (b : B8) (s : State) : Out := scalarDiv s d a b sdivRes
/-- SDIVU (R174). -/
def execSdivu (d a : SR) (b : B8) (s : State) : Out := scalarDiv s d a b udivRes
/-- SREM (R174). -/
def execSrem (d a : SR) (b : B8) (s : State) : Out := scalarDiv s d a b sremRes
/-- SREMU (R174). -/
def execSremu (d a : SR) (b : B8) (s : State) : Out := scalarDiv s d a b uremRes

/-- SEQ (R173). -/
def execSseq (d a : SR) (b : B8) (s : State) : Out := scalarBin s d a b fun a b => flag64 (a == b)

/-- SNE (R173). -/
def execSne (d a : SR) (b : B8) (s : State) : Out := scalarBin s d a b fun a b => flag64 (a != b)

/-- SLT (R173). -/
def execSlt (d a : SR) (b : B8) (s : State) : Out := scalarBin s d a b fun a b => flag64 (a.slt b)

/-- SLE (R173). -/
def execSle (d a : SR) (b : B8) (s : State) : Out := scalarBin s d a b fun a b => flag64 (a.sle b)

/-- SLTU (R173). -/
def execSltu (d a : SR) (b : B8) (s : State) : Out := scalarBin s d a b fun a b => flag64 (a.ult b)

/-- SLEU (R173). -/
def execSleu (d a : SR) (b : B8) (s : State) : Out := scalarBin s d a b fun a b => flag64 (a.ule b)

/-- SSEL (R173): a where the old s[sd] is not zero, otherwise b. -/
def execSsel (d a : SR) (b : B8) (s : State) : Out :=
  scalarOp s d fun x => if x.sr d = 0 then x.ss b else x.sr a

/-- SBYTE (R176): s[sd] shifted left 8 with the raw byte. -/
def execSbyte (d : SR) (b : B8) (s : State) : Out :=
  scalarOp s d fun x => (x.sr d <<< 8) ||| b.setWidth 64

/-- A scalar float operation on the low words of a, SS and the old sd (R175). -/
def scalarFloat (s : State) (d a : SR) (b : B8) (op : Rm → Bool → Nat → Nat → Nat → Nat × Flags) : Out :=
  issue s { ct := true } fun x _ =>
    let low := fun (y : DWord) => y.toNat % 2 ^ 32
    let (r, g) := op x.rm x.c.hdr.fz (low (x.sr a)) (low (x.ss b)) (low (x.sr d))
    x.finishS d (BitVec.ofNat 64 r) g

/-- The same for one operand, SS. -/
def scalarFloat1 (s : State) (d : SR) (b : B8) (op : Rm → Bool → Nat → Nat × Flags) : Out :=
  issue s { ct := true } fun x _ =>
    let (r, g) := op x.rm x.c.hdr.fz ((x.ss b).toNat % 2 ^ 32)
    x.finishS d (BitVec.ofNat 64 r) g

/-- SFADD (R175). -/
def execSfadd (d a : SR) (b : B8) (s : State) : Out := scalarFloat s d a b fun rm fz a c _ => Fmt.f32.add rm fz false a c

/-- SFSUB (R175). -/
def execSfsub (d a : SR) (b : B8) (s : State) : Out := scalarFloat s d a b fun rm fz a c _ => Fmt.f32.add rm fz true a c

/-- SFMUL (R175). -/
def execSfmul (d a : SR) (b : B8) (s : State) : Out := scalarFloat s d a b fun rm fz a c _ => Fmt.f32.mul rm fz a c

/-- SFFMA (R175): one rounding. -/
def execSffma (d a : SR) (b : B8) (s : State) : Out := scalarFloat s d a b fun rm fz a c d => Fmt.f32.fma rm fz false a c d

/-- SFMIN (R175). -/
def execSfmin (d a : SR) (b : B8) (s : State) : Out := scalarFloat s d a b fun _ fz a c _ => Fmt.f32.minmax fz false a c

/-- SFMAX (R175). -/
def execSfmax (d a : SR) (b : B8) (s : State) : Out := scalarFloat s d a b fun _ fz a c _ => Fmt.f32.minmax fz true a c

/-- SFLT (R175): a NaN gives 0 and NV. -/
def execSflt (d a : SR) (b : B8) (s : State) : Out := scalarFloat s d a b fun _ fz a c _ => let (r, g) := Fmt.f32.compare fz 2 a c; (if r then 1 else 0, g)

/-- SFEQ (R175): a NaN gives 0, NV only when signalling. -/
def execSfeq (d a : SR) (b : B8) (s : State) : Out := scalarFloat s d a b fun _ fz a c _ => let (r, g) := Fmt.f32.compare fz 0 a c; (if r then 1 else 0, g)

/-- SFCVTFI (R140, R175): F32 to I32 without SAT, sign-extended. -/
def execSfcvtfi (d : SR) (b : B8) (s : State) : Out :=
  scalarFloat1 s d b fun rm fz x =>
    let (r, g) := convToInt true rm fz false x
    (((BitVec.ofNat 32 r).signExtend 64).toNat, g)

/-- SFCVTIF (R175): B read as I32. -/
def execSfcvtif (d : SR) (b : B8) (s : State) : Out := scalarFloat1 s d b fun rm _ x => convFromInt true rm x

/-- SFRCP (R134, R175). -/
def execSfrcp (d : SR) (b : B8) (s : State) : Out := scalarFloat1 s d b fun rm fz x => Sfu.rcp.f32 rm fz x

end Sys2Proof.Machine
end

