-- ==== Sys2Proof/Machine/VectorFloat.lean ====
section
/-! DEFINITION. Vector float instructions (spec 09_isa_vector.md R193 to R199): one meaning per
instruction over shared element-wise operations. -/

namespace Sys2Proof.Machine

/-- A float operation of format VV, element by element (R193): a, c and the old d. -/
def vecFloat (s : State) (d a : VR) (b : B8) (p : PR)
    (op : Fmt → Rm → Bool → Nat → Nat → Nat → Nat × Flags) : Out :=
  issue s { pr := p, regs := regsVV d a b } fun x m =>
    x.mapV m d fun l =>
      perEl x.fmt fun e => op x.fmt x.rm x.c.hdr.fz (el x.fmt (x.vr l a) e) (el x.fmt (x.b8 b l) e) (el x.fmt (x.vr l d) e)

/-- A unary float operation of format VU, element by element (R195, R196). -/
def vecUnary (s : State) (d a : VR) (p : PR) (op : Fmt → Rm → Bool → Nat → Nat × Flags) : Out :=
  issue s { pr := p, regs := regsV [d, a] } fun x m =>
    x.mapV m d fun l => perEl x.fmt fun e => op x.fmt x.rm x.c.hdr.fz (el x.fmt (x.vr l a) e)

/-- FADD (R193): RoundTo(T, a + c, rm). -/
def execFadd (d a : VR) (b : B8) (p : PR) (s : State) : Out :=
  vecFloat s d a b p fun f rm fz a c _ => f.add rm fz false a c

/-- FSUB (R193): RoundTo(T, a − c, rm). -/
def execFsub (d a : VR) (b : B8) (p : PR) (s : State) : Out :=
  vecFloat s d a b p fun f rm fz a c _ => f.add rm fz true a c

/-- FMUL (R193): RoundTo(T, a × c, rm). -/
def execFmul (d a : VR) (b : B8) (p : PR) (s : State) : Out :=
  vecFloat s d a b p fun f rm fz a c _ => f.mul rm fz a c

/-- FFMA (R133, R193): a × c + d with one rounding. -/
def execFfma (d a : VR) (b : B8) (p : PR) (s : State) : Out :=
  vecFloat s d a b p fun f rm fz a c d => f.fma rm fz false a c d

/-- FFNMA (R133, R193): d − a × c with one rounding. -/
def execFfnma (d a : VR) (b : B8) (p : PR) (s : State) : Out :=
  vecFloat s d a b p fun f rm fz a c d => f.fma rm fz true a c d

/-- FMIN (R132). -/
def execFmin (d a : VR) (b : B8) (p : PR) (s : State) : Out :=
  vecFloat s d a b p fun f _ fz a c _ => f.minmax fz false a c

/-- FMAX (R132). -/
def execFmax (d a : VR) (b : B8) (p : PR) (s : State) : Out :=
  vecFloat s d a b p fun f _ fz a c _ => f.minmax fz true a c

/-- FSCALE (R193): a × 2^n, n the element c as a signed integer. -/
def execFscale (d a : VR) (b : B8) (p : PR) (s : State) : Out :=
  vecFloat s d a b p fun f rm fz a c _ =>
    f.scale rm fz a (if f = .f32 then (BitVec.ofNat 32 c).toInt else (BitVec.ofNat 16 c).toInt)

/-- FCOPYSIGN (R193): a with the sign bit of c; bits only. -/
def execFcopysign (d a : VR) (b : B8) (p : PR) (s : State) : Out :=
  vecFloat s d a b p fun f _ _ a c _ => (a % f.signBit + c / f.signBit % 2 * f.signBit, 0)

/-- FDOT2 (R133, R193): a pair product sum into an F32 accumulator; VT 0 is illegal (Table 17-3). -/
def execFdot2 (d a : VR) (b : B8) (p : PR) (s : State) : Out :=
  issue s { pr := p, regs := regsVV d a b, bad := fun x => x.c.hdr.vt == 0 } fun x m =>
    x.mapV m d fun l =>
      let u := x.vr l a
      let v := x.b8 b l
      let (r, g) := x.fmt.dot2 x.rm x.c.hdr.fz (el x.fmt u 0) (el x.fmt u 1) (el x.fmt v 0) (el x.fmt v 1)
        (x.vr l d).toNat
      (BitVec.ofNat 32 r, g)

/-- CVTPK (R199): two F32 values into the clause's pair; VT 0 is illegal (Table 17-3). -/
def execCvtpk (d a : VR) (b : B8) (p : PR) (s : State) : Out :=
  issue s { pr := p, regs := regsVV d a b, bad := fun x => x.c.hdr.vt == 0 } fun x m =>
    x.mapV m d fun l =>
      let (r0, g0) := convFloat .f32 x.fmt x.rm x.c.hdr.fz false (x.vr l a).toNat
      let (r1, g1) := convFloat .f32 x.fmt x.rm x.c.hdr.fz false (x.b8 b l).toNat
      (BitVec.ofNat 32 (r0 + r1 * 2 ^ 16), g0 ||| g1)

/-- A special function (R194): variable latency; its results arrive later, and a lane whose flags trap
faults at issue. -/
def sfu (s : State) (d a : VR) (p : PR) (f : Sfu) : Out :=
  issue s { pr := p, regs := regsV [d, a] } fun x m =>
    let rs := (lanesOf m).map fun l =>
      let (y, g) := if x.fmt = .f32 then
          (let (r, g) := f.f32 x.rm x.c.hdr.fz (x.vr l a).toNat
           (BitVec.ofNat 32 r, g))
        else perEl x.fmt fun e => f.half x.fmt x.rm x.c.hdr.fz (el x.fmt (x.vr l a) e)
      (l, y, g)
    let x1 := x.modW (·.raiseFlags (rs.foldl (fun g r => g ||| r.2.2) 0))
    let good := rs.filter fun r => !x.traps r.2.2
    let bad := rs.filter fun r => x.traps r.2.2
    let lanes := maskOf (good.map (·.1))
    let x2 := if good.isEmpty then x1
      else (x1.newOp lanes .ready (good.map fun r => (r.1, Dst.vreg r.1 d.toNat r.2.1))).1
    x2.raise m (bad.map fun r => { lane := r.1, cls := cFloat, raised := r.2.2 })

/-- RCP (R134, R135, R194). -/
def execRcp (d a : VR) (p : PR) (s : State) : Out := sfu s d a p .rcp

/-- RSQ (R134, R135, R194). -/
def execRsq (d a : VR) (p : PR) (s : State) : Out := sfu s d a p .rsq

/-- SQRT (R134, R135, R194). -/
def execSqrt (d a : VR) (p : PR) (s : State) : Out := sfu s d a p .sqrt

/-- EXP2 (R134, R135, R194). -/
def execExp2 (d a : VR) (p : PR) (s : State) : Out := sfu s d a p .exp2

/-- LOG2 (R134, R135, R194). -/
def execLog2 (d a : VR) (p : PR) (s : State) : Out := sfu s d a p .log2

/-- SIN (R134, R135, R194). -/
def execSin (d a : VR) (p : PR) (s : State) : Out := sfu s d a p .sin

/-- COS (R134, R135, R194). -/
def execCos (d a : VR) (p : PR) (s : State) : Out := sfu s d a p .cos

/-- TANH (R134, R135, R194). -/
def execTanh (d a : VR) (p : PR) (s : State) : Out := sfu s d a p .tanh

/-- FLOOR (R195). -/
def execFloor (d a : VR) (p : PR) (s : State) : Out :=
  vecUnary s d a p fun f _ fz a => f.toIntegral .rdn false fz a

/-- CEIL (R195). -/
def execCeil (d a : VR) (p : PR) (s : State) : Out :=
  vecUnary s d a p fun f _ fz a => f.toIntegral .rup false fz a

/-- TRUNC (R195). -/
def execTrunc (d a : VR) (p : PR) (s : State) : Out :=
  vecUnary s d a p fun f _ fz a => f.toIntegral .rtz false fz a

/-- RINT (R195): under RM, NX when inexact. -/
def execRint (d a : VR) (p : PR) (s : State) : Out :=
  vecUnary s d a p fun f rm fz a => f.toIntegral rm true fz a

/-- FRACT (R195). -/
def execFract (d a : VR) (p : PR) (s : State) : Out :=
  vecUnary s d a p fun f _ fz a => f.fract fz a

/-- FABS (R196): sign bit 0. -/
def execFabs (d a : VR) (p : PR) (s : State) : Out :=
  vecUnary s d a p fun f _ _ a => (a % f.signBit, 0)

/-- FNEG (R196): sign bit inverted. -/
def execFneg (d a : VR) (p : PR) (s : State) : Out :=
  vecUnary s d a p fun f _ _ a => ((a + f.signBit) % (2 * f.signBit), 0)

/-- FCLASS (R196, Table 9-5). -/
def execFclass (d a : VR) (p : PR) (s : State) : Out :=
  vecUnary s d a p fun f _ _ a => (f.classify a, 0)

/-- FSAT (R196). -/
def execFsat (d a : VR) (p : PR) (s : State) : Out :=
  vecUnary s d a p fun f _ fz a => f.sat fz a

/-- FCMP (R197, Table 9-6): with a pair type true only where the condition holds for both halves. -/
def execFcmp (d : PR) (c : BX) (a : VR) (b : B8) (p : PR) (s : State) : Out :=
  issue s { pr := p, regs := (a.toNat, 1) :: b8Regs b } fun x m =>
    x.mapP m d fun l =>
      let cmp := fun e => x.fmt.compare x.c.hdr.fz c.toNat (el x.fmt (x.vr l a) e) (el x.fmt (x.b8 b l) e)
      let (r0, g0) := cmp 0
      if x.fmt = .f32 then (r0, g0)
      else
        let (r1, g1) := cmp 1
        (r0 && r1, g0 ||| g1)

/-- Width in bits of the narrow field of a conversion, and the sides that hold it (Table 9-7):
source narrow, destination narrow. -/
def cvtField (code : Nat) : Nat × Bool × Bool :=
  match code with
  | 0 | 1 => (16, false, true)
  | 2 | 3 => (16, true, false)
  | 4 | 5 | 14 | 15 | 18 => (8, false, true)
  | 6 | 7 | 16 | 17 | 19 => (8, true, false)
  | 8 => (4, false, true)
  | 9 => (4, true, false)
  | _ => (32, false, false)

/-- Place: a field of n bits at position p of a word replaced. -/
def placeField (w y n p : Nat) : Nat :=
  w % 2 ^ (n * p) + y % 2 ^ n * 2 ^ (n * p) + w / 2 ^ (n * p + n) * 2 ^ (n * p + n)

/-- CVT (R137 to R140, R198): aux bit 0 is SAT, bits [2:1] the position. -/
def execCvt (d a : VR) (c : BitVec 5) (x3 : PR) (p : PR) (s : State) : Out :=
  issue s { pr := p, regs := regsV [d, a] } fun x m =>
    x.mapV m d fun l =>
      let pos := x3.toNat / 2
      let (n, srcNarrow, dstNarrow) := cvtField c.toNat
      let v := (x.vr l a).toNat
      let src := if srcNarrow then v / 2 ^ (n * pos) % 2 ^ n else v
      let (y, g) := convert c.toNat x.rm x.c.hdr.fz (x3.getLsbD 0) src
      (BitVec.ofNat 32 (if dstNarrow then placeField (x.vr l d).toNat y n pos else y), g)

end Sys2Proof.Machine
end

