-- ==== Sys2Proof/Machine/Dispatch.lean ====
section
/-! DEFINITION. One arm per constructor of Instr: the meaning of each word and event. -/

namespace Sys2Proof.Machine

def exec (i : Instr) (s : State) : Host.Outcome State Fault Refusal :=
  match i with
  | .clauseHeader n e w s1 v r f y d => Sys2Proof.Machine.execClauseHeader n e w s1 v r f y d s
  | .fadd d a b p => Sys2Proof.Machine.execFadd d a b p s
  | .fsub d a b p => Sys2Proof.Machine.execFsub d a b p s
  | .fmul d a b p => Sys2Proof.Machine.execFmul d a b p s
  | .ffma d a b p => Sys2Proof.Machine.execFfma d a b p s
  | .ffnma d a b p => Sys2Proof.Machine.execFfnma d a b p s
  | .fmin d a b p => Sys2Proof.Machine.execFmin d a b p s
  | .fmax d a b p => Sys2Proof.Machine.execFmax d a b p s
  | .fdot2 d a b p => Sys2Proof.Machine.execFdot2 d a b p s
  | .fscale d a b p => Sys2Proof.Machine.execFscale d a b p s
  | .rcp d a p => Sys2Proof.Machine.execRcp d a p s
  | .rsq d a p => Sys2Proof.Machine.execRsq d a p s
  | .sqrt d a p => Sys2Proof.Machine.execSqrt d a p s
  | .exp2 d a p => Sys2Proof.Machine.execExp2 d a p s
  | .log2 d a p => Sys2Proof.Machine.execLog2 d a p s
  | .sin d a p => Sys2Proof.Machine.execSin d a p s
  | .cos d a p => Sys2Proof.Machine.execCos d a p s
  | .tanh d a p => Sys2Proof.Machine.execTanh d a p s
  | .floor d a p => Sys2Proof.Machine.execFloor d a p s
  | .ceil d a p => Sys2Proof.Machine.execCeil d a p s
  | .trunc d a p => Sys2Proof.Machine.execTrunc d a p s
  | .rint d a p => Sys2Proof.Machine.execRint d a p s
  | .fract d a p => Sys2Proof.Machine.execFract d a p s
  | .fcmp d c a b p => Sys2Proof.Machine.execFcmp d c a b p s
  | .fabs d a p => Sys2Proof.Machine.execFabs d a p s
  | .fneg d a p => Sys2Proof.Machine.execFneg d a p s
  | .fclass d a p => Sys2Proof.Machine.execFclass d a p s
  | .fsat d a p => Sys2Proof.Machine.execFsat d a p s
  | .fcopysign d a b p => Sys2Proof.Machine.execFcopysign d a b p s
  | .cvt d a c x p => Sys2Proof.Machine.execCvt d a c x p s
  | .cvtpk d a b p => Sys2Proof.Machine.execCvtpk d a b p s
  | .iadd d a b p => Sys2Proof.Machine.execIadd d a b p s
  | .isub d a b p => Sys2Proof.Machine.execIsub d a b p s
  | .imul d a b p => Sys2Proof.Machine.execImul d a b p s
  | .imulhi d a b p => Sys2Proof.Machine.execImulhi d a b p s
  | .umulhi d a b p => Sys2Proof.Machine.execUmulhi d a b p s
  | .imad d a b p => Sys2Proof.Machine.execImad d a b p s
  | .imin d a b p => Sys2Proof.Machine.execImin d a b p s
  | .imax d a b p => Sys2Proof.Machine.execImax d a b p s
  | .umin d a b p => Sys2Proof.Machine.execUmin d a b p s
  | .umax d a b p => Sys2Proof.Machine.execUmax d a b p s
  | .vand d a b p => Sys2Proof.Machine.execVand d a b p s
  | .vor d a b p => Sys2Proof.Machine.execVor d a b p s
  | .vxor d a b p => Sys2Proof.Machine.execVxor d a b p s
  | .andn d a b p => Sys2Proof.Machine.execAndn d a b p s
  | .shl d a b p => Sys2Proof.Machine.execShl d a b p s
  | .shr d a b p => Sys2Proof.Machine.execShr d a b p s
  | .sar d a b p => Sys2Proof.Machine.execSar d a b p s
  | .iaddi d a imm p => Sys2Proof.Machine.execIaddi d a imm p s
  | .andi d a imm p => Sys2Proof.Machine.execAndi d a imm p s
  | .shli d a n p => Sys2Proof.Machine.execShli d a n p s
  | .shri d a n p => Sys2Proof.Machine.execShri d a n p s
  | .sari d a n p => Sys2Proof.Machine.execSari d a n p s
  | .rotri d a n p => Sys2Proof.Machine.execRotri d a n p s
  | .popc d a p => Sys2Proof.Machine.execPopc d a p s
  | .clz d a p => Sys2Proof.Machine.execClz d a p s
  | .ctz d a p => Sys2Proof.Machine.execCtz d a p s
  | .brev d a p => Sys2Proof.Machine.execBrev d a p s
  | .iabs d a p => Sys2Proof.Machine.execIabs d a p s
  | .ineg d a p => Sys2Proof.Machine.execIneg d a p s
  | .bswap d a p => Sys2Proof.Machine.execBswap d a p s
  | .bfe d a b p => Sys2Proof.Machine.execBfe d a b p s
  | .bfi d a b p => Sys2Proof.Machine.execBfi d a b p s
  | .idot4 d a b p => Sys2Proof.Machine.execIdot4 d a b p s
  | .vwri d a imm p => Sys2Proof.Machine.execVwri d a imm p s
  | .icmp d c a b p => Sys2Proof.Machine.execIcmp d c a b p s
  | .sel d a b p => Sys2Proof.Machine.execSel d a b p s
  | .pand d a b p => Sys2Proof.Machine.execPand d a b p s
  | .por d a b p => Sys2Proof.Machine.execPor d a b p s
  | .pxor d a b p => Sys2Proof.Machine.execPxor d a b p s
  | .pnot d a p => Sys2Proof.Machine.execPnot d a p s
  | .pmov d a p => Sys2Proof.Machine.execPmov d a p s
  | .pset d p => Sys2Proof.Machine.execPset d p s
  | .pclr d p => Sys2Proof.Machine.execPclr d p s
  | .pleader d a p => Sys2Proof.Machine.execPleader d a p s
  | .vmov d b p => Sys2Proof.Machine.execVmov d b p s
  | .vshfl d a b p => Sys2Proof.Machine.execVshfl d a b p s
  | .laneid d p => Sys2Proof.Machine.execLaneid d p s
  | .redAdd d a p => Sys2Proof.Machine.execRedAdd d a p s
  | .redFadd d a p => Sys2Proof.Machine.execRedFadd d a p s
  | .redMin d a x p => Sys2Proof.Machine.execRedMin d a x p s
  | .redMax d a x p => Sys2Proof.Machine.execRedMax d a x p s
  | .scanAdd d a x p => Sys2Proof.Machine.execScanAdd d a x p s
  | .ballot d a x p => Sys2Proof.Machine.execBallot d a x p s
  | .bcast d a p => Sys2Proof.Machine.execBcast d a p s
  | .vrdi d a imm p => Sys2Proof.Machine.execVrdi d a imm p s
  | .ldb t b imm o p => Sys2Proof.Machine.execLdb t b imm o p s
  | .ldsb t b imm o p => Sys2Proof.Machine.execLdsb t b imm o p s
  | .ldh t b imm o p => Sys2Proof.Machine.execLdh t b imm o p s
  | .ldsh t b imm o p => Sys2Proof.Machine.execLdsh t b imm o p s
  | .ldw t b imm o p => Sys2Proof.Machine.execLdw t b imm o p s
  | .ldw2 t b imm o p => Sys2Proof.Machine.execLdw2 t b imm o p s
  | .ldw4 t b imm o p => Sys2Proof.Machine.execLdw4 t b imm o p s
  | .stb t b imm o p => Sys2Proof.Machine.execStb t b imm o p s
  | .sth t b imm o p => Sys2Proof.Machine.execSth t b imm o p s
  | .stw t b imm o p => Sys2Proof.Machine.execStw t b imm o p s
  | .stw2 t b imm o p => Sys2Proof.Machine.execStw2 t b imm o p s
  | .stw4 t b imm o p => Sys2Proof.Machine.execStw4 t b imm o p s
  | .aadd t b imm s1 x p => Sys2Proof.Machine.execAadd t b imm s1 x p s
  | .aimin t b imm s1 x p => Sys2Proof.Machine.execAimin t b imm s1 x p s
  | .aimax t b imm s1 x p => Sys2Proof.Machine.execAimax t b imm s1 x p s
  | .aumin t b imm s1 x p => Sys2Proof.Machine.execAumin t b imm s1 x p s
  | .aumax t b imm s1 x p => Sys2Proof.Machine.execAumax t b imm s1 x p s
  | .aand t b imm s1 x p => Sys2Proof.Machine.execAand t b imm s1 x p s
  | .aor t b imm s1 x p => Sys2Proof.Machine.execAor t b imm s1 x p s
  | .axor t b imm s1 x p => Sys2Proof.Machine.execAxor t b imm s1 x p s
  | .axch t b imm s1 x p => Sys2Proof.Machine.execAxch t b imm s1 x p s
  | .acas t b imm s1 x p => Sys2Proof.Machine.execAcas t b imm s1 x p s
  | .afadd t b imm s1 x p => Sys2Proof.Machine.execAfadd t b imm s1 x p s
  | .aor8w t b imm s1 x p => Sys2Proof.Machine.execAor8w t b imm s1 x p s
  | .sld t b imm s1 x p => Sys2Proof.Machine.execSld t b imm s1 x p s
  | .sst t b imm s1 x p => Sys2Proof.Machine.execSst t b imm s1 x p s
  | .fence s1 a b k => Sys2Proof.Machine.execFence s1 a b k s
  | .monitor d a b c => Sys2Proof.Machine.execMonitor d a b c s
  | .mwait d a => Sys2Proof.Machine.execMwait d a s
  | .mcancel a b => Sys2Proof.Machine.execMcancel a b s
  | .otake t k p => Sys2Proof.Machine.execOtake t k p s
  | .oenter t k p => Sys2Proof.Machine.execOenter t k p s
  | .oleave k p => Sys2Proof.Machine.execOleave k p s
  | .otry t k p => Sys2Proof.Machine.execOtry t k p s
  | .obase t k p => Sys2Proof.Machine.execObase t k p s
  | .oclose k p => Sys2Proof.Machine.execOclose k p s
  | .binit a x p => Sys2Proof.Machine.execBinit a x p s
  | .barrive a x imm p => Sys2Proof.Machine.execBarrive a x imm p s
  | .bwait a x p => Sys2Proof.Machine.execBwait a x p s
  | .bsync x p => Sys2Proof.Machine.execBsync x p s
  | .brarrive a x imm p => Sys2Proof.Machine.execBrarrive a x imm p s
  | .btest a x p => Sys2Proof.Machine.execBtest a x p s
  | .ropen a o p => Sys2Proof.Machine.execRopen a o p s
  | .rcontrib a p => Sys2Proof.Machine.execRcontrib a p s
  | .rclose a p => Sys2Proof.Machine.execRclose a p s
  | .sadd d a b => Sys2Proof.Machine.execSadd d a b s
  | .ssub d a b => Sys2Proof.Machine.execSsub d a b s
  | .smul d a b => Sys2Proof.Machine.execSmul d a b s
  | .smulhi d a b => Sys2Proof.Machine.execSmulhi d a b s
  | .sumulhi d a b => Sys2Proof.Machine.execSumulhi d a b s
  | .sand d a b => Sys2Proof.Machine.execSand d a b s
  | .sor d a b => Sys2Proof.Machine.execSor d a b s
  | .sxor d a b => Sys2Proof.Machine.execSxor d a b s
  | .sandn d a b => Sys2Proof.Machine.execSandn d a b s
  | .sshl d a b => Sys2Proof.Machine.execSshl d a b s
  | .sshr d a b => Sys2Proof.Machine.execSshr d a b s
  | .ssar d a b => Sys2Proof.Machine.execSsar d a b s
  | .smin d a b => Sys2Proof.Machine.execSmin d a b s
  | .smax d a b => Sys2Proof.Machine.execSmax d a b s
  | .sumin d a b => Sys2Proof.Machine.execSumin d a b s
  | .sumax d a b => Sys2Proof.Machine.execSumax d a b s
  | .smov d b => Sys2Proof.Machine.execSmov d b s
  | .snot d b => Sys2Proof.Machine.execSnot d b s
  | .sclz d b => Sys2Proof.Machine.execSclz d b s
  | .sctz d b => Sys2Proof.Machine.execSctz d b s
  | .spopc d b => Sys2Proof.Machine.execSpopc d b s
  | .sbfe d a b => Sys2Proof.Machine.execSbfe d a b s
  | .ssext32 d b => Sys2Proof.Machine.execSsext32 d b s
  | .szext32 d b => Sys2Proof.Machine.execSzext32 d b s
  | .sdiv d a b => Sys2Proof.Machine.execSdiv d a b s
  | .sdivu d a b => Sys2Proof.Machine.execSdivu d a b s
  | .srem d a b => Sys2Proof.Machine.execSrem d a b s
  | .sremu d a b => Sys2Proof.Machine.execSremu d a b s
  | .sseq d a b => Sys2Proof.Machine.execSseq d a b s
  | .sne d a b => Sys2Proof.Machine.execSne d a b s
  | .slt d a b => Sys2Proof.Machine.execSlt d a b s
  | .sle d a b => Sys2Proof.Machine.execSle d a b s
  | .sltu d a b => Sys2Proof.Machine.execSltu d a b s
  | .sleu d a b => Sys2Proof.Machine.execSleu d a b s
  | .ssel d a b => Sys2Proof.Machine.execSsel d a b s
  | .sldw d a b imm => Sys2Proof.Machine.execSldw d a b imm s
  | .sldd d a b imm => Sys2Proof.Machine.execSldd d a b imm s
  | .sstw d a b imm => Sys2Proof.Machine.execSstw d a b imm s
  | .sstd d a b imm => Sys2Proof.Machine.execSstd d a b imm s
  | .sldwa d a b imm => Sys2Proof.Machine.execSldwa d a b imm s
  | .sstdr d a b imm => Sys2Proof.Machine.execSstdr d a b imm s
  | .sget d n => Sys2Proof.Machine.execSget d n s
  | .sset a n => Sys2Proof.Machine.execSset a n s
  | .sreadv d a v => Sys2Proof.Machine.execSreadv d a v s
  | .sreadp d n => Sys2Proof.Machine.execSreadp d n s
  | .sfadd d a b => Sys2Proof.Machine.execSfadd d a b s
  | .sfsub d a b => Sys2Proof.Machine.execSfsub d a b s
  | .sfmul d a b => Sys2Proof.Machine.execSfmul d a b s
  | .sffma d a b => Sys2Proof.Machine.execSffma d a b s
  | .sfmin d a b => Sys2Proof.Machine.execSfmin d a b s
  | .sfmax d a b => Sys2Proof.Machine.execSfmax d a b s
  | .sfcvtfi d b => Sys2Proof.Machine.execSfcvtfi d b s
  | .sfcvtif d b => Sys2Proof.Machine.execSfcvtif d b s
  | .sflt d a b => Sys2Proof.Machine.execSflt d a b s
  | .sfeq d a b => Sys2Proof.Machine.execSfeq d a b s
  | .sfrcp d b => Sys2Proof.Machine.execSfrcp d b s
  | .sbyte d b => Sys2Proof.Machine.execSbyte d b s
  | .mldw a p => Sys2Proof.Machine.execMldw a p s
  | .mswap p => Sys2Proof.Machine.execMswap p s
  | .mstream a p => Sys2Proof.Machine.execMstream a p s
  | .mdrain p => Sys2Proof.Machine.execMdrain p s
  | .cpload a p => Sys2Proof.Machine.execCpload a p s
  | .cploadm a p => Sys2Proof.Machine.execCploadm a p s
  | .cpstore a p => Sys2Proof.Machine.execCpstore a p s
  | .cpgath a p => Sys2Proof.Machine.execCpgath a p s
  | .cpscat a p => Sys2Proof.Machine.execCpscat a p s
  | .cpcommit p => Sys2Proof.Machine.execCpcommit p s
  | .cpwait n p => Sys2Proof.Machine.execCpwait n p s
  | .qappend a e c p => Sys2Proof.Machine.execQappend a e c p s
  | .qappendl a e c p => Sys2Proof.Machine.execQappendl a e c p s
  | .qrsv a e n p => Sys2Proof.Machine.execQrsv a e n p s
  | .qflush e p => Sys2Proof.Machine.execQflush e p s
  | .qleft a e p => Sys2Proof.Machine.execQleft a e p s
  | .glaunch a p => Sys2Proof.Machine.execGlaunch a p s
  | .gcancel a p => Sys2Proof.Machine.execGcancel a p s
  | .gstatus a p => Sys2Proof.Machine.execGstatus a p s
  | .bra d p => Sys2Proof.Machine.execBra d p s
  | .braZ d s1 p => Sys2Proof.Machine.execBraZ d s1 p s
  | .braNz d s1 p => Sys2Proof.Machine.execBraNz d s1 p s
  | .braLt d s1 p => Sys2Proof.Machine.execBraLt d s1 p s
  | .braGe d s1 p => Sys2Proof.Machine.execBraGe d s1 p s
  | .brk k p => Sys2Proof.Machine.execBrk k p s
  | .jmpv a p => Sys2Proof.Machine.execJmpv a p s
  | .callDisp d a p => Sys2Proof.Machine.execCallDisp d a p s
  | .callk k a p => Sys2Proof.Machine.execCallk k a p s
  | .icall a p => Sys2Proof.Machine.execIcall a p s
  | .retLink a p => Sys2Proof.Machine.execRetLink a p s
  | .markPush d => Sys2Proof.Machine.execMarkPush d s
  | .joinLanes => Sys2Proof.Machine.execJoinLanes s
  | .enrol j => Sys2Proof.Machine.execEnrol j s
  | .rejoin j => Sys2Proof.Machine.execRejoin j s
  | .strike j => Sys2Proof.Machine.execStrike j s
  | .jclr j => Sys2Proof.Machine.execJclr j s
  | .reform => Sys2Proof.Machine.execReform s
  | .exitLanes => Sys2Proof.Machine.execExitLanes s
  | .yield => Sys2Proof.Machine.execYield s
  | .sbwait m => Sys2Proof.Machine.execSbwait m s
  | .fdecl n => Sys2Proof.Machine.execFdecl n s
  | .vfpush a x p => Sys2Proof.Machine.execVfpush a x p s
  | .vfpop d => Sys2Proof.Machine.execVfpop d s
  | .vffree d => Sys2Proof.Machine.execVffree d s
  | .qpush a q p => Sys2Proof.Machine.execQpush a q p s
  | .qpop a q x p => Sys2Proof.Machine.execQpop a q x p s
  | .qpeek a q x p => Sys2Proof.Machine.execQpeek a q x p s
  | .qlevel a q p => Sys2Proof.Machine.execQlevel a q p s
  | .treq d a => Sys2Proof.Machine.execTreq d a s
  | .tstat d => Sys2Proof.Machine.execTstat d s
  | .phint c => Sys2Proof.Machine.execPhint c s
  | .pgate d a => Sys2Proof.Machine.execPgate d a s
  | .pungate d a => Sys2Proof.Machine.execPungate d a s
  | .pvf d a => Sys2Proof.Machine.execPvf d a s
  | .trapi c => Sys2Proof.Machine.execTrapi c s
  | .tretRetry => Sys2Proof.Machine.execTretRetry s
  | .tretAdvance => Sys2Proof.Machine.execTretAdvance s
  | .tretSkiplanes => Sys2Proof.Machine.execTretSkiplanes s
  | .tpred d p => Sys2Proof.Machine.execTpred d p s
  | .nop => Sys2Proof.Machine.execNop s
  | .pref l n => Sys2Proof.Machine.execPref l n s
  | .clock s1 n => Sys2Proof.Machine.execClock s1 n s
  | .sleep c => Sys2Proof.Machine.execSleep c s
  | .brkpt c => Sys2Proof.Machine.execBrkpt c s
  | .sleepEnd => Sys2Proof.Machine.execSleepEnd s
  | .resultArrival => Sys2Proof.Machine.execResultArrival s
  | .faultRouting => Sys2Proof.Machine.execFaultRouting s
  | .watchdog => Sys2Proof.Machine.execWatchdog s
  | .fsvcreplyResume => Sys2Proof.Machine.execFsvcreplyResume s
  | .fsvcreplyKill => Sys2Proof.Machine.execFsvcreplyKill s
  | .recordArrival => Sys2Proof.Machine.execRecordArrival s
  | .batchageExpiry => Sys2Proof.Machine.execBatchageExpiry s
  | .placement => Sys2Proof.Machine.execPlacement s
  | .rtWindowStart => Sys2Proof.Machine.execRtWindowStart s
  | .reformBinClose => Sys2Proof.Machine.execReformBinClose s
  | .waveRetirement => Sys2Proof.Machine.execWaveRetirement s
  | .drainingStreamTimeout => Sys2Proof.Machine.execDrainingStreamTimeout s
  | .runCompletion => Sys2Proof.Machine.execRunCompletion s
  | .phaseStart => Sys2Proof.Machine.execPhaseStart s
  | .runLaunch => Sys2Proof.Machine.execRunLaunch s
  | .laneKill => Sys2Proof.Machine.execLaneKill s
  | .rootQueueBind => Sys2Proof.Machine.execRootQueueBind s
  | .spillTimeout => Sys2Proof.Machine.execSpillTimeout s
  | .splitChange => Sys2Proof.Machine.execSplitChange s
  | .waitSaveTimeout => Sys2Proof.Machine.execWaitSaveTimeout s
  | .contextSave => Sys2Proof.Machine.execContextSave s
  | .contextRestore => Sys2Proof.Machine.execContextRestore s
  | .memoryPacket => Sys2Proof.Machine.execMemoryPacket s
  | .pageWalk => Sys2Proof.Machine.execPageWalk s
  | .shortStoreWaitEnd => Sys2Proof.Machine.execShortStoreWaitEnd s
  | .promotionRequest => Sys2Proof.Machine.execPromotionRequest s
  | .promotionReply => Sys2Proof.Machine.execPromotionReply s
  | .mwaitTimeout => Sys2Proof.Machine.execMwaitTimeout s
  | .keystoneRequest => Sys2Proof.Machine.execKeystoneRequest s
  | .sectionStall => Sys2Proof.Machine.execSectionStall s
  | .barrierRequest => Sys2Proof.Machine.execBarrierRequest s
  | .reductionRequest => Sys2Proof.Machine.execReductionRequest s
  | .engineCommandArrival => Sys2Proof.Machine.execEngineCommandArrival s
  | .mldwFinish => Sys2Proof.Machine.execMldwFinish s
  | .mswapEffect => Sys2Proof.Machine.execMswapEffect s
  | .streamStart => Sys2Proof.Machine.execStreamStart s
  | .matrixRowFinish => Sys2Proof.Machine.execMatrixRowFinish s
  | .copyCompletion => Sys2Proof.Machine.execCopyCompletion s
  | .multicastDelivery => Sys2Proof.Machine.execMulticastDelivery s
  | .vfifoEntryAvailable => Sys2Proof.Machine.execVfifoEntryAvailable s
  | .vfifoBeatFail => Sys2Proof.Machine.execVfifoBeatFail s
  | .vfifoRepairComplete => Sys2Proof.Machine.execVfifoRepairComplete s
  | .linkTurnEnd => Sys2Proof.Machine.execLinkTurnEnd s
  | .leaseTimeout => Sys2Proof.Machine.execLeaseTimeout s
  | .flitReceive => Sys2Proof.Machine.execFlitReceive s
  | .linkRecalibration => Sys2Proof.Machine.execLinkRecalibration s
  | .recalibrationEnd => Sys2Proof.Machine.execRecalibrationEnd s
  | .dieParkComplete => Sys2Proof.Machine.execDieParkComplete s
  | .railOff => Sys2Proof.Machine.execRailOff s
  | .railReady => Sys2Proof.Machine.execRailReady s
  | .sliceLeave => Sys2Proof.Machine.execSliceLeave s
  | .sliceJoin => Sys2Proof.Machine.execSliceJoin s
  | .bankRetirement => Sys2Proof.Machine.execBankRetirement s
  | .gainCellRefresh => Sys2Proof.Machine.execGainCellRefresh s
  | .patrolScrub => Sys2Proof.Machine.execPatrolScrub s
  | .plumbTick => Sys2Proof.Machine.execPlumbTick s
  | .vfChangeComplete => Sys2Proof.Machine.execVfChangeComplete s
  | .retentionEntry => Sys2Proof.Machine.execRetentionEntry s
  | .hardwareTrip => Sys2Proof.Machine.execHardwareTrip s
  | .heartbeatMiss => Sys2Proof.Machine.execHeartbeatMiss s
  | .warmReset => Sys2Proof.Machine.execWarmReset s
  | .powerOnReset => Sys2Proof.Machine.execPowerOnReset s
  | .bootImage => Sys2Proof.Machine.execBootImage s
  | .flashReadTimeout => Sys2Proof.Machine.execFlashReadTimeout s
  | .setvf => Sys2Proof.Machine.execSetvf s
  | .setcap => Sys2Proof.Machine.execSetcap s
  | .measure => Sys2Proof.Machine.execMeasure s
  | .quote => Sys2Proof.Machine.execQuote s
  | .telemetry => Sys2Proof.Machine.execTelemetry s
  | .flashRead => Sys2Proof.Machine.execFlashRead s
  | .flashProgram => Sys2Proof.Machine.execFlashProgram s
  | .flashReboot => Sys2Proof.Machine.execFlashReboot s
  | .cornerread => Sys2Proof.Machine.execCornerread s
  | .mailboxCompletion => Sys2Proof.Machine.execMailboxCompletion s
  | .rqtailWrite => Sys2Proof.Machine.execRqtailWrite s
  | .rqbaseWrite => Sys2Proof.Machine.execRqbaseWrite s
  | .rqsizeWrite => Sys2Proof.Machine.execRqsizeWrite s
  | .hostBar2Access => Sys2Proof.Machine.execHostBar2Access s
  | .registerWrite => Sys2Proof.Machine.execRegisterWrite s
  | .slotcmdPhase => Sys2Proof.Machine.execSlotcmdPhase s
  | .slotcmdJob => Sys2Proof.Machine.execSlotcmdJob s
  | .invctlGo => Sys2Proof.Machine.execInvctlGo s
  | .invalidationComplete => Sys2Proof.Machine.execInvalidationComplete s
  | .l1modeWrite => Sys2Proof.Machine.execL1modeWrite s
  | .l1modeChangeComplete => Sys2Proof.Machine.execL1modeChangeComplete s
  | .pmcselWrite => Sys2Proof.Machine.execPmcselWrite s
  | .pmcClear => Sys2Proof.Machine.execPmcClear s
  | .mlpartWrite => Sys2Proof.Machine.execMlpartWrite s
  | .partitionChangeComplete => Sys2Proof.Machine.execPartitionChangeComplete s
  | .mlremapWrite => Sys2Proof.Machine.execMlremapWrite s
  | .remapComplete => Sys2Proof.Machine.execRemapComplete s
  | .cmcfgWrite => Sys2Proof.Machine.execCmcfgWrite s
  | .cmheadWrite => Sys2Proof.Machine.execCmheadWrite s
  | .layergateReqWrite => Sys2Proof.Machine.execLayergateReqWrite s
  | .binGroup => Sys2Proof.Machine.execBinGroup s
  | .viewportClose => Sys2Proof.Machine.execViewportClose s
  | .tileFill => Sys2Proof.Machine.execTileFill s
  | .tileVisibility => Sys2Proof.Machine.execTileVisibility s
  | .classifierEmit => Sys2Proof.Machine.execClassifierEmit s
  | .tileWriteback => Sys2Proof.Machine.execTileWriteback s
  | .rayBatch => Sys2Proof.Machine.execRayBatch s
  | .rayResult => Sys2Proof.Machine.execRayResult s
  | .matrixNodeBatch => Sys2Proof.Machine.execMatrixNodeBatch s
  | .matrixNodeResult => Sys2Proof.Machine.execMatrixNodeResult s
  | .packetAcknowledgement => Sys2Proof.Machine.execPacketAcknowledgement s
  | .turnWaitEnd => Sys2Proof.Machine.execTurnWaitEnd s
  | .voltageRampEnd => Sys2Proof.Machine.execVoltageRampEnd s

end Sys2Proof.Machine
end

