-- ==== Sys2Proof/Machine/Inputs.lean ====
section
/-! DEFINITION. What comes from outside the device, or is a choice of the part that no row of the table names: temperatures,
power, errors in its arrays, L1 replacement, the progress of copies, the flash and the host's memory (spec 15_platform.md R295,
R304; 18_subsystem_faults.md R343 to R351, R359; 19_platform_faults.md R368, R370, R371). -/

namespace Sys2Proof.Machine

/-- Logs an uncorrectable error by its row of Table 19-3 (Table 19-5 event 9). -/
def State.logError (s : State) (die source row : Nat) : State := s.cornerAdd die 9 source row

/-- A parity error in the control state of a wave: it is killed, and its run ends with CODE 1 (R370). -/
def State.parityError (s : State) (id : Nat) : State :=
  match s.wave? id with
  | none => s
  | some w =>
    let s1 := (s.logError (dieOf w.ashlar) w.ashlar 1).modWave id fun w => { w with clause := none }
    { s1.controlError w.run 1 w.ashlar w.node with cur := none }

/-- A checksum error in the tables of a slot: every run of it ends with CODE 2, the job is cancelled and the tables are
rebuilt empty (R370). -/
def State.checksumError (s : State) (n : Nat) : State :=
  let s1 := s.logError 0 0xFF 5
  ((s1.runs.filter fun r => r.slot == n).foldl (fun (s : State) r => s.controlError r.id 2 0xFFFF 0) s1).askJob n

/-- A slice's junction temperature: above 105 °C its short-lived lines count as expired until it is below 100 °C (R348). -/
def State.sliceTemp (s : State) (n : Nat) (t : Int) : State :=
  let hot := (s.slice (n / 16) (n % 16)).overTemp
  let now := if hot then decide (1600 ≤ t) else decide (1680 < t)
  let s1 := s.modSlice (n / 16) (n % 16) fun x => { x with temp := t, overTemp := now }
  if now == hot || 32 ≤ n then s1
  else s1.cornerAdd (n / 16) 11 (0x80 + n % 16) (if now then 1 else 0)

/-- L1 replaces a line: its dirty bytes go home and it is gone (R87). -/
def State.evictLine (s : State) (cache line : Nat) : State :=
  match s.l1.find? fun l => l.cache == cache && l.line == line with
  | none => s
  | some l =>
    let s1 := s.writeBackLine l
    { s1 with l1 := s1.l1.filter fun l => !(l.cache == cache && l.line == line) }

/-- An uncorrectable error in a register, scratch word or dirty L1 line that a lane reads: HARDWARE, CODE 1 (R370 rows 2 to 4). -/
def State.registerError (s : State) (id lane row : Nat) : State :=
  match s.wave? id with
  | none => s
  | some w =>
    let s1 := { s.logError (dieOf w.ashlar) w.ashlar row with nextId := s.nextId + 1 }
    (s1.setWave (w.lateHardware (oneLane lane) s.nextId 1)).poke id

/-- An input or an unnamed choice of the part. Of the uncorrectable errors of Table 19-3 row 6 those that patrol scrub, a PREF or a
failing slice meets log event 9; one that a lane's read, a queue record or a saved context meets is the fault or the abort of that
access alone (DESIGN CHOICE, log entry 70). -/
def State.input (s : State) (x : Input) : State :=
  match x with
  | .temperature c t => s.modCourse c fun x => { x with temp := t }
  | .power w => { s with plumb := { s.plumb with power := w } }
  | .poison line => if line * 64 < hbmTop then s.breakLine line else s
  | .parity w => s.parityError w
  | .checksum n => s.checksumError n
  | .regError w l row => if 2 ≤ row ∧ row ≤ 4 then s.registerError w l row else s
  | .shortError line => { s with shorts := updWhere (·.line == line) (fun (l : ShortLine) => { l with deadline := 0 }) s.shorts }
  | .savedError w => s.modWave w fun w => if w.stat == .saved then { w with badImage := true } else w
  | .undervoltage low => { s with plumb := { s.plumb with undervolt := low } }
  | .sliceTemperature n t => s.sliceTemp n t
  | .bankTemperature n b t => s.modHealth (n / 16) (n % 16) b fun h => { h with
      hotSince := if degrees 110 < t then some (h.hotSince.getD s.now) else none
      coolSince := if t < degrees 95 then some (h.coolSince.getD s.now) else none }
  | .corrected at_ => s.fixLine at_
  | .sliceFail n => if 32 ≤ n then s else
      (s.modSlice (n / 16) (n % 16) fun x => { x with failed := true }).logError (n / 16) (0x80 + n % 16) 6
  | .recordError r n d => match s.run? r with
    | some k => if (k.inst n d).queued == 0 then s else s.abortRun r 4 n 0
    | none => s
  | .deadGroup g => s.removeGroup g
  | .evict c l => s.evictLine c l
  | .copyStep r n => s.copyRun r n
  | .flashByte a b => { s with plumb := { s.plumb with flash := s.plumb.flash.write a b } }
  | .hostRead _ | .vfRead _ _ => s
  | .barSize k =>
    if 8 < k then s
    else s.modHost fun h => { h with barSize := 2 ^ (30 + k), winbase := h.winbase / 2 ^ (30 + k) * 2 ^ (30 + k) }
  | .hostMemory a d => if a + d.length ≤ 2 ^ 43 then { s.keepCode (hostBase + a) d.length with mem := s.mem.writeN (hostBase + a) d } else s

end Sys2Proof.Machine
end

