-- ==== Sys2Proof/Machine/Agenda.lean ====
section
/-! DEFINITION. What happens next: the tape of moves from outside, or the default agenda (log entry 2); time passing
(R47, R166, R319, R358) and the machine state around an instruction that a test places. -/

namespace Sys2Proof.Machine

/-! ### Time -/

/-- Whether an outstanding instruction is one whose wait the watchdog counts (R319). -/
def Op.counted (o : Op) : Bool :=
  o.isEnter || match o.wait, decode o.word with
    | .ready, _ => false
    | .request _, .ok (.btest ..) => true
    | .request _, _ => false
    | _, _ => true

/-- Whether a lane waits in a place the watchdog counts (R319): parked at a JOIN, a REJOIN or an ungranted OENTER,
parked for the scoreboards of an instruction that counts, or at a clause whose WAIT names a scoreboard that is not zero. -/
def Wave.waitsAt (w : Wave) (stalled : Mask) (l : Nat) (n : Lane) : Bool :=
  match n.stat with
  | .parked (.join _) | .parked (.rejoin _ _) | .parked (.oenter _) => true
  | .parked (.sbwait _) | .parked .drain => w.ops.any fun o => laneBit o.lanes l && o.counted
  | .run => laneBit stalled l
  | _ => false

/-- Running lanes of a wave, those of a clause in execution apart, that wait at a clause for its WAIT. -/
def State.stalled (s : State) (w : Wave) : Mask :=
  if w.sb.all (· == 0) then 0
  else
    let busy := (w.clause.map (·.lanes)).getD 0
    (w.subgroups.filter fun g => g.lanes &&& ~~~busy != 0 && match s.headAt w g with
      | .ok raw _ => !w.sbsClear (headerOf raw).wait
      | _ => false).foldl (fun m g => m ||| (g.lanes &&& ~~~busy)) (0 : Mask)

/-- Whether a wave's waits are counted: resident, or saved for such a wait. -/
def Wave.counted (w : Wave) : Bool :=
  match w.stat with
  | .resident => true
  | .saveAsked | .saved => w.saveFor == 1
  | _ => false

/-- A wave after dt ps in which waits count: its lanes' waits (R319), or the hold of its stream while it drains (R45). -/
def State.waveTick (s : State) (dt : Nat) (w : Wave) : Wave :=
  if w.stat == .draining then
    if s.streamStuck w then { w with streamHeld := w.streamHeld + dt } else { w with streamHeld := 0 }
  else if w.counted then
    let st := s.stalled w
    { w with lanes := w.lanes.mapIdx fun l n => if w.waitsAt st l n then { n with waited := n.waited + dt } else n }
  else w

/-- Whether the cycles that now pass on an ashlar are ones that an event counts (Table 15-7 events 1, 6, 7, 20 and 21), for
one slot where the counter asks for it. -/
def State.countsCycles (s : State) (a ev : Nat) (slot : Option Nat) : Bool :=
  let ws := s.waves.filter fun w => w.ashlar == a && !w.away && w.stat != .draining
  let mine := ws.filter fun w => match slot with | some n => w.slot == n | none => true
  match ev with
  | 1 => slot.isNone || !mine.isEmpty
  | 6 => !mine.isEmpty && ws.all fun w => w.clause.isNone && (s.runnables (s.parkEnters w)).isEmpty
  | 7 => mine.any fun w => s.stalled w != 0
  | 20 => mine.any fun w => w.lanes.any fun n => match n.stat with | .parked (.oenter _) => true | _ => false
  | 21 => mine.any Wave.mwaiting
  | _ => false

/-- The counters of ashlar a after cycles of its course (R308). -/
def State.tickPmc (s : State) (cycles a : Nat) (x : Ashlar) : Ashlar :=
  if cycles = 0 || x.pmcsel.all (· == 0) || s.courseStill (courseOf a) then x
  else { x with
    pmc := List.zipWith (fun (p sel : DWord) =>
      let e := sel.toNat
      if s.countsCycles a (e % 256) (if e / 2 ^ 14 % 2 = 0 then none else some (e / 2 ^ 8 % 64)) then p + BitVec.ofNat 64 cycles else p)
      x.pmc x.pmcsel }

/-- dt ps pass: the course clocks run, the counters and the matrix arrays with them (R236, R308), and waits count. -/
def State.tick (s : State) (dt : Nat) : State :=
  if dt = 0 then s
  else
    let s0 := { s with
      courses := s.courses.map fun (c : Course) => { c with phase := c.phase + dt * pointMHz c.point } }
    let cycles := fun (c : Nat) => s0.clock c - s.clock c
    let s1 := { s0 with
      now := s.now + dt
      ashlars := s.ashlars.mapIdx fun a x => s.tickPmc (cycles (courseOf a)) a x }
    let s2 := s1.pipeAll cycles
    if s.counting then
      { s2 with
        waves := s2.waves.map (s2.waveTick dt)
        keystones := s2.keystones.map fun (e : Keystone) => if e.waiters.isEmpty then e else { e with waited := e.waited + dt } }
    else s2

/-! ### The default agenda (log entry 2) -/

/-- An event with natural-number operands. -/
def ev (i : Instr) (a : Nat := 0) (b : Nat := 0) (c : Nat := 0) (d : Nat := 0) (m : Mask := 0) (v : DWord := 0) (flag : Bool := false) : Act :=
  .event i { a := a, b := b, c := c, d := d, mask := m, v := v, flag := flag }

/-- The event of a pending write of a special register. -/
def Wave.ssetAct (w : Wave) : Option Act :=
  match w.ssets.head? with
  | none => none
  | some (n, v) =>
    if 0x30 ≤ n && n < 0x40 then some (ev .mlpartWrite w.die (n - 0x30) (v := v))
    else if n = 0x45 then some (ev .mlremapWrite w.die (v := v))
    else if n = 0x62 then some (ev .layergateReqWrite w.die (v := v))
    else if 0x18 ≤ n && n < 0x1C then some (ev .cmcfgWrite w.id (n - 0x18) (v := v))
    else if 0x10 ≤ n && n < 0x18 then some (ev .cmheadWrite w.id ((n - 0x10) / 2) (v := v))
    else none

/-- What may happen to a wave. -/
def State.waveActs (s : State) (w : Wave) : List Act :=
  [ev .laneKill w.id, ev .faultRouting w.id, ev .sleepEnd w.id (m := ~~~0), ev .watchdog w.id (m := ~~~0), ev .mwaitTimeout w.id,
   ev .drainingStreamTimeout w.id, ev .waitSaveTimeout w.id, ev .contextSave w.id, ev .waveRetirement w.id]
    ++ (w.ops.map fun o => ev .resultArrival w.id o.id (m := ~~~0))
    ++ ((w.ashlar :: w.savedAt.toList ++ (List.range 128).filter fun a => (s.ashlar a).reservedFor == some (groupToken w.ashlar)).map
        fun a => ev .contextRestore w.id a)
    ++ [.issue w.id]

/-- What may happen to a request. -/
def Req.acts (r : Req) : List Act :=
  match r.body with
  | .mem _ => [ev .memoryPacket r.id, ev .pageWalk r.id]
  | .packet _ => [ev .memoryPacket r.id, ev .shortStoreWaitEnd r.id, ev .packetAcknowledgement r.id]
  | .order _ _ _ _ _ => [ev .keystoneRequest r.id]
  | .barrier _ _ _ _ => [ev .barrierRequest r.id]
  | .reduce _ _ _ => [ev .reductionRequest r.id]
  | .append _ _ _ _ => [ev .recordArrival r.id]
  | .matrix _ _ => [ev .engineCommandArrival r.id]
  | .copy c => [ev .engineCommandArrival r.id, .input (.copyStep r.id 64)]
      ++ ((c.receivers r).map fun x => ev .multicastDelivery r.id x) ++ [ev .copyCompletion r.id]
  | .cancelWatch _ _ => [ev .memoryPacket r.id]
  | .fence _ _ _ _ _ | .reply _ _ | .message => []

/-- What may happen on an ashlar. -/
def ashlarActs (x : Ashlar) (a : Nat) : List Act :=
  [ev .matrixRowFinish a, ev .mldwFinish a, ev .mswapEffect a, ev .streamStart a]
    ++ (if x.fifo.isEmpty then [] else [ev .vfifoEntryAvailable a])
    ++ (if x.fifoStop then [ev .vfifoRepairComplete a] else [])
    ++ (((List.range 64).filter fun i => (x.bins.getD i none).isSome).map fun i => ev .reformBinClose a i)
    ++ (if x.splitNext.isSome then [ev .splitChange a] else [])
    ++ (if x.rays.isEmpty then [] else [ev .rayResult a]) ++ (if x.mlp.isEmpty then [] else [ev .matrixNodeResult a])

/-- What may happen to a run. -/
def Run.acts (r : Run) : List Act :=
  ((List.range r.nodes.length).flatMap fun n => [0, 1].flatMap fun d =>
      let i := r.inst n d
      if i.queued = 0 then []
      else match r.node? n with
        | some nd =>
          if nd.isFixed 4 then (dieAshlars d).map fun a => ev .rayBatch r.id n d a
          else if nd.isFixed 5 then (dieAshlars d).map fun a => ev .matrixNodeBatch r.id n d a
          else [ev .batchageExpiry r.id n d]
        | none => [])
    ++ (r.bins.flatMap fun b => if b.closed && b.tiles.isEmpty then [] else [ev .binGroup r.id b.node, ev .viewportClose r.id b.node])
    ++ [ev .spillTimeout r.id, ev .runCompletion r.id]

/-- What may happen on a course. -/
def courseActs (x : Course) (c : Nat) : List Act :=
  ((List.range 4).flatMap fun k =>
      if (x.tiles.getD k {}).state == .free then [] else [ev .tileVisibility c k, ev .classifierEmit c k, ev .tileWriteback c k])
    ++ (if x.vf == .steady then [] else [ev .voltageRampEnd c, ev .vfChangeComplete c])
    ++ (if x.l1next.isSome then [ev .l1modeChangeComplete c] else [])

/-- What may happen on a die. -/
def dieActs (x : Die) (d : Nat) : List Act :=
  [ev .placement d] ++ (if x.parking || x.linkPark then [ev .dieParkComplete d] else [])
    ++ ((List.range 3).flatMap fun l => if (x.gates.getD l {}).busy then [ev .railOff d l, ev .railReady d l] else [])
    ++ ((List.range 16).flatMap fun n =>
        [ev .sliceLeave (16 * d + n), ev .sliceJoin (16 * d + n)] ++ if (x.slices.getD n (Slice.reset n)).busy then [ev .partitionChangeComplete d n] else [])
    ++ (if x.remap then [ev .remapComplete d] else [])

/-- What may happen on the host side, in Plumb and on the link. -/
def deviceActs : List Act :=
  [ev .bootImage, ev .plumbTick, ev .rootQueueBind, ev .rtWindowStart, ev .leaseTimeout, ev .linkTurnEnd (flag := true), ev .turnWaitEnd,
   ev .recalibrationEnd (flag := true), ev .invalidationComplete, ev .setvf, ev .setcap, ev .measure, ev .quote, ev .telemetry,
   ev .flashRead, ev .flashProgram, ev .flashReboot, ev .cornerread, ev .mailboxCompletion, ev .hardwareTrip]

/-- Everything that may happen by itself, each at most once in the list. -/
def State.acts (s : State) : List Act :=
  (s.reqs.flatMap Req.acts) ++ (s.waves.flatMap s.waveActs)
    ++ (s.marks.flatMap fun m =>
        let k := match m.kind with | .global => 0 | .short => 1 | .window d => 2 + d
        [ev .promotionRequest m.line k, ev .promotionReply m.line k])
    ++ (if s.reqs.any (·.cross.isSome) then (List.range 16).map fun g => ev .flitReceive g (flag := true) else [])
    ++ (s.keystones.map fun e => ev .sectionStall e.run (v := e.key))
    ++ ((List.range 128).flatMap fun a => if s.ashlar a = Ashlar.reset then [] else ashlarActs (s.ashlar a) a)
    ++ (s.runs.flatMap Run.acts)
    ++ ((List.range 16).flatMap fun c => courseActs (s.course c) c ++ if s.runs.isEmpty then [] else [ev .tileFill c])
    ++ ((List.range 2).flatMap fun d => dieActs (s.die d) d)
    ++ (((List.range 64).filter fun n => (s.slot n).bound).map fun n => ev .phaseStart n)
    ++ (s.launches.map fun l => ev .runLaunch l.id) ++ deviceActs

/-- The state after an act, its operands apart; none where it has no effect. -/
def State.after (s : State) (x : Act) : Option State :=
  let eff := fun (t : State) => if { t with evt := s.evt } = s then none else some t
  match x with
  | .event i e => match exec i { s with evt := e } with
    | .next t => eff t
    | _ => none
  | .issue id => match s.wave? id with
    | some w => if (s.choose (s.parkEnters w)).isSome then some s else none
    | none => none
  | .input y => eff (s.input y)
  | .idle => none

/-- The first act of a list that has an effect, from a place on. -/
def State.firstDue (s : State) (l : List Act) (k : Nat) : Option Act := (l.drop k ++ l.take k).find? fun x => (s.after x).isSome

/-- Whether something that lasts well under 1 µs or a few is going on. -/
def State.shortWait (s : State) : Bool :=
  s.link.turning.isSome || s.link.recal.isSome || s.dies.any (fun d => d.gates.any (·.busy))
    || s.courses.any fun (c : Course) => c.vf != .steady

/-- The move made when the tape is empty: a clause in execution whose next word does not wait goes on; a pending write of a special register is
performed; else the first act with an effect, looked for from a place that moves on with time, so that none waits for ever;
else 20 ns pass while the link, a rail or a course clock is changing, and 1 µs otherwise. -/
def State.defaultMove (s : State) : Move :=
  match s.waves.find? fun w => w.clause.isSome && !s.wordWaits w with
  | some w => { dt := s.cyclesPs w.ashlar 1, act := .issue w.id }
  | none => match s.waves.findSome? Wave.ssetAct with
    | some x => { dt := 1000, act := x }
    | none =>
      let l := s.acts
      match s.firstDue l (s.now / 1000 % l.length) with
      | some (.issue id) => { dt := ((s.wave? id).map fun w => s.cyclesPs w.ashlar 1).getD 1000, act := .issue id }
      | some x => { dt := 1000, act := x }
      | none => { dt := if s.shortWait then 20000 else 1000000, act := .idle }

/-- Takes the next move: the state with its time passed, and the act. -/
def State.nextAct (s : State) : State × Act :=
  match s.tape with
  | m :: rest => (({ s with tape := rest }).tick m.dt, m.act)
  | [] => let m := s.defaultMove; (s.tick m.dt, m.act)

/-! ### Placing an instruction -/

/-- Where the placed clause stands, as a virtual and a physical address. -/
def placeAt : Nat := 0x10000

/-- A leaf that maps a page onto itself with read, write and execute permission, marked accessed and written. -/
def placeLeaf : DWord := BitVec.ofNat 64 (placeAt + 0xFB)

/-- The node of the placed wave. -/
def placeNode (thread div matrix : Bool) : Node where
  entry := placeAt
  prologue := 0
  ktab := 0
  buftab := 0
  trappc := 0
  fixparam := 0
  trapen := 0
  qcap := 2 ^ 24
  recsize := 16
  batchage := 0
  maxwaves := 0
  binage := 0
  kind := if thread then 1 else 0
  fixunit := 0
  width := if thread then 0 else 16
  regs := if thread then 0 else 128
  pscr := if thread then 0 else 16
  sscr := 0
  kcount := 0
  bcount := 0
  prio := 0
  energy := 0
  ordered := false
  matrix := matrix
  div := div
  split := 0
  l1mode := 0
  edges := List.replicate 8 ⟨0, 1, false⟩

/-- Whether an instruction is one that only control threads execute, and whether it is one of the mask mode. -/
def placeThread : Instr → Bool
  | .vfpop .. => true
  | _ => false
def placeMask : Instr → Bool
  | .enrol .. | .rejoin .. | .strike .. | .jclr .. => true
  | _ => false
/-- Whether it needs the matrix array, a lane in handler state, or a half type. -/
def placeMatrix : Instr → Bool
  | .mldw .. | .mswap .. | .mstream .. | .mdrain .. => true
  | _ => false
def placeHandler : Instr → Bool
  | .tretRetry | .tretAdvance | .tretSkiplanes => true
  | _ => false
def placePair : Instr → Bool
  | .fdot2 .. | .cvtpk .. => true
  | _ => false

/-- A live run of slot 0 with one node. -/
def placeRun (id : Nat) (n : Node) : Run where
  id := id
  slot := 0
  desc := 0
  nodes := [n]
  ring := 0
  tag := 0
  msi := false
  spillBase := 0
  spillSize := 0
  spillTo := 20
  insts := [{}, {}]
  sink := [255]

/-- The wave that issues the placed instruction, at its clause. -/
def placeWave (id run : Nat) (i : Instr) : Wave :=
  let n := placeNode (placeThread i) (placeMask i) (placeMatrix i)
  let w := startWave id run 0 0 n 0 0 placeAt [] 16 (List.replicate 64 0) (List.replicate 64 0) 0
  { w with lanes := w.lanes.map fun l => { l with handler := placeHandler i } }

/-- Header of the placed clause: class G, one word. -/
def placeHeader (i : Instr) : Word := BitVec.ofNat 32 (0xFE3C0000 + if placePair i then 64 else 0)

/-- The state in which the next step issues the word w of an instruction, or the header w of a clause. -/
def State.placed (s : State) (w : Nat) : State :=
  let i := (decodeTableWord 32 w).getD .nop
  let isHeader := w / 2 ^ 25 % 128 == 0x7F
  let raw := if isHeader then BitVec.ofNat 32 w else placeHeader i
  let id := s.nextId
  let x := placeWave id (s.runCounter.toNat) i
  let c : Clause := { pc := placeAt, hdr := headerOf raw, raw := raw, index := 0, lanes := if x.isThread then 1 else 0xFFFF }
  let y := { x with clause := if isHeader then none else some c }
  let bytes := toBytes 4 raw.toNat ++ if isHeader then List.replicate 60 0 else toBytes 4 w
  let r := placeRun s.runCounter.toNat (placeNode (placeThread i) (placeMask i) (placeMatrix i))
  { s with
    tape := [⟨0, .issue id⟩]
    nextId := id + 1
    runCounter := s.runCounter + 1
    cur := some id
    waves := [y]
    runs := r :: s.runs
    slots := s.slots.modify 0 fun x => { x with bound := true, sys := true }
    mem := s.mem.writeN placeAt bytes
    tlb := { ashlar := 0, asid := 0, page := placeAt / 2 ^ 16, at_ := 0, entry := placeLeaf, odd := 0, level := 3 } :: s.tlb
    ashlars := s.ashlars.modify 0 fun a => { a with
      array := { a.array with bound := some (s.runCounter.toNat, 0) }
      regions := [(id, 0, 16)] } }

end Sys2Proof.Machine
end

