-- ==== Sys2Proof/Machine/HostReads.lean ====
section
/-! DEFINITION. What the host reads in BAR0 (spec 15_platform.md R296 to R303, R308, Tables 15-1 to 15-3; 16_traps.md Table 16-7;
19_platform_faults.md R365, R366). Reading changes nothing. -/

namespace Sys2Proof.Machine

/-- The identity block (R299): part number, stepping A0, key, certificate length and certificate; the bytes it gives nothing
for are zero. -/
def identity (i : Nat) : Byte :=
  let name : List Byte := [0x56, 0x4C, 0x44, 0x2D, 0x36, 0x32, 0x34, 0x30, 0x2D, 0x41]
  if i < 64 then name.getD i 0
  else if i < 128 then Sys2Proof.Config.keyByte (i - 64)
  else if i < 132 then (toBytes 4 Sys2Proof.Config.certLength).getD (i - 128) 0
  else if 256 ≤ i ∧ i < 256 + Sys2Proof.Config.certLength then Sys2Proof.Config.certByte (i - 256)
  else 0

/-- A one-bit field. -/
def bitN (b : Bool) (k : Nat) : Nat := if b then 2 ^ k else 0

/-- A root queue or window register. -/
def HostRegs.rqRead (h : HostRegs) (off : Nat) : Nat :=
  match off with
  | 0x00 => h.rqbase
  | 0x08 => h.rqsize
  | 0x10 => h.tail.toNat
  | 0x18 => h.head.toNat
  | 0x20 => h.badIndex * 2 ^ 32 + h.badCount * 2 ^ 16 + bitN h.waiting 1 + bitN h.err 0
  | 0x28 => h.winbase
  | _ => 0

/-- A slot register. -/
def Slot.regRead (x : Slot) (off : Nat) : Nat :=
  let grant := fun (d : Nat) => let g := x.grant.getD d (0, 0); g.2 * 2 ^ 32 + g.1
  match off with
  | 0x00 => x.postdrop * 2 ^ 32 + bitN (x.bound && (x.jobCancel || (x.started && x.phaseCancelled))) 1 + bitN x.bound 0
  | 0x10 => grant 0
  | 0x18 => grant 1
  | 0x20 => bitN x.debug 0
  | 0x28 => bitN x.fsvc 0
  | _ => 0

/-- A course register; NEXT is the point requested. FUSED reads as last written, also while the change is under way (R6). -/
def Course.regRead (x : Course) (next off : Nat) : Nat :=
  match off with
  | 0x00 => bitN x.l1next.isSome 8 + bitN (x.l1next.getD x.fused) 0
  | 0x08 => x.budget * 2 ^ 16 + bitN (x.vf != .steady) 11 + next * 2 ^ 8 + x.point
  | 0x10 => (BitVec.ofInt 16 x.temp).toNat
  | _ => 0

/-- A mailbox register. -/
def HostRegs.mailRead (h : HostRegs) (off : Nat) : Nat :=
  if off = 0 then h.cmd.toNat
  else if off < 0x40 then (h.args.getD (off / 8 - 1) 0).toNat
  else if off = 0x40 then h.result.toNat
  else if off = 0x48 then bitN h.doorbell 0
  else 0

/-- The doubleword a host reads at an aligned offset of BAR0. Until firmware runs only the identity and status blocks answer,
and after a failed boot the mailbox and the flash window too (R299, R365). -/
def State.bar0Read (s : State) (off : Nat) : DWord :=
  let v : Nat :=
    if off % 8 != 0 then 0
    else if off < 0x1000 then ofBytes ((List.range 8).map fun i => identity (off + i))
    else if off = 0x1000 then s.plumb.state
    else if off = 0x1008 then s.plumb.failcode
    else if 0x40000 ≤ off ∧ off < 0x50000 then (if s.mailOpen then s.host.mailRead (off - 0x40000) else 0)
    else if 0x50000 ≤ off ∧ off < 0x60000 then (if s.mailOpen then s.plumb.window.readNat (off - 0x50000) 8 else 0)
    else if !s.firmwareRuns then 0
    else if 0x10000 ≤ off ∧ off < 0x10030 then s.host.rqRead (off - 0x10000)
    else if 0x20000 ≤ off ∧ off < 0x24000 then (s.slot ((off - 0x20000) / 256)).regRead (off % 256)
    else if 0x30000 ≤ off ∧ off < 0x30400 then
      let c := (off - 0x30000) / 64
      (s.course c).regRead ((s.request? c).getD (s.course c).next) (off % 64)
    else if off = 0x31000 then s.host.invva
    else if off = 0x31008 then bitN s.host.invgo 63 + s.host.invpages * 2 ^ 16 + bitN s.host.invrange 6 + s.host.invasid
    else if 0x32000 ≤ off ∧ off < 0x36000 then
      let n := off % 128 / 8
      if n = 0 then 0 else ((s.ashlar ((off - 0x32000) / 128)).pmcsel.getD (n - 1) 0).toNat
    else if 0x100000 ≤ off ∧ off < 0x102000 then
      ((s.host.msix.find? fun x => x.1 == (off - 0x100000) / 8).map fun x => x.2.toNat).getD 0
    else 0
  BitVec.ofNat 64 v

/-- A host read of BAR0: its data goes to the host. -/
def State.hostReads (s : State) (off : Nat) : State :=
  { s with host := { s.host with readData := toBytes 8 (s.bar0Read off).toNat } }

/-- A read of BAR0 of a virtual function: its slot's registers stand at offset 0, and nothing else of the 64 KiB (R294). -/
def State.vfReads (s : State) (n off : Nat) : State :=
  if 1 ≤ n ∧ n ≤ 63 ∧ off < 256 then s.hostReads (0x20000 + 256 * n + off)
  else { s with host := { s.host with readData := toBytes 8 0 } }

/-- Everything that comes from outside: host reads of registers, and the inputs of Inputs.lean. -/
def State.outside (s : State) (x : Input) : State :=
  match x with
  | .hostRead off => s.hostReads off
  | .vfRead n off => s.vfReads n off
  | y => s.input y

end Sys2Proof.Machine
end

