-- ==== Sys2Proof/Machine/Step.lean ====
section
/-! DEFINITION. One step of the device: the next move of the tape or of the default agenda is an event, an input, or the
issue of a wave's next word or clause header; and the placing of an instruction where the next step issues it. -/

namespace Sys2Proof.Machine

/-- A wave issues its next instruction. -/
def issueStep (s : State) (id : Nat) : Host.Outcome State Fault Refusal :=
  match s.fetchInstr id with
  | (t, none) => .next t
  | (t, some i) =>
    match exec i t with
    | .next u => .next (u.finishInstr id (s.atBoundary id))
    | .fault f => .fault f
    | .refused r => .refused r

/-- One step. -/
def step (s : State) : Host.Outcome State Fault Refusal :=
  match s.nextAct with
  | (t, .issue id) => issueStep t id
  | (t, .event i e) => if i.isWord then .next t else exec i { t with evt := e }
  | (t, .input x) => .next (t.outside x)
  | (t, .idle) => .next t

/-- The state in which the next step issues the instruction of the low nbits bits of w (log entry 8). -/
def State.withFetchWord (s : State) (nbits w : Nat) : State := s.placed (w % 2 ^ nbits % 2 ^ 32)

end Sys2Proof.Machine
end

