-- ==== Sys2Proof/Safety.lean ====
section
/-! DEFINITION. The terms in which claims about the machine are stated: when a word may issue, the next states that results
of each kind give, the register file as a clause leaves it, and the canonical form of every memory. -/

namespace Sys2Proof.Machine

/-! ### When a word issues -/

/-- A word may issue: a control thread executes only words it may, without a predicate (R331); a wave's named runs of
registers lie below REGS (R330); some lane is active (R157). -/
def Ctx.mayIssue (x : Ctx) (thread : Bool) (p : PR) (regs : List (Nat × Nat)) : Prop :=
  (x.w.isThread = true → thread = true ∧ p = 0) ∧ (x.w.isThread = false → ∀ r ∈ regs, r.1 + r.2 ≤ x.w.regs) ∧ x.act p ≠ 0

/-- The lowest lane of Active. -/
def Ctx.lead (x : Ctx) (p : PR) : Nat := leader (x.act p)

/-! ### Next states of words -/

/-- The clause of the word in execution with results added that words at least dist further on see (R152); nothing else of
the machine differs. -/
def Ctx.gives (x : Ctx) (dist : Nat) (ds : List Dst) : State :=
  x.s.setWave { x.w with clause := some { x.c with pend := x.c.pend ++ ds.map fun d => ⟨x.c.index + dist, d⟩ } }

/-- The same with flags raised in %fpflags (R130). -/
def Ctx.givesFlags (x : Ctx) (g : Flags) (dist : Nat) (ds : List Dst) : State :=
  x.s.setWave { x.w with
    fpflags := x.w.fpflags ||| g
    clause := some { x.c with pend := x.c.pend ++ ds.map fun d => ⟨x.c.index + dist, d⟩ } }

/-- A vector register of every lane of a mask gets a value. -/
def Ctx.lanesGet (x : Ctx) (m : Mask) (d : VR) (f : Nat → Word) : State :=
  x.gives 4 ((lanesOf m).map fun l => .vreg l d.toNat (f l))

/-- A predicate of every lane of a mask gets a value. -/
def Ctx.lanesGetP (x : Ctx) (m : Mask) (d : PR) (f : Nat → Bool) : State :=
  x.gives 2 ((lanesOf m).map fun l => .pred l d.toNat (f l))

/-- A scalar register gets a value. -/
def Ctx.scalarGets (x : Ctx) (d : SR) (v : DWord) : State := x.gives 2 [.sreg d.toNat v]

/-- Flags that the lanes of a mask raise together. -/
def unionFlags (m : Mask) (f : Nat → Word × Flags) : Flags := (lanesOf m).foldl (fun g l => g ||| (f l).2) 0

/-- A vector register of every lane of a mask gets the value of a float operation, whose flags are raised. -/
def Ctx.lanesGetF (x : Ctx) (m : Mask) (d : VR) (f : Nat → Word × Flags) : State :=
  x.givesFlags (unionFlags m f) 4 ((lanesOf m).map fun l => .vreg l d.toNat (f l).1)

/-- No lane of a mask raises a flag that %trapen.FPE enables. -/
def Ctx.quiet (x : Ctx) (m : Mask) (f : Nat → Word × Flags) : Prop := ∀ l ∈ lanesOf m, x.w.fpe &&& (f l).2 = 0

/-- The word whose bit i is f i. -/
def bits32 (f : Nat → Bool) : Word := BitVec.ofNat 32 ((List.range 32).map fun i => if f i then 2 ^ i else 0).sum

/-- The machine with the word's wave and clause as given, and everything else as it was. -/
def Ctx.leaves (x : Ctx) (w : Wave) (c : Clause) : State := x.s.setWave { w with clause := some c }

/-- The clause of the word in execution with lanes to be moved at its end (R149, R180). -/
def Ctx.heads (x : Ctx) (ts : List (Nat × Nat)) : State := x.leaves x.w { x.c with xfer := x.c.xfer ++ ts }

/-- The clause of the word in execution with lanes to be parked at its end. -/
def Ctx.parksAtEnd (x : Ctx) (m : Mask) (why : Park) : State := x.leaves x.w { x.c with parks := x.c.parks ++ [(m, why)] }

/-- A lane of a wave holds a fault found as its word issued (R310, R311): its class, code and address, and where it resumes. -/
def Wave.faultAt (w : Wave) (x : Ctx) (l cls code addr : Nat) : Prop :=
  ∃ f, (w.lane l).fault = some f ∧ f.cls = cls ∧ f.code = code ∧ f.addr = addr ∧ f.late = false ∧ f.pc = x.c.pc
    ∧ f.index = x.c.index ∧ f.resumePc = (x.resume l).1 ∧ f.resumeIdx = (x.resume l).2

/-- The lanes of a mask fault at the word, leave its subgroup, and send nothing; the other lanes are as they were. -/
def Ctx.faults (x : Ctx) (t : State) (m : Mask) (cls code : Nat) (addr : Nat → Nat) : Prop :=
  ∃ w c, t.wave? x.w.id = some w ∧ w.clause = some c ∧ c.out = x.c.out ||| m ∧ c.pend = x.c.pend ∧ t.mem = x.s.mem
    ∧ t.reqs = x.s.reqs ∧ w.ops = x.w.ops
    ∧ ∀ l, if l < x.w.lanesN ∧ m.getLsbD l = true then w.faultAt x l cls code (addr l)
        ∧ (w.lane l).v = (x.w.lane l).v ∧ (w.lane l).p = (x.w.lane l).p else w.lane l = x.w.lane l

/-! ### Shapes of completion -/

/-- Words of format VV on integers: the lanes of Active get op of their a, c and old d. -/
def completesVV (i : VR → VR → B8 → PR → Instr) (op : Word → Word → Word → Word) : Prop :=
  ∀ (s : State) (x : Ctx) (d a : VR) (b : B8) (p : PR), s.ctx? = some x → x.mayIssue false p (regsVV d a b) →
    exec (i d a b p) s = .next (x.lanesGet (x.act p) d fun l => op (x.vr l a) (x.b8 b l) (x.vr l d))

/-- Words of one vector source. -/
def completesVU (i : VR → VR → PR → Instr) (op : Word → Word) : Prop :=
  ∀ (s : State) (x : Ctx) (d a : VR) (p : PR), s.ctx? = some x → x.mayIssue false p [(d.toNat, 1), (a.toNat, 1)] →
    exec (i d a p) s = .next (x.lanesGet (x.act p) d fun l => op (x.vr l a))

/-- Float words of format VV, element by element, where no raised flag traps. -/
def completesFVV (i : VR → VR → B8 → PR → Instr) (op : Fmt → Rm → Bool → Nat → Nat → Nat → Nat × Flags) : Prop :=
  ∀ (s : State) (x : Ctx) (d a : VR) (b : B8) (p : PR), s.ctx? = some x → x.mayIssue false p (regsVV d a b) →
    let f := fun l => perEl x.fmt fun e =>
      op x.fmt x.rm x.c.hdr.fz (el x.fmt (x.vr l a) e) (el x.fmt (x.b8 b l) e) (el x.fmt (x.vr l d) e)
    x.quiet (x.act p) f → exec (i d a b p) s = .next (x.lanesGetF (x.act p) d f)

/-- Float words of one vector source, where no raised flag traps. -/
def completesFVU (i : VR → VR → PR → Instr) (op : Fmt → Rm → Bool → Nat → Nat × Flags) : Prop :=
  ∀ (s : State) (x : Ctx) (d a : VR) (p : PR), s.ctx? = some x → x.mayIssue false p [(d.toNat, 1), (a.toNat, 1)] →
    let f := fun l => perEl x.fmt fun e => op x.fmt x.rm x.c.hdr.fz (el x.fmt (x.vr l a) e)
    x.quiet (x.act p) f → exec (i d a p) s = .next (x.lanesGetF (x.act p) d f)

/-- Scalar words of two operands, executed once by waves and control threads. -/
def completesSS (i : SR → SR → B8 → Instr) (op : DWord → DWord → DWord → DWord) : Prop :=
  ∀ (s : State) (x : Ctx) (d a : SR) (b : B8), s.ctx? = some x → x.mayIssue true 0 [] →
    exec (i d a b) s = .next (x.scalarGets d (op (x.sr a) (x.ss b) (x.sr d)))

/-- Scalar words of one operand. -/
def completesSU (i : SR → B8 → Instr) (op : DWord → DWord) : Prop :=
  ∀ (s : State) (x : Ctx) (d : SR) (b : B8), s.ctx? = some x → x.mayIssue true 0 [] →
    exec (i d b) s = .next (x.scalarGets d (op (x.ss b)))

/-- Scalar float words of two operands and the old destination, where no raised flag traps. -/
def completesSF (i : SR → SR → B8 → Instr) (op : Rm → Bool → Nat → Nat → Nat → Nat × Flags) : Prop :=
  ∀ (s : State) (x : Ctx) (d a : SR) (b : B8), s.ctx? = some x → x.mayIssue true 0 [] →
    let low := fun (v : DWord) => v.toNat % 2 ^ 32
    let r := op x.rm x.c.hdr.fz (low (x.sr a)) (low (x.ss b)) (low (x.sr d))
    x.w.fpe &&& r.2 = 0 → exec (i d a b) s = .next (x.givesFlags r.2 2 [.sreg d.toNat (BitVec.ofNat 64 r.1)])

/-- Scalar float words of one operand, where no raised flag traps. -/
def completesSF1 (i : SR → B8 → Instr) (op : Rm → Bool → Nat → Nat × Flags) : Prop :=
  ∀ (s : State) (x : Ctx) (d : SR) (b : B8), s.ctx? = some x → x.mayIssue true 0 [] →
    let r := op x.rm x.c.hdr.fz ((x.ss b).toNat % 2 ^ 32)
    x.w.fpe &&& r.2 = 0 → exec (i d b) s = .next (x.givesFlags r.2 2 [.sreg d.toNat (BitVec.ofNat 64 r.1)])

/-! ### Variable-latency words -/

/-- The outstanding instruction the word in execution adds: its results, its scoreboard and the lanes it awaits. -/
def Ctx.pendingOp (x : Ctx) (id : Nat) (lanes : Mask) (wait : Wait) (dsts : List (Nat × Dst)) (regs : List Nat) : Op where
  id := id
  sb := x.c.hdr.sb
  lanes := lanes
  dsts := dsts
  wait := wait
  regs := regs
  all := lanes
  pc := x.c.pc
  index := x.c.index
  header := x.c.raw
  word := x.c.word
  done := if wait = .ready then lanes else 0
  handler := (x.w.lane (leader lanes)).handler

/-- A wave with an outstanding instruction added, its scoreboard counted up (R153). -/
def Wave.withOp (w : Wave) (o : Op) : Wave := { w with ops := w.ops ++ [o], sb := w.sb.modify o.sb (· + 1) }

/-- A word whose results arrive later: an outstanding instruction with its values, and one more on its scoreboard. -/
def Ctx.outstanding (x : Ctx) (lanes : Mask) (wait : Wait) (dsts : List (Nat × Dst)) (regs : List Nat) : State :=
  ({ x.s with nextId := x.s.nextId + 1 }).setWave
    ({ (x.w.withOp (x.pendingOp x.s.nextId lanes wait dsts regs)) with clause := some x.c })

/-! ### Words that send requests -/

/-- What a word that only sends requests leaves as it was: registers, scratch, every memory, and the rest of its clause. -/
def Ctx.keeps (x z : Ctx) : Prop :=
  z.w.lanes = x.w.lanes ∧ z.w.s = x.w.s ∧ z.w.id = x.w.id ∧ z.w.fpflags = x.w.fpflags ∧ z.c = x.c ∧ z.s.mem = x.s.mem
  ∧ z.s.ashlars = x.s.ashlars ∧ z.s.dies = x.s.dies ∧ z.s.runs = x.s.runs

/-- The requests that stand for the release actions of a request of the lanes: none, or the one of a release at a scope, which the
request awaits and which awaits every earlier access of its wave's lanes on path L (R102, R106). -/
def Ctx.releases (x : Ctx) (lanes : Mask) (rel : Option Nat) (pre : List Req) (r : Req) : Prop :=
  match rel with
  | none => pre = []
  | some sc => ∃ f, pre = [f] ∧ f.body = .fence true false false sc false ∧ (f.id, lanes) ∈ r.after
      ∧ ∀ q ∈ x.s.reqs, q.wave = x.w.id → q.lanes &&& lanes ≠ 0 → q.path = pathL → q.read = true ∨ q.write = true →
          (q.id, q.lanes) ∈ f.after

/-- One request more, on a path, after its release actions where it is a release at a scope. -/
def Ctx.posts (x z : Ctx) (path : Nat) (lanes : Mask) (rel : Option Nat) (body : ReqBody) : Prop :=
  ∃ pre r, z.s.reqs = x.s.reqs ++ pre ++ [r] ∧ r.body = body ∧ r.path = path ∧ r.lanes = lanes ∧ r.wave = x.w.id
    ∧ x.releases lanes rel pre r

/-- One outstanding instruction more, with no values yet, and its scoreboard counted up. -/
def Ctx.owes (x z : Ctx) (lanes : Mask) (wait : Wait) (regs : List Nat) : Prop :=
  ∃ o, z.w.ops = x.w.ops ++ [o] ∧ z.w.sb = x.w.sb.modify x.c.hdr.sb (· + 1) ∧ o.sb = x.c.hdr.sb ∧ o.lanes = lanes
    ∧ o.wait = wait ∧ o.regs = regs ∧ o.dsts = [] ∧ o.done = 0 ∧ o.word = x.c.word ∧ o.index = x.c.index

/-- A memory access sent: an outstanding instruction with no values yet, and for each part of its lanes, which one thing holds (R100,
R117), the request of those lanes after its release actions. -/
def Ctx.sends (x z : Ctx) (parts : List Mask) (lanes : Mask) (regs : List Nat) (rel : Option Nat) (m : Mask → MemReq) : Prop :=
  ∃ o, z.w.ops = x.w.ops ++ [o] ∧ z.w.sb = x.w.sb.modify x.c.hdr.sb (· + 1) ∧ o.sb = x.c.hdr.sb ∧ o.lanes = lanes
    ∧ o.wait = .request 0 ∧ o.regs = regs ∧ o.dsts = [] ∧ o.done = 0
    ∧ ∃ new : List (Mask × List Req × Req), new.map (·.1) = parts ∧ z.s.reqs = x.s.reqs ++ new.flatMap (fun e => e.2.1 ++ [e.2.2])
      ∧ ∀ e ∈ new, e.2.2.op = some o.id ∧ e.2.2.body = .mem (m e.1) ∧ e.2.2.path = pathL ∧ e.2.2.lanes = e.1 ∧ e.2.2.wave = x.w.id
          ∧ x.releases e.1 rel e.2.1 e.2.2

/-- Which lanes of a weak store are complete as its word ends: all of one to space 3 that awaits nothing, which has left the ashlar
(R209); of one to space 2 where its banks are in service as well (R350). -/
def Ctx.leftBy (x z : Ctx) (space : Nat) (lanes : Mask) : Prop :=
  ∃ o, z.settled.w.ops.getLast? = some o ∧ o.done &&& ~~~lanes = 0
    ∧ ((∀ q ∈ x.s.reqs, q.op ≠ some o.id) → space ≠ 2 → space ≠ 3 → o.done = 0)
    ∧ (space = 3 → x.w.hold = [] → o.done = lanes)

/-- The access of one lane: its address, its bytes, none of them read yet. -/
def laneItem (l addr size : Nat) (data : List Byte) : Item where
  lane := l
  addr := addr
  size := size
  data := data
  got := List.replicate size none
  left := size

/-- Lane accesses in which every lane of Active passes the issue rows of Table 4-3, at the addresses A (R77, R78). -/
def Ctx.reaches (x : Ctx) (m : Mask) (b : BX) (i : VR) (off size : Nat) (write strong : Bool) (A : Nat → Nat) : Prop :=
  ∀ l ∈ lanesOf m, x.s.accessAt x.w (x.w.buf b.toNat) (x.vr l i).toNat off size write strong = .inr (A l)

/-- The request of a part of lane accesses through a buffer record. -/
def Ctx.accessReq (x : Ctx) (m : Mask) (b : BX) (kind : AccKind) (sc : Nat) (dst : LoadDst) (mark : Mask → Bool) (size : Nat)
    (A : Nat → Nat) (data : Nat → List Byte) (part : Mask) : MemReq where
  kind := kind
  space := (x.w.buf b.toNat).space
  sc := sc
  policy := (x.w.buf b.toNat).policy
  short := (x.w.buf b.toNat).short && (x.w.buf b.toNat).space == 0
  dst := dst
  mark := mark part
  items := ((lanesOf m).filter fun l => part.getLsbD l).map fun l => laneItem l (A l) size (data l)

/-- Weak loads of size bytes into n registers. -/
def completesLoad (i : VR → BX → VR → BX → PR → Instr) (size : Nat) (signed : Bool) : Prop :=
  ∀ (s : State) (x : Ctx) (t : VR) (b : BX) (v : VR) (o : BX) (p : PR) (A : Nat → Nat), s.ctx? = some x →
    x.mayIssue false p [(t.toNat, max 1 (size / 4)), (v.toNat, 1)] →
    x.reaches (x.act p) b v o.toNat size false false A →
    ∃ z, exec (i t b v o p) s = .next z.settled.done ∧ x.keeps z
      ∧ x.sends z (x.parts (maskOf (lanesOf (x.act p)))) (maskOf (lanesOf (x.act p)))
          ((List.range (max 1 (size / 4))).map (t.toNat + ·)) none
          (x.accessReq (x.act p) b .load 4 (.vregs t.toNat size signed) (fun _ => false) size A fun _ => [])

/-- Weak stores of size bytes from n registers. -/
def completesStore (i : VR → BX → VR → BX → PR → Instr) (size : Nat) : Prop :=
  ∀ (s : State) (x : Ctx) (t : VR) (b : BX) (v : VR) (o : BX) (p : PR) (A : Nat → Nat), s.ctx? = some x →
    x.mayIssue false p [(t.toNat, max 1 (size / 4)), (v.toNat, 1)] →
    x.reaches (x.act p) b v o.toNat size true false A →
    let m := maskOf (lanesOf (x.act p))
    ∃ z, exec (i t b v o p) s = .next z.settled.done ∧ x.keeps z ∧ x.leftBy z (x.w.buf b.toNat).space m
      ∧ x.sends z (x.parts m) m [] none
          (x.accessReq (x.act p) b .store 4 .none (fun _ => false) size A fun l =>
            (toBytes (4 * max 1 (size / 4)) (x.vrun l t.toNat (max 1 (size / 4)))).take size)

/-- Atomics of size bytes with n operand registers. -/
def completesAtomic (i : VR → BX → VR → PR → BitVec 1 → PR → Instr) (op : AtomOp) (size n : Nat) : Prop :=
  ∀ (s : State) (x : Ctx) (t : VR) (b : BX) (v : VR) (sc : PR) (r : BitVec 1) (p : PR) (A : Nat → Nat), s.ctx? = some x →
    x.mayIssue false p [(t.toNat, n), (v.toNat, 1)] → x.reaches (x.act p) b v 0 size true true A →
    ∃ z, exec (i t b v sc r p) s = .next z.settled.done ∧ x.keeps z
      ∧ x.sends z (x.parts (maskOf (lanesOf (x.act p)))) (maskOf (lanesOf (x.act p)))
          (if r = 1 then (List.range (size / 4)).map (t.toNat + ·) else []) none
          (x.accessReq (x.act p) b (.atomic op) sc.toNat (if r = 1 then .vregs t.toNat size false else .none)
            (fun part => x.marks part sc.toNat false) size A
            fun l => toBytes (4 * n) (x.vrun l t.toNat n))

/-! ### Events -/

/-- An instruction answers a next state with a property. -/
def answers (i : Instr) (s : State) (P : State → Prop) : Prop := ∃ t, exec i s = .next t ∧ P t

/-- A wave with a property stands under a number. -/
def State.waveHas (s : State) (id : Nat) (P : Wave → Prop) : Prop := ∃ w, s.wave? id = some w ∧ P w

/-- A run with a property is live under a number. -/
def State.runHas (s : State) (id : Nat) (P : Run → Prop) : Prop := ∃ r, s.run? id = some r ∧ P r

/-! ### Every memory in canonical form -/

/-- The canonical form of physical memory. -/
def State.memOk (s : State) : Prop := s.mem.wf = true

end Sys2Proof.Machine
end

