-- ==== Sys2Proof/Certificates/Slice0/Obligations.lean ====
section
/-! DEFINITION. The statements about the machine that the provers prove. -/

open Sys2Proof Sys2Proof.Machine

/-- Integer words of format VV (R200): each lane of Active gets op(a, c, old d), four indices later, and nothing else of
the machine changes. -/
def Obligations.VectorIntegerResults : Prop :=
  completesVV .iadd (fun a c _ => BitVec.ofNat 32 (a.toNat + c.toNat))
  ∧ completesVV .isub (fun a c _ => BitVec.ofInt 32 ((a.toNat : Int) - c.toNat))
  ∧ completesVV .imul (fun a c _ => BitVec.ofInt 32 (a.toInt * c.toInt))
  ∧ completesVV .imulhi (fun a c _ => BitVec.ofInt 32 (a.toInt * c.toInt / 2 ^ 32))
  ∧ completesVV .umulhi (fun a c _ => BitVec.ofNat 32 (a.toNat * c.toNat / 2 ^ 32))
  ∧ completesVV .imad (fun a c d => BitVec.ofNat 32 (a.toNat * c.toNat + d.toNat))
  ∧ completesVV .imin (fun a c _ => if a.toInt ≤ c.toInt then a else c)
  ∧ completesVV .imax (fun a c _ => if a.toInt ≤ c.toInt then c else a)
  ∧ completesVV .umin (fun a c _ => if a.toNat ≤ c.toNat then a else c)
  ∧ completesVV .umax (fun a c _ => if a.toNat ≤ c.toNat then c else a)
  ∧ completesVV .vand (fun a c _ => a &&& c)
  ∧ completesVV .vor (fun a c _ => a ||| c)
  ∧ completesVV .vxor (fun a c _ => a ^^^ c)
  ∧ completesVV .andn (fun a c _ => a &&& ~~~c)
  ∧ completesVV .shl (fun a c _ => BitVec.ofNat 32 (a.toNat * 2 ^ (c.toNat % 32)))
  ∧ completesVV .shr (fun a c _ => BitVec.ofNat 32 (a.toNat / 2 ^ (c.toNat % 32)))
  ∧ completesVV .sar (fun a c _ => BitVec.ofInt 32 (a.toInt / 2 ^ (c.toNat % 32)))

/-- Integer words of one source and with an immediate, bit fields and the byte dot product (R200, R201, Table 9-9): BFE takes
w = min(c[13:8], 32 − o) bits at o = c[4:0], sign-extended where c[15] is set; BFI puts the low w bits of a at o into the old d;
IDOT4 adds four signed byte products to the old d. -/
def Obligations.VectorFieldAndUnaryResults : Prop :=
  completesVV .bfe (fun a c _ =>
    let o := c.toNat % 32
    let w := min (c.toNat / 256 % 64) (32 - o)
    bits32 fun i =>
      if i < w then a.getLsbD (o + i) else c.getLsbD 15 && decide (0 < w) && a.getLsbD (o + w - 1))
  ∧ completesVV .bfi (fun a c d =>
    let o := c.toNat % 32
    let w := min (c.toNat / 256 % 64) (32 - o)
    bits32 fun i => if o ≤ i ∧ i < o + w then a.getLsbD (i - o) else d.getLsbD i)
  ∧ completesVV .idot4 (fun a c d =>
    let b := fun (x : Word) (i : Nat) => (x.extractLsb' (8 * i) 8).toInt
    BitVec.ofInt 32 (d.toInt + b a 0 * b c 0 + b a 1 * b c 1 + b a 2 * b c 2 + b a 3 * b c 3))
  ∧ (∀ (s : State) (x : Ctx) (d a : VR) (i : B8) (p : PR), s.ctx? = some x →
    x.mayIssue false p [(d.toNat, 1), (a.toNat, 1)] →
    exec (.iaddi d a i p) s = .next (x.lanesGet (x.act p) d fun l => BitVec.ofInt 32 ((x.vr l a).toInt + i.toInt))
    ∧ exec (.andi d a i p) s = .next (x.lanesGet (x.act p) d fun l => x.vr l a &&& BitVec.ofNat 32 i.toNat))
  ∧ (∀ (s : State) (x : Ctx) (d a : VR) (n : BitVec 5) (p : PR), s.ctx? = some x →
    x.mayIssue false p [(d.toNat, 1), (a.toNat, 1)] →
    exec (.shli d a n p) s = .next (x.lanesGet (x.act p) d fun l => BitVec.ofNat 32 ((x.vr l a).toNat * 2 ^ n.toNat))
    ∧ exec (.shri d a n p) s = .next (x.lanesGet (x.act p) d fun l => BitVec.ofNat 32 ((x.vr l a).toNat / 2 ^ n.toNat))
    ∧ exec (.sari d a n p) s = .next (x.lanesGet (x.act p) d fun l => BitVec.ofInt 32 ((x.vr l a).toInt / 2 ^ n.toNat))
    ∧ exec (.rotri d a n p) s = .next (x.lanesGet (x.act p) d fun l =>
        bits32 fun i => (x.vr l a).getLsbD ((i + n.toNat) % 32)))
  ∧ completesVU .popc (fun a => BitVec.ofNat 32 ((List.range 32).countP a.getLsbD))
  ∧ completesVU .clz (fun a => BitVec.ofNat 32 (((List.range 32).find? fun i => a.getLsbD (31 - i)).getD 32))
  ∧ completesVU .ctz (fun a => BitVec.ofNat 32 (((List.range 32).find? fun i => a.getLsbD i).getD 32))
  ∧ completesVU .brev (fun a => bits32 fun i => a.getLsbD (31 - i))
  ∧ completesVU .iabs (fun a => BitVec.ofInt 32 (if a.toInt < 0 then -a.toInt else a.toInt))
  ∧ completesVU .ineg (fun a => BitVec.ofInt 32 (-a.toInt))
  ∧ completesVU .bswap (fun a => a.extractLsb' 0 8 ++ a.extractLsb' 8 8 ++ a.extractLsb' 16 8 ++ a.extractLsb' 24 8)

/-- Predicate words, comparisons and moves (R197, R203, R204, R320): ICMP and the predicate words write pd in each lane of
Active, TPRED the mask of the wave's latest delivery; VMOV and VSHFL move bits.
Where the spec leaves a point open, the model's choice stands: log entry 22. -/
def Obligations.PredicateAndMoveResults : Prop :=
  (∀ (s : State) (x : Ctx) (d : PR) (c : BX) (a : VR) (b : B8) (p : PR), s.ctx? = some x →
    x.mayIssue false p ((a.toNat, 1) :: b8Regs b) → c.toNat < 10 →
    exec (.icmp d c a b p) s = .next (x.lanesGetP (x.act p) d fun l =>
      let u := x.vr l a
      let v := x.b8 b l
      [decide (u = v), decide (u ≠ v), decide (u.toInt < v.toInt), decide (u.toInt ≤ v.toInt), decide (v.toInt < u.toInt),
       decide (v.toInt ≤ u.toInt), decide (u.toNat < v.toNat), decide (u.toNat ≤ v.toNat), decide (v.toNat < u.toNat),
       decide (v.toNat ≤ u.toNat)].getD c.toNat false))
  ∧ (∀ (s : State) (x : Ctx) (d a b p : PR), s.ctx? = some x → x.mayIssue false p [] →
    let P := fun (l : Nat) (n : PR) => x.w.pred l n.toNat
    exec (.pand d a b p) s = .next (x.lanesGetP (x.act p) d fun l => P l a && P l b)
    ∧ exec (.por d a b p) s = .next (x.lanesGetP (x.act p) d fun l => P l a || P l b)
    ∧ exec (.pxor d a b p) s = .next (x.lanesGetP (x.act p) d fun l => P l a != P l b)
    ∧ exec (.pnot d a p) s = .next (x.lanesGetP (x.act p) d fun l => !P l a)
    ∧ exec (.pmov d a p) s = .next (x.lanesGetP (x.act p) d fun l => P l a)
    ∧ exec (.pset d p) s = .next (x.lanesGetP (x.act p) d fun _ => true)
    ∧ exec (.pclr d p) s = .next (x.lanesGetP (x.act p) d fun _ => false)
    ∧ exec (.pleader d a p) s = .next (x.lanesGetP (x.act p) d fun l =>
        decide ((lanesOf (x.act p)).find? (fun k => P k a) = some l))
    ∧ exec (.tpred d p) s = .next (x.lanesGetP (x.act p) d fun l => x.w.lastMask.getLsbD l))
  ∧ (∀ (s : State) (x : Ctx) (d : VR) (b : B8) (p : PR), s.ctx? = some x → x.mayIssue false p ((d.toNat, 1) :: b8Regs b) →
    exec (.vmov d b p) s = .next (x.lanesGet (x.act p) d fun l => x.b8 b l))
  ∧ (∀ (s : State) (x : Ctx) (d a : VR) (b : B8) (p : PR), s.ctx? = some x → x.mayIssue false p (regsVV d a b) →
    exec (.vshfl d a b p) s = .next (x.lanesGet (x.act p) d fun l => x.vr ((x.b8 b l).toNat % x.w.width) a))

/-- Cross-lane words (R141, R205): reductions and scans run over the lanes of Active, in lane order, and every lane of Active
gets the result; the float forms are stated where no raised flag traps. -/
def Obligations.CrossLaneResults : Prop :=
  (∀ (s : State) (x : Ctx) (d : VR) (p : PR), s.ctx? = some x → x.mayIssue false p [(d.toNat, 1)] →
    exec (.laneid d p) s = .next (x.lanesGet (x.act p) d fun l => BitVec.ofNat 32 l))
  ∧ (∀ (s : State) (x : Ctx) (d a : VR) (k p : PR), s.ctx? = some x → x.mayIssue false p [(d.toNat, 1), (a.toNat, 1)] →
    let m := x.act p
    let V := fun l => x.vr l a
    exec (.redAdd d a p) s = .next (x.lanesGet m d fun _ => BitVec.ofNat 32 (((lanesOf m).map fun l => (V l).toNat).sum))
    ∧ exec (.bcast d a p) s = .next (x.lanesGet m d fun _ => V (x.lead p))
    ∧ exec (.scanAdd d a k p) s = .next (x.lanesGet m d fun l => BitVec.ofNat 32
        (((lanesOf m).filter fun j => decide (j < l) || (decide (k = 0) && j == l)).map fun j => (V j).toNat).sum)
    ∧ exec (.ballot d a k p) s = .next (x.lanesGet m d fun _ => bits32 fun i =>
        decide (32 * k.toNat + i < 64 ∧ m.getLsbD (32 * k.toNat + i) = true ∧ V (32 * k.toNat + i) ≠ 0))
    ∧ (k.toNat < 2 → ∃ u v : Word,
        exec (.redMin d a k p) s = .next (x.lanesGet m d fun _ => u) ∧ exec (.redMax d a k p) s = .next (x.lanesGet m d fun _ => v)
        ∧ u ∈ (lanesOf m).map V ∧ v ∈ (lanesOf m).map V
        ∧ ∀ l ∈ lanesOf m, if k = 0 then u.toInt ≤ (V l).toInt ∧ (V l).toInt ≤ v.toInt else u.toNat ≤ (V l).toNat ∧ (V l).toNat ≤ v.toNat)
    ∧ (let f := floatReduce x m a (x.fmt.minmax x.c.hdr.fz false)
       x.w.fpe &&& f.2 = 0 → exec (.redMin d a 2 p) s = .next (x.lanesGetF m d fun _ => f))
    ∧ (let f := floatReduce x m a (x.fmt.minmax x.c.hdr.fz true)
       x.w.fpe &&& f.2 = 0 → exec (.redMax d a 2 p) s = .next (x.lanesGetF m d fun _ => f))
    ∧ (let f := floatReduce x m a (x.fmt.add x.rm x.c.hdr.fz false)
       x.w.fpe &&& f.2 = 0 → exec (.redFadd d a p) s = .next (x.lanesGetF m d fun _ => f)))

/-- Registers named by a value (R206): with n = v[va] + imm8 in each lane, VRDI writes v[n] to vd and VWRI writes vd to v[n],
four indices later, where n lies below REGS in every lane of Active; lanes where it does not fault REGISTER INDEX, have no
register written, and the other lanes complete. -/
def Obligations.IndirectRegisterResults : Prop :=
  (∀ (s : State) (x : Ctx) (d a : VR) (i : B8) (p : PR), s.ctx? = some x → x.mayIssue false p [(d.toNat, 1), (a.toNat, 1)] →
    (∀ l ∈ lanesOf (x.act p), (x.vr l a).toNat + i.toNat < x.w.regs) →
    exec (.vrdi d a i p) s = .next (x.lanesGet (x.act p) d fun l => x.w.vreg l ((x.vr l a).toNat + i.toNat)))
  ∧ (∀ (s : State) (x : Ctx) (d a : VR) (i : B8) (p : PR), s.ctx? = some x → x.mayIssue false p [(d.toNat, 1), (a.toNat, 1)] →
    (∀ l ∈ lanesOf (x.act p), (x.vr l a).toNat + i.toNat < x.w.regs) →
    exec (.vwri d a i p) s =
      .next (x.gives 4 ((lanesOf (x.act p)).map fun l => .vreg l ((x.vr l a).toNat + i.toNat) (x.vr l d))))
  ∧ (∀ (s : State) (x : Ctx) (d a : VR) (i : B8) (p : PR), s.ctx? = some x → x.mayIssue false p [(d.toNat, 1), (a.toNat, 1)] →
    let n := fun l => (x.vr l a).toNat + i.toNat
    let good := (lanesOf (x.act p)).filter fun l => decide (n l < x.w.regs)
    let bad := (lanesOf (x.act p)).filter fun l => decide (x.w.regs ≤ n l)
    let run := fun (j : Instr) (out : Nat → Dst) => ∃ t w c, exec j s = .next t ∧ t.wave? x.w.id = some w ∧ w.clause = some c
      ∧ c.out = x.c.out ||| maskOf bad ∧ c.pend = x.c.pend ++ good.map (fun l => (PWrite.mk (x.c.index + 4) (out l)))
      ∧ ∀ l, if l ∈ bad ∧ l < x.w.lanesN then w.faultAt x l 4 0 0 ∧ (w.lane l).v = (x.w.lane l).v
          else l ∉ bad → w.lane l = x.w.lane l
    bad ≠ [] → run (.vrdi d a i p) (fun l => .vreg l d.toNat (x.w.vreg l (n l)))
      ∧ run (.vwri d a i p) (fun l => .vreg l (n l) (x.vr l d)))

/-- SEL (R202): every lane of the issuing subgroup writes vd, with va where the predicate holds and the second source elsewhere; with
pr = 0 every lane gets va. -/
def Obligations.SelectResult : Prop :=
  ∀ (s : State) (x : Ctx) (d a : VR) (b : B8) (p : PR), s.ctx? = some x → x.mayIssue false 0 (regsVV d a b) →
    exec (.sel d a b p) s = .next (x.lanesGet x.live d fun l => if p = 0 ∨ (x.w.lane l).p.getLsbD p.toNat = true then x.vr l a else x.b8 b l)
    ∧ exec (.sel d a b 0) s = .next (x.lanesGet x.live d fun l => x.vr l a)

/-- Float words (R132, R133, R193, R195, R196): each lane of Active gets the operation of the clause's type on each element,
with its flags raised in %fpflags, where no raised flag is one that traps.
Where the spec leaves a point open, the model's choice stands: log entry 18. -/
def Obligations.VectorFloatResults : Prop :=
  completesFVV .fadd (fun f rm fz a c _ => f.add rm fz false a c)
  ∧ completesFVV .fsub (fun f rm fz a c _ => f.add rm fz true a c)
  ∧ completesFVV .fmul (fun f rm fz a c _ => f.mul rm fz a c)
  ∧ completesFVV .ffma (fun f rm fz a c d => f.fma rm fz false a c d)
  ∧ completesFVV .ffnma (fun f rm fz a c d => f.fma rm fz true a c d)
  ∧ completesFVV .fmin (fun f _ fz a c _ => f.minmax fz false a c)
  ∧ completesFVV .fmax (fun f _ fz a c _ => f.minmax fz true a c)
  ∧ completesFVV .fscale (fun f rm fz a c _ => f.scale rm fz a (BitVec.ofNat (if f = .f32 then 32 else 16) c).toInt)
  ∧ completesFVV .fcopysign (fun f _ _ a c _ => (a % f.signBit + c / f.signBit % 2 * f.signBit, 0))
  ∧ completesFVU .floor (fun f _ fz a => f.toIntegral .rdn false fz a)
  ∧ completesFVU .ceil (fun f _ fz a => f.toIntegral .rup false fz a)
  ∧ completesFVU .trunc (fun f _ fz a => f.toIntegral .rtz false fz a)
  ∧ completesFVU .rint (fun f rm fz a => f.toIntegral rm true fz a)
  ∧ completesFVU .fract (fun f _ fz a => f.fract fz a)
  ∧ completesFVU .fabs (fun f _ _ a => (a % f.signBit, 0))
  ∧ completesFVU .fneg (fun f _ _ a => ((a + f.signBit) % (2 * f.signBit), 0))
  ∧ completesFVU .fclass (fun f _ _ a => (f.classify a, 0))
  ∧ completesFVU .fsat (fun f _ fz a => f.sat fz a)

/-- Pair words and conversions (R133, R137, R198, R199) and FCMP (R197). FDOT2 and CVTPK need a pair type; CVT writes its
narrow results into a field of the old d at the position of aux.
Where the spec leaves a point open, the model's choice stands: log entries 18 and 71. -/
def Obligations.FloatPairAndCompareResults : Prop :=
  (∀ (s : State) (x : Ctx) (d a : VR) (b : B8) (p : PR), s.ctx? = some x → x.mayIssue false p (regsVV d a b) →
    x.c.hdr.vt ≠ 0 →
    let f := fun l =>
      let r := x.fmt.dot2 x.rm x.c.hdr.fz (el x.fmt (x.vr l a) 0) (el x.fmt (x.vr l a) 1) (el x.fmt (x.b8 b l) 0)
        (el x.fmt (x.b8 b l) 1) (x.vr l d).toNat
      (BitVec.ofNat 32 r.1, r.2)
    let g := fun l =>
      let r0 := convFloat .f32 x.fmt x.rm x.c.hdr.fz false (x.vr l a).toNat
      let r1 := convFloat .f32 x.fmt x.rm x.c.hdr.fz false (x.b8 b l).toNat
      (BitVec.ofNat 32 (r0.1 + r1.1 * 2 ^ 16), r0.2 ||| r1.2)
    (x.quiet (x.act p) f → exec (.fdot2 d a b p) s = .next (x.lanesGetF (x.act p) d f))
    ∧ (x.quiet (x.act p) g → exec (.cvtpk d a b p) s = .next (x.lanesGetF (x.act p) d g)))
  ∧ (∀ (s : State) (x : Ctx) (d : PR) (c : BX) (a : VR) (b : B8) (p : PR), s.ctx? = some x →
    x.mayIssue false p ((a.toNat, 1) :: b8Regs b) →
    let cmp := fun l e => x.fmt.compare x.c.hdr.fz c.toNat (el x.fmt (x.vr l a) e) (el x.fmt (x.b8 b l) e)
    let f := fun l => if x.fmt = .f32 then cmp l 0 else ((cmp l 0).1 && (cmp l 1).1, (cmp l 0).2 ||| (cmp l 1).2)
    (∀ l ∈ lanesOf (x.act p), x.w.fpe &&& (f l).2 = 0) →
    exec (.fcmp d c a b p) s = .next (x.givesFlags ((lanesOf (x.act p)).foldl (fun g l => g ||| (f l).2) 0) 2
      ((lanesOf (x.act p)).map fun l => .pred l d.toNat (f l).1)))
  ∧ (∀ (s : State) (x : Ctx) (d a : VR) (c : BitVec 5) (k p : PR), s.ctx? = some x →
    x.mayIssue false p [(d.toNat, 1), (a.toNat, 1)] →
    let pos := k.toNat / 2
    let (n, fromField, toField) := cvtField c.toNat
    let f := fun l =>
      let v := (x.vr l a).toNat
      let r := convert c.toNat x.rm x.c.hdr.fz (k.getLsbD 0) (if fromField then v / 2 ^ (n * pos) % 2 ^ n else v)
      (BitVec.ofNat 32 (if toField then placeField (x.vr l d).toNat r.1 n pos else r.1), r.2)
    x.quiet (x.act p) f → exec (.cvt d a c k p) s = .next (x.lanesGetF (x.act p) d f))

/-- The lane result of a special function: of an F32 value, or of each element of a pair (R134, R194).
Where the spec leaves a point open, the model's choice stands: log entry 70 (the flags of an exact subnormal result). -/
def Obligations.SpecialFunctionResults : Prop :=
  ∀ (s : State) (x : Ctx) (d a : VR) (p : PR), s.ctx? = some x → x.mayIssue false p [(d.toNat, 1), (a.toNat, 1)] →
    let run := fun (i : Instr) (f : Sfu) =>
      let r := fun l => if x.fmt = .f32 then
          (BitVec.ofNat 32 (f.f32 x.rm x.c.hdr.fz (x.vr l a).toNat).1, (f.f32 x.rm x.c.hdr.fz (x.vr l a).toNat).2)
        else perEl x.fmt fun e => f.half x.fmt x.rm x.c.hdr.fz (el x.fmt (x.vr l a) e)
      x.quiet (x.act p) r → ∃ t w : _, exec i s = .next t ∧ t.wave? x.w.id = some w
        ∧ w.fpflags = x.w.fpflags ||| unionFlags (x.act p) r
        ∧ w.sb = x.w.sb.modify x.c.hdr.sb (· + 1)
        ∧ (∃ o, w.ops = x.w.ops ++ [o] ∧ o.sb = x.c.hdr.sb ∧ o.wait = .ready ∧ o.lanes = maskOf (lanesOf (x.act p))
          ∧ o.dsts = (lanesOf (x.act p)).map fun l => (l, .vreg l d.toNat (r l).1))
        ∧ w.lanes = x.w.lanes ∧ t.mem = s.mem ∧ t.reqs = s.reqs
    run (.rcp d a p) .rcp ∧ run (.rsq d a p) .rsq ∧ run (.sqrt d a p) .sqrt ∧ run (.exp2 d a p) .exp2
      ∧ run (.log2 d a p) .log2 ∧ run (.sin d a p) .sin ∧ run (.cos d a p) .cos ∧ run (.tanh d a p) .tanh

/-- FADD, for the float words, with lanes that raise flags that %trapen.FPE enables (R310, Table 16-1): those lanes leave the subgroup with a
FLOATING POINT fault that holds the flags, write nothing, and every flag raised is in %fpflags.
Where the spec leaves a point open, the model's choice stands: log entry 18. -/
def Obligations.FloatTrap : Prop :=
  ∀ (s : State) (x : Ctx) (d a : VR) (b : B8) (p : PR), s.ctx? = some x → x.mayIssue false p (regsVV d a b) →
    let f := fun l => perEl x.fmt fun e =>
      x.fmt.add x.rm x.c.hdr.fz false (el x.fmt (x.vr l a) e) (el x.fmt (x.b8 b l) e)
    let bad := (lanesOf (x.act p)).filter fun l => x.w.fpe &&& (f l).2 != 0
    bad ≠ [] → ∃ t w c, exec (.fadd d a b p) s = .next t ∧ t.wave? x.w.id = some w ∧ w.clause = some c
      ∧ c.out = x.c.out ||| maskOf bad ∧ w.fpflags = x.w.fpflags ||| unionFlags (x.act p) f
      ∧ c.pend = x.c.pend ++ ((lanesOf (x.act p)).filter fun l => x.w.fpe &&& (f l).2 == 0).map (fun l =>
          (PWrite.mk (x.c.index + 4) (.vreg l d.toNat (f l).1)))
      ∧ ∀ l ∈ bad, l < x.w.lanesN → ∃ g, (w.lane l).fault = some g ∧ g.cls = 10 ∧ g.raised = (f l).2 ∧ g.index = x.c.index
          ∧ g.late = false

/-- Scalar integer words (R172, R173): executed once, by waves and control threads, on 64-bit values; the result is seen two
indices later. -/
def Obligations.ScalarIntegerResults : Prop :=
  completesSS .sadd (fun a b _ => BitVec.ofNat 64 (a.toNat + b.toNat))
  ∧ completesSS .ssub (fun a b _ => BitVec.ofInt 64 ((a.toNat : Int) - b.toNat))
  ∧ completesSS .smul (fun a b _ => BitVec.ofNat 64 (a.toNat * b.toNat))
  ∧ completesSS .smulhi (fun a b _ => BitVec.ofInt 64 (a.toInt * b.toInt / 2 ^ 64))
  ∧ completesSS .sumulhi (fun a b _ => BitVec.ofNat 64 (a.toNat * b.toNat / 2 ^ 64))
  ∧ completesSS .sand (fun a b _ => a &&& b)
  ∧ completesSS .sor (fun a b _ => a ||| b)
  ∧ completesSS .sxor (fun a b _ => a ^^^ b)
  ∧ completesSS .sandn (fun a b _ => a &&& ~~~b)
  ∧ completesSS .sshl (fun a b _ => BitVec.ofNat 64 (a.toNat * 2 ^ (b.toNat % 64)))
  ∧ completesSS .sshr (fun a b _ => BitVec.ofNat 64 (a.toNat / 2 ^ (b.toNat % 64)))
  ∧ completesSS .ssar (fun a b _ => BitVec.ofInt 64 (a.toInt / 2 ^ (b.toNat % 64)))
  ∧ completesSS .smin (fun a b _ => if a.toInt ≤ b.toInt then a else b)
  ∧ completesSS .smax (fun a b _ => if a.toInt ≤ b.toInt then b else a)
  ∧ completesSS .sumin (fun a b _ => if a.toNat ≤ b.toNat then a else b)
  ∧ completesSS .sumax (fun a b _ => if a.toNat ≤ b.toNat then b else a)
  ∧ completesSU .smov (fun b => b)
  ∧ completesSU .snot (fun b => ~~~b)
  ∧ completesSU .sclz (fun b => BitVec.ofNat 64 (((List.range 64).find? fun i => b.getLsbD (63 - i)).getD 64))
  ∧ completesSU .sctz (fun b => BitVec.ofNat 64 (((List.range 64).find? fun i => b.getLsbD i).getD 64))
  ∧ completesSU .spopc (fun b => BitVec.ofNat 64 ((List.range 64).countP b.getLsbD))
  ∧ completesSS .sbfe (fun a b _ =>
      let o := b.toNat % 64
      BitVec.ofNat 64 (a.toNat / 2 ^ o % 2 ^ min (b.toNat / 256 % 128) (64 - o)))
  ∧ completesSU .ssext32 (fun b => BitVec.ofInt 64 (b.extractLsb' 0 32).toInt)
  ∧ completesSU .szext32 (fun b => BitVec.ofNat 64 (b.toNat % 2 ^ 32))
  ∧ completesSS .sseq (fun a b _ => if a = b then 1 else 0)
  ∧ completesSS .sne (fun a b _ => if a = b then 0 else 1)
  ∧ completesSS .slt (fun a b _ => if a.toInt < b.toInt then 1 else 0)
  ∧ completesSS .sle (fun a b _ => if a.toInt ≤ b.toInt then 1 else 0)
  ∧ completesSS .sltu (fun a b _ => if a.toNat < b.toNat then 1 else 0)
  ∧ completesSS .sleu (fun a b _ => if a.toNat ≤ b.toNat then 1 else 0)
  ∧ completesSS .ssel (fun a b d => if d = 0 then b else a)

/-- Scalar division (R174, Table 8-4): the quotient is truncated towards zero and the remainder has the sign of the dividend; a
divisor of zero gives all ones and the dividend; −2^63 by −1 gives −2^63 and 0. The result arrives later. -/
def Obligations.ScalarDivisionResults : Prop :=
  ∀ (s : State) (x : Ctx) (d a : SR) (b : B8), s.ctx? = some x → x.mayIssue true 0 [] →
    let u := x.sr a
    let v := x.ss b
    let run := fun (i : Instr) (r : DWord) =>
      exec i s = .next (x.outstanding x.live .ready [(leader x.live, .sreg d.toNat r)] [128 + d.toNat])
    run (.sdiv d a b) (if v = 0 then BitVec.ofInt 64 (-1) else BitVec.ofInt 64 (u.toInt.tdiv v.toInt))
    ∧ run (.srem d a b) (if v = 0 then u else BitVec.ofInt 64 (u.toInt.tmod v.toInt))
    ∧ run (.sdivu d a b) (if v = 0 then BitVec.ofInt 64 (-1) else BitVec.ofNat 64 (u.toNat / v.toNat))
    ∧ run (.sremu d a b) (if v = 0 then u else BitVec.ofNat 64 (u.toNat % v.toNat))

/-- Scalar float words (R134, R140, R175), where no raised flag traps. That SFCVTFI reads a subnormal input as zero with FZ is
log entry 71; the flags of SFRCP with an exact subnormal result are log entry 70. -/
def Obligations.ScalarFloatResults : Prop :=
  completesSF .sfadd (fun rm fz a c _ => Fmt.f32.add rm fz false a c)
  ∧ completesSF .sfsub (fun rm fz a c _ => Fmt.f32.add rm fz true a c)
  ∧ completesSF .sfmul (fun rm fz a c _ => Fmt.f32.mul rm fz a c)
  ∧ completesSF .sffma (fun rm fz a c d => Fmt.f32.fma rm fz false a c d)
  ∧ completesSF .sfmin (fun _ fz a c _ => Fmt.f32.minmax fz false a c)
  ∧ completesSF .sfmax (fun _ fz a c _ => Fmt.f32.minmax fz true a c)
  ∧ completesSF .sflt (fun _ fz a c _ => (if (Fmt.f32.compare fz 2 a c).1 then 1 else 0, (Fmt.f32.compare fz 2 a c).2))
  ∧ completesSF .sfeq (fun _ fz a c _ => (if (Fmt.f32.compare fz 0 a c).1 then 1 else 0, (Fmt.f32.compare fz 0 a c).2))
  ∧ completesSF1 .sfcvtfi (fun rm fz v =>
      ((BitVec.ofInt 64 (BitVec.ofNat 32 (convToInt true rm fz false v).1).toInt).toNat, (convToInt true rm fz false v).2))
  ∧ completesSF1 .sfcvtif (fun rm _ v => convFromInt true rm v)
  ∧ completesSF1 .sfrcp (fun rm fz v => Sfu.rcp.f32 rm fz v)

/-- Special registers (R177, R333): SGET reads a register as it stands, SREADV one lane's vector register and SREADP one
predicate of every lane; an SSET of a writable number is recorded for the end of its clause (R152) and one of a read-only number
changes nothing; a word with an SSET of a reserved number is an illegal encoding, which the decoder refuses.
Where the spec leaves a point open, the model's choice stands: log entries 23 and 68. -/
def Obligations.SpecialRegisterResults : Prop :=
  (∀ (s : State) (x : Ctx) (d : SR) (n : B8), s.ctx? = some x → x.mayIssue true 0 [] →
    (¬ (0x10 ≤ n.toNat ∧ n.toNat < 0x18 ∧ n.toNat % 2 = 1) → exec (.sget d n) s = .next (x.scalarGets d (x.special n.toNat)))
    ∧ (0x10 ≤ n.toNat ∧ n.toNat < 0x18 ∧ n.toNat % 2 = 1 →
        exec (.sget d n) s = .next ({ x with s := s.acquireAt x.w.ashlar 4 }.scalarGets d (x.special n.toNat))))
  ∧ (∀ (s : State) (x : Ctx) (a : SR) (n : B8), s.ctx? = some x → x.mayIssue true 0 [] →
    (rsNumber n.toNat = true → x.sys = true) → reservedSpecial n.toNat = false →
    exec (.sset a n) s = .next (if writable n.toNat then
        x.s.setWave { x.w with clause := some { x.c with specials := x.c.specials ++ [(n.toNat, x.sr a)] } }
      else x.s.setWave { x.w with clause := some x.c }))
  ∧ (∀ (a : SR) (n : B8), reservedSpecial n.toNat = true → decode (encode (.sset a n)) = .error .operandRange)
  ∧ (∀ (s : State) (x : Ctx) (d a : SR) (v : B8), s.ctx? = some x → x.mayIssue false 0 [(v.toNat, 1)] →
    exec (.sreadv d a v) s = .next (x.scalarGets d
      (let l := (x.sr a).toNat % 64
       if l < x.w.width then BitVec.ofNat 64 (x.w.vreg l v.toNat).toNat else 0)))
  ∧ (∀ (s : State) (x : Ctx) (d : SR) (n : B8), s.ctx? = some x → x.mayIssue false 0 [] →
    exec (.sreadp d n) s = .next (x.scalarGets d (maskOf ((List.range x.w.width).filter fun l => x.w.pred l n.toNat))))

/-- SBYTE (R176): s[sd] shifted left by 8 with the raw byte below it, two indices later; its sa and sub5 fields are 0; and eight of
them, each reading the one before, set any 64-bit value. -/
def Obligations.SbyteResult : Prop :=
  (∀ (s : State) (x : Ctx) (d : SR) (b : B8), s.ctx? = some x → x.mayIssue true 0 [] →
    exec (.sbyte d b) s = .next (x.scalarGets d ((x.sr d <<< 8) ||| b.setWidth 64)))
  ∧ (∀ w : Word, w.toNat / 2 ^ 25 = 0x55 →
    decode w = if w.toNat % 2 ^ 5 = 0 ∧ w.toNat / 2 ^ 13 % 2 ^ 6 = 0 then .ok (.sbyte (w.extractLsb' 19 6) (w.extractLsb' 5 8))
      else .error .mustBeZero)
  ∧ (∀ (d : SR) (b : B8), isVariable (.sbyte d b) = false)
  ∧ (∀ old v : DWord, (List.range 8).foldl (fun (x : DWord) i => (x <<< 8) ||| (v.extractLsb' (56 - 8 * i) 8).setWidth 64) old = v)

/-- Lane loads and stores (R208, R209): where every lane of Active passes the checks at issue, requests go out with
each lane's address and, for a store, the low bytes of its registers, one for each part of the lanes that the same fences and acquires
hold (R100); a load's registers are owed. No memory is written yet; a store to space 3, and one to space 2, may be complete as it
leaves. -/
def Obligations.LaneLoadsAndStores : Prop :=
  completesLoad .ldb 1 false ∧ completesLoad .ldsb 1 true ∧ completesLoad .ldh 2 false ∧ completesLoad .ldsh 2 true
  ∧ completesLoad .ldw 4 false ∧ completesLoad .ldw2 8 false ∧ completesLoad .ldw4 16 false
  ∧ completesStore .stb 1 ∧ completesStore .sth 2 ∧ completesStore .stw 4 ∧ completesStore .stw2 8 ∧ completesStore .stw4 16

/-- Lanes whose address fails a check at issue (R80, R310, Table 4-3): they alone fault, with the class of the first row that
applies and their address; the others' access goes out. Stated of LDW for at least one lane of each kind.
Where the spec leaves a point open, the model's choice stands: log entry 20. -/
def Obligations.LaneAccessFaults : Prop :=
  ∀ (s : State) (x : Ctx) (t : VR) (b : BX) (v : VR) (o : BX) (p : PR), s.ctx? = some x →
    x.mayIssue false p [(t.toNat, 1), (v.toNat, 1)] →
    let acc := fun l => s.accessAt x.w (x.w.buf b.toNat) (x.vr l v).toNat o.toNat 4 false false
    let bad := (lanesOf (x.act p)).filter fun l => (acc l).isLeft
    let good := (lanesOf (x.act p)).filter fun l => (acc l).isRight
    bad ≠ [] → good ≠ [] → ∃ u w c, exec (.ldw t b v o p) s = .next u ∧ u.wave? x.w.id = some w ∧ w.clause = some c
      ∧ c.out = x.c.out ||| maskOf bad
      ∧ (∃ op, w.ops.getLast? = some op ∧ op.lanes = maskOf good ∧ w.ops.map (·.id) = x.w.ops.map (·.id) ++ [op.id])
      ∧ ∀ l ∈ bad, l < x.w.lanesN → ∃ f, (w.lane l).fault = some f ∧ acc l = .inl (f.cls, f.addr) ∧ f.late = false
          ∧ f.resumePc = (x.resume l).1 ∧ f.resumeIdx = (x.resume l).2

/-- Atomics and strong accesses (R210 to R213): the operation, its scope, the operand bytes and, with .ret, the registers
owed; SLD.acq is an acquire and SST.rel a release, which first sends its release actions. -/
def Obligations.AtomicAndStrongAccesses : Prop :=
  completesAtomic .aadd .add 4 1 ∧ completesAtomic .aimin .imin 4 1 ∧ completesAtomic .aimax .imax 4 1
  ∧ completesAtomic .aumin .umin 4 1 ∧ completesAtomic .aumax .umax 4 1 ∧ completesAtomic .aand .and 4 1
  ∧ completesAtomic .aor .or 4 1 ∧ completesAtomic .axor .xor 4 1 ∧ completesAtomic .axch .xch 4 1
  ∧ completesAtomic .acas .cas 4 2 ∧ completesAtomic .afadd .fadd 4 1 ∧ completesAtomic .aor8w .or8w 32 8
  ∧ (∀ (s : State) (x : Ctx) (t : VR) (b : BX) (v : VR) (sc : PR) (r : BitVec 1) (p : PR) (A : Nat → Nat), s.ctx? = some x →
      x.mayIssue false p [(t.toNat, 1), (v.toNat, 1)] →
      let m := maskOf (lanesOf (x.act p))
      (x.reaches (x.act p) b v 0 4 false true A →
        ∃ z, exec (.sld t b v sc r p) s = .next z.settled.done ∧ x.keeps z
          ∧ x.sends z (x.parts m) m [t.toNat] none
              (x.accessReq (x.act p) b (.strongLoad (r = 1)) sc.toNat (.vregs t.toNat 4 false) (fun _ => false) 4 A fun _ => []))
      ∧ (x.reaches (x.act p) b v 0 4 true true A →
        ∃ z, exec (.sst t b v sc r p) s = .next z.settled.done ∧ x.keeps z
          ∧ x.sends z (x.parts m) m [] (if r = 1 then some sc.toNat else none)
              (x.accessReq (x.act p) b (.strongStore (r = 1)) sc.toNat .none (fun part => x.marks part sc.toNat (r = 1)) 4 A
                fun l => toBytes 4 (x.vr l t).toNat)))

/-- Scalar memory words (R178, R179): one access for the whole subgroup, at the address of s[sa][31:0] and the offset; a
failing check faults every lane of the subgroup. -/
def Obligations.ScalarMemoryAccesses : Prop :=
  ∀ (s : State) (x : Ctx) (d a : SR) (b : BX) (i : BitVec 5), s.ctx? = some x → x.mayIssue true 0 [] →
    let run := fun (w : Instr) (size : Nat) (kind : AccKind) (write rel : Bool) =>
      let strong := rel || decide (kind = .strongLoad true)
      (∀ addr, s.accessAt x.w (x.w.buf b.toNat) ((x.sr a).toNat % 2 ^ 32) i.toNat size write strong = .inr addr →
        ∃ z, exec w s = .next z.settled.done ∧ x.keeps z
          ∧ (kind = .store → x.leftBy z (x.w.buf b.toNat).space (maskOf [leader x.live]))
          ∧ x.sends z [x.live] (maskOf [leader x.live]) (if write then [] else [128 + d.toNat]) (if rel then some 4 else none) fun _ =>
              { kind := kind, space := (x.w.buf b.toNat).space, sc := 4, policy := (x.w.buf b.toNat).policy
                short := (x.w.buf b.toNat).short && (x.w.buf b.toNat).space == 0
                dst := if write then .none else .sreg d.toNat size, scalar := true
                mark := rel && x.marks x.live 4 true
                items := [laneItem (leader x.live) addr size (if write then toBytes size (x.sr d).toNat else [])] })
      ∧ ∀ c addr, s.accessAt x.w (x.w.buf b.toNat) ((x.sr a).toNat % 2 ^ 32) i.toNat size write strong = .inl (c, addr) →
          exec w s = .next (x.raiseAll x.live c 0 addr).done
    run (.sldw d a b i) 4 .load false false ∧ run (.sldd d a b i) 8 .load false false
    ∧ run (.sstw d a b i) 4 .store true false ∧ run (.sstd d a b i) 8 .store true false
    ∧ run (.sldwa d a b i) 4 (.strongLoad true) false false ∧ run (.sstdr d a b i) 8 (.strongStore true) true true

/-- FENCE (R108, R214): with a zero path mask it orders nothing; else a request stands for it, one for each part of its lanes that the
same things hold (R100), which awaits the earlier accesses of those lanes on the source paths that it covers, and their later accesses
on every destination path await it.
Where the spec leaves a point open, the model's choice stands: log entry 25. -/
def Obligations.FenceOrders : Prop :=
  ∀ (s : State) (x : Ctx) (sc : PR) (src dst : SR) (kind : BitVec 2), s.ctx? = some x → x.mayIssue true 0 [] →
    (src = 0 ∨ dst = 0 → exec (.fence sc src dst kind) s = .next x.done)
    ∧ (src ≠ 0 → dst ≠ 0 → ∃ z fs, exec (.fence sc src dst kind) s = .next z.settled.done ∧ x.keeps z
        ∧ z.s.reqs = x.s.reqs ++ fs ∧ fs.map (·.lanes) = x.parts x.live
        ∧ (∀ f ∈ fs, f.body = .fence (decide (kind ≠ 0)) (decide (kind ≠ 1)) (decide (kind = 3)) sc.toNat false
          ∧ (∀ q ∈ x.s.reqs, q.wave = x.w.id → q.lanes &&& f.lanes ≠ 0 → src.getLsbD q.path = true →
              ((kind ≠ 0 ∧ q.write = true) ∨ (kind ≠ 1 ∧ q.read = true)) → (q.id, q.lanes) ∈ f.after)
          ∧ (∀ o ∈ x.w.ops, o.lanes &&& f.lanes ≠ 0 → kind ≠ 1 → ((o.path?.map src.getLsbD).getD false) = true →
              (o.id, f.lanes) ∈ f.after))
        ∧ z.w.hold = x.w.hold ++ fs.flatMap fun f => ((List.range 6).filter fun i => dst.getLsbD i).map fun q => ⟨q, f.id, f.lanes, f.lanes⟩)

/-- The monitor words (R114, R216 to R218): MONITOR sends the request that arms a watch on an aligned doubleword of space 0 or 2
and keeps the wave's watch until then; MWAIT owes its result, with the deadline n cycles ahead or none for 0; MCANCEL of a
doubleword of space 2, or of one of space 0 that may be read, sends the request that ends the watches.
Where the spec leaves a point open, the model's choice stands: log entry 24. -/
def Obligations.MonitorWords : Prop :=
  (∀ (s : State) (x : Ctx) (d a : SR) (b : BX) (c : BitVec 5) (addr : Nat), s.ctx? = some x → x.mayIssue true 0 [] →
    (x.w.buf b.toNat).space = 0 ∨ (x.w.buf b.toNat).space = 2 → (x.w.buf b.toNat).short = false →
    s.accessAt x.w (x.w.buf b.toNat) ((x.sr a).toNat % 2 ^ 32) 0 8 true true = .inr addr →
    ∃ z, exec (.monitor d a b c) s = .next z.settled.done ∧ x.keeps z ∧ z.w.watch = x.w.watch
      ∧ x.sends z [x.live] (maskOf [leader x.live]) [] none fun _ =>
          { kind := .monitor c.toNat (x.sr d), space := (x.w.buf b.toNat).space, sc := 4, policy := (x.w.buf b.toNat).policy
            scalar := true, items := [laneItem (leader x.live) addr 8 []] })
  ∧ (∀ (s : State) (x : Ctx) (d a : SR), s.ctx? = some x → x.mayIssue true 0 [] →
    let n := (x.sr a).toNat
    let mhz := pointMHz (s.course (courseOf x.w.ashlar)).point
    ∃ z, exec (.mwait d a) s = .next z.done ∧ x.keeps z
      ∧ x.owes z x.live (.mwait (if n = 0 then none else some (s.now + n * 1000000 / mhz)) d.toNat false none) [128 + d.toNat])
  ∧ (∀ (s : State) (x : Ctx) (a : SR) (b : BX) (addr : Nat), s.ctx? = some x → x.mayIssue true 0 [] →
    s.accessAt x.w (x.w.buf b.toNat) ((x.sr a).toNat % 2 ^ 32) 0 8 false false = .inr addr →
    ((x.w.buf b.toNat).space = 2 → ∃ z, exec (.mcancel a b) s = .next z.done ∧ x.keeps z
      ∧ x.posts z pathL x.live none (.cancelWatch 2 (s.windowAddr x.w addr)))
    ∧ ((x.w.buf b.toNat).space = 0 → s.pathFault x.w.ashlar x.w.slot addr 8 { read := true } = none →
      ∃ z, exec (.mcancel a b) s = .next z.done ∧ x.keeps z
        ∧ x.posts z pathL x.live none (.cancelWatch 0 (s.paOf x.w.ashlar x.w.slot addr))))

/-- The words of ordered sections (R119, R122, R219, R220, R337): each lane of Active sends one request with its key and
number to the key's home. OTAKE, OBASE and OCLOSE take a key outside those of the fixed units; OENTER and OTRY a key that the
lane may ask for, which counts as held from then on; OLEAVE a key the lane holds, which stops counting, after its release.
Where the spec leaves a point open, the model's choice stands: log entry 27. -/
def Obligations.SectionWords : Prop :=
  ∀ (s : State) (x : Ctx) (t k : VR) (p : PR), s.ctx? = some x → x.mayIssue false p [(k.toNat, 2), (t.toNat, 1)] →
    let key := fun l => x.vpair l k.toNat
    let m := maskOf (lanesOf (x.act p))
    let sent := fun (z : Ctx) (op : OrdOp) (r : VR) (regs : List Nat) => ∃ pre new, z.s.reqs = x.s.reqs ++ pre ++ new
      ∧ new.map (·.body) = (lanesOf (x.act p)).map (fun l => ReqBody.order op l (key l) (x.vr l r) r.toNat)
      ∧ (∀ q ∈ new, q.strong = true ∧ q.path = pathL) ∧ z.s.mem = x.s.mem ∧ z.w.s = x.w.s ∧ z.c = x.c
      ∧ (∃ o, z.w.ops = x.w.ops ++ [o] ∧ o.lanes = m ∧ o.regs = regs ∧ ∀ q ∈ new, q.op = some o.id)
      ∧ if op = .leave then pre.map (·.lanes) = x.parts m ∧ (∀ f ∈ pre, f.body = .fence true false false 4 false)
          ∧ ∀ q ∈ new, ∃ f ∈ pre, f.lanes &&& q.lanes ≠ 0 ∧ (f.id, f.lanes) ∈ q.after
        else pre = []
    ((∀ l ∈ lanesOf (x.act p), (key l).toNat / 2 ^ 56 ≠ 255) →
      (∃ z, exec (.otake t k p) s = .next z.settled.done ∧ sent z .take t [t.toNat] ∧ z.w.lanes = x.w.lanes)
      ∧ (∃ z, exec (.obase t k p) s = .next z.settled.done ∧ sent z .base t [] ∧ z.w.lanes = x.w.lanes)
      ∧ (∃ z, exec (.oclose k p) s = .next z.settled.done ∧ sent z .close 0 [] ∧ z.w.lanes = x.w.lanes))
    ∧ ((∀ l ∈ lanesOf (x.act p), (x.w.lane l).mayEnter (key l) = true) →
      let asks := fun (z : Ctx) => ∀ l, (z.w.lane l).held =
        if l < x.w.lanesN ∧ l ∈ lanesOf (x.act p) then (x.w.lane l).held ++ [(key l, x.vr l t)] else (x.w.lane l).held
      (∃ z, exec (.oenter t k p) s = .next z.settled.done ∧ sent z .enter t [199] ∧ asks z)
      ∧ (∃ z, exec (.otry t k p) s = .next z.settled.done ∧ sent z .try_ t [199] ∧ asks z))
    ∧ ((∀ l ∈ lanesOf (x.act p), (x.w.lane l).held.any (fun h => h.1 == key l) = true) →
      ∃ z, exec (.oleave k p) s = .next z.settled.done ∧ sent z .leave 0 []
        ∧ ∀ l, (z.w.lane l).held = if l < x.w.lanesN ∧ l ∈ lanesOf (x.act p) then (x.w.lane l).held.filter fun h => h.1 != key l
            else (x.w.lane l).held)

/-- A lane that may not ask for a section, or leaves one it does not hold (R119, R337): it faults SECTION ORDER and sends
nothing. Stated for a word none of whose lanes may go on.
Where the spec leaves a point open, the model's choice stands: log entry 27. -/
def Obligations.SectionOrderFault : Prop :=
  ∀ (s : State) (x : Ctx) (t k : VR) (p : PR), s.ctx? = some x → x.mayIssue false p [(k.toNat, 2), (t.toNat, 1)] →
    let key := fun l => x.vpair l k.toNat
    let faulted := fun (i : Instr) => ∃ u w, exec i s = .next u ∧ u.wave? x.w.id = some w ∧ u.reqs = s.reqs
      ∧ (∃ c, w.clause = some c ∧ c.out = x.c.out ||| maskOf (lanesOf (x.act p)))
      ∧ ∀ l ∈ lanesOf (x.act p), l < x.w.lanesN → (w.lane l).held = (x.w.lane l).held
          ∧ ∃ f, (w.lane l).fault = some f ∧ f.cls = 11 ∧ f.late = false
    ((∀ l ∈ lanesOf (x.act p), (x.w.lane l).held.length = 2
        ∨ ∃ h, (x.w.lane l).held = [h] ∧ (key l).toNat ≤ h.1.toNat) → faulted (.oenter t k p) ∧ faulted (.otry t k p))
    ∧ ((∀ l ∈ lanesOf (x.act p), ∀ h ∈ (x.w.lane l).held, h.1 ≠ key l) → faulted (.oleave k p))

/-- Barrier commands (R162, R222 to R224): the leader's registers give the operands and one request goes to the object. BINIT
sends EXPECT = v[va][15:0] and AUTO = v[va][16]; BARRIVE is a release at ashlar scope and with imm7[6] gives the phase to every
lane of Active; BRARRIVE is a release at die scope on the object of another ashlar of the die; BSYNC arrives once and BTEST
asks, and each owes the answer; BWAIT owes that the phase differs from its token. Later accesses of the lanes on path L await
BWAIT, BSYNC and BTEST. On an object that another run owns all but BRARRIVE fault PROTECTION.
Where the spec leaves a point open, the model's choice stands: log entries 26 and 70. -/
def Obligations.BarrierWords : Prop :=
  (∀ (s : State) (x : Ctx) (a : VR) (n : BX) (p : PR), s.ctx? = some x → x.mayIssue true p [(a.toNat, 1)] →
    x.barForeign n.toNat = false →
    let v := (x.vr (x.lead p) a).toNat
    ∃ z, exec (.binit a n p) s = .next z.settled.done ∧ x.keeps z
      ∧ x.posts z pathL (x.act p) none (.barrier (.init (v % 2 ^ 16) (v / 2 ^ 16 % 2 == 1)) x.w.ashlar n.toNat (x.act p)))
  ∧ (∀ (s : State) (x : Ctx) (a : VR) (n : BX) (p : PR), s.ctx? = some x → x.mayIssue true p [(a.toNat, 1)] →
    x.barForeign n.toNat = false →
    let token := BitVec.ofNat 16 (x.vr (x.lead p) a).toNat
    ∃ z o, exec (.bwait a n p) s = .next z.done ∧ x.keeps z ∧ x.owes z (x.act p) (.barrier n.toNat token) []
      ∧ z.w.ops.getLast? = some o ∧ z.w.hold = x.w.hold ++ [⟨pathL, o.id, x.act p, x.act p⟩])
  ∧ (∀ (s : State) (x : Ctx) (a : VR) (n : BX) (p : PR), s.ctx? = some x → x.mayIssue true p [(a.toNat, 1)] →
    x.barForeign n.toNat = false →
    let token := BitVec.ofNat 16 (x.vr (x.lead p) a).toNat
    ∃ z o, exec (.btest a n p) s = .next (z.settled.holdOn pathL o (x.act p)).done ∧ x.keeps z
      ∧ x.owes z (x.act p) (.request 0) [a.toNat, 199] ∧ z.w.ops.getLast?.map (·.id) = some o
      ∧ x.posts z pathL (x.act p) none (.barrier (.test a.toNat token) x.w.ashlar n.toNat (x.act p)))
  ∧ (∀ (s : State) (x : Ctx) (a : VR) (n : BX) (i : VR) (p : PR), s.ctx? = some x →
    x.mayIssue true p (if i.getLsbD 6 then [(a.toNat, 1)] else []) → x.barForeign n.toNat = false →
    let y := if i.getLsbD 6 then x.puts ((lanesOf (x.act p)).map fun l =>
        Dst.vreg l a.toNat (BitVec.ofNat 32 (s.barrier x.w.ashlar n.toNat).ph.toNat)) else x
    ∃ z, exec (.barrive a n i p) s = .next z.settled.done ∧ y.keeps z
      ∧ x.posts z pathL (x.act p) (some 1) (.barrier (.arrive (i.toNat % 64 + 1) none) x.w.ashlar n.toNat (x.act p)))
  ∧ (∀ (s : State) (x : Ctx) (n : BX) (p : PR), s.ctx? = some x → x.mayIssue true p [] → x.barForeign n.toNat = false →
    ∃ z o, exec (.bsync n p) s = .next (z.settled.holdOn pathL o (x.act p)).done ∧ x.keeps z
      ∧ x.owes z (x.act p) (.request 0) [] ∧ z.w.ops.getLast?.map (·.id) = some o
      ∧ x.posts z pathL (x.act p) (some 1) (.barrier .sync x.w.ashlar n.toNat (x.act p)))
  ∧ (∀ (s : State) (x : Ctx) (a : VR) (n : BX) (i : SR) (p : PR), s.ctx? = some x → x.mayIssue true p [(a.toNat, 1)] →
    ∃ z, exec (.brarrive a n i p) s = .next z.settled.done ∧ x.keeps z
      ∧ x.posts z pathL (x.act p) (some 3) (.barrier (.remote (i.toNat + 1))
          (x.w.die * 64 + (x.vr (x.lead p) a).toNat % 64) n.toNat (x.act p)))
  ∧ (∀ (s : State) (x : Ctx) (a : VR) (n : BX) (i : VR) (p : PR), s.ctx? = some x → x.mayIssue true p [(a.toNat, 1)] →
    x.barForeign n.toNat = true →
    ∀ j ∈ [Instr.binit a n p, .bwait a n p, .btest a n p, .barrive a n i p, .bsync n p],
      exec j s = .next (x.raiseAll (x.act p) 8).done)

/-- Reductions (R225, R226): where the result address is aligned and may be written, and ROPEN's descriptor may be read, the pages
count as accessed (R84) and one strong request goes to the address's home: ROPEN with its ring, count, tag and operation, RCONTRIB,
a release at device scope, with its value, RCLOSE with neither. A bad result address faults every lane of Active.
Where the spec leaves a point open, the model's choice stands: log entry 70. -/
def Obligations.ReductionWords : Prop :=
  (∀ (s : State) (x : Ctx) (a : VR) (o p : PR), s.ctx? = some x → x.mayIssue true p [(a.toNat, 6)] →
    let l := x.lead p
    let addr := (x.vpair l a.toNat).toNat
    let ring := (x.vpair l (a.toNat + 2)).toNat
    let v := fun i => (x.w.vreg l (a.toNat + i)).toNat
    let y := x.onState fun u => (u.touchRange x.w.ashlar x.w.slot addr 4 true).touchRange x.w.ashlar x.w.slot ring 32 false
    addr % 4 = 0 → s.pathFault x.w.ashlar x.w.slot addr 4 { write := true } = none →
    s.pathFault x.w.ashlar x.w.slot ring 32 { read := true } = none →
    ∃ z, exec (.ropen a o p) s = .next z.settled.done ∧ y.keeps z ∧ y.posts z pathL (x.act p) none
      (.reduce (.open_ (x.partsOf ring 32) (v 4 % 2 ^ 25) (v 5 % 2 ^ 16) o.toNat) addr (s.paOf x.w.ashlar x.w.slot addr)))
  ∧ (∀ (s : State) (x : Ctx) (a : VR) (p : PR), s.ctx? = some x → x.mayIssue true p [(a.toNat, 3)] →
    let addr := (x.vpair (x.lead p) a.toNat).toNat
    let y := x.onState fun u => u.touchRange x.w.ashlar x.w.slot addr 4 true
    addr % 4 = 0 → s.pathFault x.w.ashlar x.w.slot addr 4 { write := true } = none →
    ∃ z, exec (.rcontrib a p) s = .next z.settled.done ∧ y.keeps z ∧ y.posts z pathL (x.act p) (some 4)
      (.reduce (.contrib (x.w.vreg (x.lead p) (a.toNat + 2))) addr (s.paOf x.w.ashlar x.w.slot addr)))
  ∧ (∀ (s : State) (x : Ctx) (a : VR) (p : PR), s.ctx? = some x → x.mayIssue true p [(a.toNat, 2)] →
    let addr := (x.vpair (x.lead p) a.toNat).toNat
    let y := x.onState fun u => u.touchRange x.w.ashlar x.w.slot addr 4 true
    addr % 4 = 0 → s.pathFault x.w.ashlar x.w.slot addr 4 { write := true } = none →
    ∃ z, exec (.rclose a p) s = .next z.settled.done ∧ y.keeps z ∧ y.posts z pathL (x.act p) none
      (.reduce .close addr (s.paOf x.w.ashlar x.w.slot addr)))
  ∧ (∀ (s : State) (x : Ctx) (a : VR) (o p : PR), s.ctx? = some x → x.mayIssue true p [(a.toNat, 6)] →
    let addr := (x.vpair (x.lead p) a.toNat).toNat
    ∀ i ∈ [Instr.ropen a o p, .rcontrib a p, .rclose a p],
      (addr % 4 ≠ 0 → exec i s = .next (x.raisePath (x.act p) 8 0 addr false).done)
      ∧ ∀ c code, addr % 4 = 0 → s.pathFault x.w.ashlar x.w.slot addr 4 { write := true } = some (c, code) →
          exec i s = .next (x.raisePath (x.act p) c code addr false).done)

/-- Matrix commands (R229, R232 to R238): in the node the array is bound to, MLDW of 4,096 aligned bytes of one region, MSWAP,
and MSTREAM of a parameter block that passes its checks go to the array's queue; MDRAIN owes the completion of the wave's
commands so far. Outside the bound node each faults PROTECTION.
Asynchronous copies (R239 to R243): a layout record at an aligned offset of scratch that passes its checks sends one copy
command of the word's kind, with the leader's coordinates, into the open batch; CPCOMMIT closes the batch and CPWAIT closes it
and owes that at most n closed batches are unfinished.
Where the spec leaves a point open, the model's choice stands: log entries 39 and 40. -/
def Obligations.MatrixAndCopyWords : Prop :=
  (∀ (s : State) (x : Ctx) (a : VR) (p : PR), s.ctx? = some x → x.mayIssue false p [(a.toNat, 1)] →
    let off := (x.vr (x.lead p) a).toNat
    let sent := fun (i : Instr) (c : MatCmd) => ∃ z r, exec i s = .next z.done ∧ x.keeps z
      ∧ x.posts z pathM (x.act p) none (.matrix c false) ∧ z.s.reqs.getLast? = some r ∧ z.w.lastMat = r.id
    (x.bound = true →
      (off % 64 = 0 → x.w.inRegion off 4096 = true → sent (.mldw a p) (.mldw off))
      ∧ sent (.mswap p) .mswap
      ∧ (off % 64 = 0 → x.w.inScratch off 64 = true → (matBlock (x.scratchNow off 64)).ok x.w = true →
          sent (.mstream a p) (.mstream (x.scratchNow off 64)))
      ∧ (∃ z, exec (.mdrain p) s = .next z.done ∧ x.keeps z ∧ x.owes z (x.act p) (.mdrain (x.w.lastMat + 1)) []))
    ∧ (x.bound = false → ∀ i ∈ [Instr.mldw a p, .mswap p, .mstream a p, .mdrain p],
        exec i s = .next (x.raiseAll (x.act p) cProtection).done))
  ∧ (∀ (s : State) (x : Ctx) (a : VR) (p : PR), s.ctx? = some x → x.mayIssue true p [(a.toNat, 5)] →
    let r := fun i => x.w.vreg (x.lead p) (a.toNat + i)
    let off := (r 0).toNat
    let run := fun (i : Instr) (kind : Nat) =>
      off % 64 = 0 → x.w.inScratch off 64 = true → (layout (x.scratchNow off 64)).ok x kind (r 2).toNat = true →
      ∃ z q, exec i s = .next z.done ∧ x.keeps z ∧ z.s.reqs = x.s.reqs ++ [q] ∧ q.path = pathA ∧ q.lanes = x.act p
        ∧ q.body = .copy { kind := kind, lay := x.scratchNow off 64, c := [(r 1).toInt, (r 2).toInt, (r 3).toInt, (r 4).toInt]
                           index := (r 2).toNat }
        ∧ z.w.batchOpen = x.w.batchOpen ++ [q.id]
    run (.cpload a p) 0 ∧ run (.cploadm a p) 1 ∧ run (.cpstore a p) 2 ∧ run (.cpgath a p) 3 ∧ run (.cpscat a p) 4)
  ∧ (∀ (s : State) (x : Ctx) (n : VR) (p : PR), s.ctx? = some x → x.mayIssue true p [] →
    let closed := fun (z : Ctx) => z.w.batchOpen = [] ∧ z.w.batches = (x.w.batches ++ [x.w.batchOpen]).filter s.batchLive
    (∃ z, exec (.cpcommit p) s = .next z.done ∧ x.keeps z ∧ closed z ∧ z.s = x.s)
    ∧ (∃ z, exec (.cpwait n p) s = .next z.done ∧ x.keeps z ∧ closed z ∧ x.owes z (x.act p) (.cpwait n.toNat) []))

/-- Control transfers (R180 to R183): the lanes of Active, or none where a scalar test fails, go to the target at the end of the
clause; a displacement counts 16 bytes from the clause start, a k register gives an aligned address, and a lane's register the low
32 bits of its own target. -/
def Obligations.ControlTransfers : Prop :=
  (∀ (s : State) (x : Ctx) (d : B8) (r : SR) (p : PR), s.ctx? = some x → x.mayIssue true p [] →
    let all := fun (t : Nat) => x.heads ((lanesOf (x.act p)).map fun l => (l, t))
    let t := (((x.c.pc : Int) + d.toInt * 16) % 2 ^ 64).toNat
    let on := fun (b : Bool) => if b then all t else x.done
    exec (.bra d p) s = .next (all t)
    ∧ exec (.braZ d r p) s = .next (on (decide ((x.sr r).toInt = 0)))
    ∧ exec (.braNz d r p) s = .next (on (decide ((x.sr r).toInt ≠ 0)))
    ∧ exec (.braLt d r p) s = .next (on (decide ((x.sr r).toInt < 0)))
    ∧ exec (.braGe d r p) s = .next (on (decide (0 ≤ (x.sr r).toInt)))
    ∧ exec (.brk r p) s = .next (all ((x.w.kreg r.toNat).toNat / 16 * 16)))
  ∧ (∀ (s : State) (x : Ctx) (a : VR) (p : PR), s.ctx? = some x → x.mayIssue true p [(a.toNat, 1)] →
    let own := x.heads ((lanesOf (x.act p)).map fun l =>
      (l, x.c.pc / 2 ^ 32 % 2 ^ 16 * 2 ^ 32 + (x.vr l a).toNat / 16 * 16))
    exec (.retLink a p) s = .next own ∧ (x.w.isThread = false → exec (.jmpv a p) s = .next own))

/-- Calls (R183 to R185): lanes within the register budget write the address of the next sequential clause into their link
register and go to the target; an FDECL at the target must declare no more registers than REGS, and ICALL needs one, each lane else
faulting BUDGET while the others go. A target's first word counts as fetched (R84). FDECL itself has no effect where it declares 1 to 128 registers, and
is illegal elsewhere. -/
def Obligations.Calls : Prop :=
  (∀ (s : State) (x : Ctx) (d : B8) (k : SR) (a : VR) (p : PR), s.ctx? = some x → x.mayIssue true p [(a.toNat, 1)] →
    let run := fun (i : Instr) (indirect : Bool) (goal : Nat → Nat) =>
      (∀ l ∈ lanesOf (x.act p), x.callOk (goal l) indirect = true) →
      let y := (nub ((lanesOf (x.act p)).map goal)).foldl Ctx.readTarget x
      exec i s = .next (y.leaves y.w { x.c with
        pend := x.c.pend ++ (lanesOf (x.act p)).map fun l =>
          ⟨x.c.index + (if x.w.isThread then 2 else 4), .vreg l a.toNat (BitVec.ofNat 32 x.seqPc)⟩
        xfer := x.c.xfer ++ (lanesOf (x.act p)).map fun l => (l, goal l) })
    run (.callDisp d a p) false (fun _ => (((x.c.pc : Int) + d.toInt * 16) % 2 ^ 64).toNat)
    ∧ run (.callk k a p) false (fun _ => (x.w.kreg k.toNat).toNat / 16 * 16)
    ∧ (x.w.isThread = false → run (.icall a p) true fun l =>
        x.c.pc / 2 ^ 32 % 2 ^ 16 * 2 ^ 32 + (x.vr l a).toNat / 16 * 16))
  ∧ (∀ (x : Ctx) (t : Nat) (indirect : Bool) (n : B8) (i : Word), x.w.isThread = false →
    (x.s.fetch x.w (t + 4) = .inr (encode (.fdecl n)) →
      x.callOk t indirect = decide (0 < n.toNat ∧ n.toNat ≤ 128 ∧ n.toNat ≤ x.w.regs))
    ∧ (x.s.fetch x.w (t + 4) = .inr i → i.toNat / 2 ^ 20 ≠ 0x6F * 2 ^ 5 ∨ i.toNat % 2 ^ 12 ≠ 0 → x.callOk t indirect = !indirect))
  ∧ (∀ (s : State) (x : Ctx) (d : B8) (k : SR) (a : VR) (p : PR), s.ctx? = some x → x.mayIssue false p [(a.toNat, 1)] →
    let run := fun (i : Instr) (indirect : Bool) (goal : Nat → Nat) =>
      let good := (lanesOf (x.act p)).filter fun l => x.callOk (goal l) indirect
      let broke := (lanesOf (x.act p)).filter fun l => !x.callOk (goal l) indirect
      broke ≠ [] →
      let y := (nub ((lanesOf (x.act p)).map goal)).foldl Ctx.readTarget x
      ∃ t w c, exec i s = .next t ∧ t.wave? x.w.id = some w ∧ w.clause = some c ∧ t.mem = y.s.mem ∧ t.reqs = y.s.reqs
        ∧ c.xfer = x.c.xfer ++ good.map (fun l => (l, goal l)) ∧ c.out = x.c.out ||| maskOf broke
        ∧ c.pend = x.c.pend ++ good.map (fun l => ⟨x.c.index + 4, .vreg l a.toNat (BitVec.ofNat 32 x.seqPc)⟩)
        ∧ ∀ l, if l < y.w.lanesN ∧ l ∈ broke then w.faultAt y l 5 0 0 ∧ (w.lane l).v = (y.w.lane l).v ∧ (w.lane l).p = (y.w.lane l).p
          else w.lane l = y.w.lane l
    run (.callDisp d a p) false (fun _ => (((x.c.pc : Int) + d.toInt * 16) % 2 ^ 64).toNat)
    ∧ run (.callk k a p) false (fun _ => (x.w.kreg k.toNat).toNat / 16 * 16)
    ∧ run (.icall a p) true fun l => x.c.pc / 2 ^ 32 % 2 ^ 16 * 2 ^ 32 + (x.vr l a).toNat / 16 * 16)
  ∧ (∀ (s : State) (x : Ctx) (n : B8), s.ctx? = some x → x.mayIssue true 0 [] →
    exec (.fdecl n) s = .next (if 0 < n.toNat ∧ n.toNat ≤ 128 then x.done else x.illegal.done))

/-- Reconvergence words (R39, R40, R186, R187, R336): the stack's in a node without DIV and the masks' in a node with it, each
illegal in the other; a MARK on a full stack faults BUDGET and a JOIN on an empty one has no effect. -/
def Obligations.ReconvergenceWords : Prop :=
  ∀ (s : State) (x : Ctx) (d : B8) (j : PR), s.ctx? = some x → x.mayIssue false 0 [] → x.w.isThread = false →
    (x.w.div = false →
      (x.w.stack.length < 32 → exec (.markPush d) s = .next (x.leaves { x.w with
        stack := ((((x.c.pc : Int) + d.toInt * 16) % 2 ^ 64).toNat, x.live) :: x.w.stack } x.c))
      ∧ (32 ≤ x.w.stack.length → exec (.markPush d) s = .next (x.raiseAll x.live 5).done)
      ∧ exec .joinLanes s = .next (if x.w.stack = [] then x.done else x.parksAtEnd x.live (.join x.c.pc))
      ∧ ∀ i ∈ [Instr.enrol j, .rejoin j, .strike j, .jclr j], exec i s = .next x.illegal.done)
    ∧ (x.w.div = true →
      exec (.enrol j) s = .next (x.leaves { x.w with j := x.w.j.modify j.toNat (· ||| x.live) } x.c)
      ∧ exec (.rejoin j) s = .next (x.parksAtEnd (x.live &&& x.w.j.getD j.toNat 0) (.rejoin j.toNat x.c.pc))
      ∧ exec (.strike j) s = .next (x.leaves ({ x.w with j := x.w.j.modify j.toNat (· &&& ~~~x.live) }).reconverge x.c)
      ∧ exec (.jclr j) s = .next (x.leaves { x.w with j := x.w.j.set j.toNat 0 } x.c)
      ∧ ∀ i ∈ [Instr.markPush d, .joinLanes], exec i s = .next x.illegal.done)

/-- Wave, trap and MISC words (R42, R45, R166, R188, R189, R320): what each leaves for the end of the clause; a SLEEP its number of
cycles; TRAPI faults every lane of the subgroup with its code; a lane that holds a section faults at REFORM; a TRET outside a
handler is illegal.
PREF (R166, R346): a line that does not translate is dropped and counted; at level 0 a line that can be read and whose policy
caches it is in the ashlar's L1 afterwards, with the ashlar's own writes under way over memory's bytes where it was not there
before; memory and the waves stay as they were.
Where the spec leaves a point open, the model's choice stands: log entries 22, 61, 62 and 70. -/
def Obligations.WaveTrapAndMiscWords : Prop :=
  (∀ (s : State) (x : Ctx) (m : SR) (c : B8) (r : SR), s.ctx? = some x → x.mayIssue true 0 [] →
    let clock := (s.course (courseOf x.w.ashlar)).phase / 1000000
    exec .nop s = .next x.done
    ∧ exec .exitLanes s = .next (x.leaves x.w { x.c with exits := x.c.exits ||| x.live })
    ∧ exec .yield s = .next (x.leaves x.w { x.c with yield := true })
    ∧ exec (.sbwait m) s = .next (if m = 0 then x.done else x.parksAtEnd x.live (.sbwait m.toNat))
    ∧ exec (.trapi c) s = .next (x.raiseAll x.live 14 c.toNat).done
    ∧ (∃ t, exec (.trapi c) s = .next t ∧ x.faults t (maskOf (lanesOf x.live)) 14 c.toNat fun _ => 0)
    ∧ exec (.clock 0 r) s = .next (x.scalarGets r (BitVec.ofNat 64 clock))
    ∧ exec (.clock 1 r) s = .next (x.scalarGets r (BitVec.ofNat 64 (s.now / 1000)))
    ∧ exec (.sleep c) s = .next (if c = 0 then x.leaves x.w { x.c with yield := true }
        else x.parksAtEnd x.live (.sleep (64 * c.toNat)))
    ∧ ((s.slot x.w.slot).debug = false → exec (.brkpt c) s = .next x.done)
    ∧ ((s.slot x.w.slot).debug = true → ∃ t w, exec (.brkpt c) s = .next t
        ∧ t.plumb.brkpts = s.plumb.brkpts ++ [(x.w.id, c.toNat)] ∧ t.wave? x.w.id = some w
        ∧ w.clause = some { x.c with parks := x.c.parks ++ [(~~~0, .brkpt c.toNat)] }))
  ∧ (∀ (s : State) (x : Ctx), s.ctx? = some x → x.mayIssue false 0 [] →
    ((∀ l ∈ lanesOf x.live, (x.w.lane l).held = []) →
      exec .reform s = .next (x.leaves x.w { x.c with reform := x.c.reform ||| maskOf (lanesOf x.live) }))
    ∧ ((∀ l ∈ lanesOf x.live, (x.w.lane l).held ≠ []) →
      ∃ t, exec .reform s = .next t ∧ x.faults t (maskOf (lanesOf x.live)) 11 0 fun _ => 0))
  ∧ (∀ (s : State) (x : Ctx), s.ctx? = some x → x.mayIssue false 0 [] → x.w.isThread = false →
    let in_ := ∀ l ∈ lanesOf x.live, (x.w.lane l).handler = true
    let run := fun (i : Instr) (k : Nat) => (in_ → exec i s = .next (x.leaves x.w { x.c with tret := some k }))
      ∧ (¬in_ → exec i s = .next x.illegal.done)
    run .tretRetry 0 ∧ run .tretAdvance 1 ∧ run .tretSkiplanes 2)
  ∧ (∀ (s : State) (x : Ctx) (n : SR), s.ctx? = some x → x.mayIssue true 0 [] →
    let va := (x.w.sreg n.toNat).toNat / 64 * 64
    ((∀ l, s.look x.w.ashlar x.w.slot va ≠ .leaf l) → ∀ level,
      exec (.pref level n) s = .next (x.leaves { x.w with prefdrop := x.w.prefdrop + 1 } x.c))
    ∧ (∀ l, s.look x.w.ashlar x.w.slot va = .leaf l → l.r = true → reservedPa (l.pa va) = false → inHost (l.pa va) = false →
      s.bad (l.pa va / 64) = false → s.host.invgo = false → l.cp ≤ 1 → (s.course (courseOf x.w.ashlar)).fused = false →
      ∃ t, exec (.pref 0 n) s = .next t ∧ t.mem = s.mem ∧ t.waves = x.done.waves
        ∧ ∃ k ∈ t.l1, k.cache = x.w.ashlar ∧ k.line = l.pa va / 64 ∧ k.valid = ~~~0
          ∧ (s.l1Line? x.w.ashlar (l.pa va / 64) = none → k.dirty = 0 ∧ ∀ i, i < 64 →
              let at_ := l.pa va / 64 * 64 + i
              k.data.getD i 0 = (s.postedByte x.w.ashlar at_).getD (s.mem.read at_))))

/-- Link and power words (R255, R256, R258 to R261). TREQ answers 2 for a split that is 1 or above 14. With 0 it withdraws: the
job's request is gone, its lease ends and the best pending request is granted. In the job's own lease it changes the split alone. Else
a ninth request of a die gets 1, and any other takes the place of the job's earlier one; where no lease stands the best request
(highest job priority, then earliest, then die A's) is granted at once. Nothing but the link changes. TSTAT reads %linkstat; PHINT
leaves the class for the end of the clause. PGATE, PUNGATE and PVF answer 4, 4 and 2 to a bad argument; a gate of die A's A- or
C-layer gets 3, a die with a change under way 2, a layer already so 1; else the change begins with 0, the die parks for an A- or
C-layer, and the waves whose saves that asks for have one place in the order of saves.
Where the spec leaves a point open, the model's choice stands: log entries 69 and 72. -/
def Obligations.LinkAndPowerWords : Prop :=
  (∀ (s : State) (x : Ctx) (d a : SR) (c : BitVec 2), s.ctx? = some x → x.mayIssue true 0 [] →
    let n := (x.sr a).toNat
    let slot := x.w.slot
    let others := s.link.pending.filter fun q => q.slot != slot
    let mine : LinkReq := { slot := slot, die := x.w.die, split := n, time := s.now / 1000 }
    let full := 8 ≤ (others.filter fun q => q.die == x.w.die).length
    let answers := fun (u : State) (r : Nat) => exec (.treq d a) s = .next (({ x with s := u }).scalarGets d (BitVec.ofNat 64 r))
    let links := fun (lease : Option (Nat × Nat × Nat)) (pending : List LinkReq) =>
      ∃ u, answers u 0 ∧ u = { s with link := u.link } ∧ u.link.lease = lease ∧ u.link.pending = pending
    let grants := fun (q : List LinkReq) => (q = [] → links none []) ∧ (q ≠ [] → ∃ r ∈ q, (∀ o ∈ q, s.linkRank r ≤ s.linkRank o)
      ∧ links (some (r.slot, r.split, s.now)) (q.filter fun o => o.slot != r.slot))
    (n = 0 → (∀ m t, s.link.lease = some (slot, m, t) → grants others)
      ∧ ((∀ m t, s.link.lease ≠ some (slot, m, t)) → links s.link.lease others))
    ∧ (n = 1 ∨ 15 ≤ n → answers s 2)
    ∧ (2 ≤ n → n ≤ 14 →
      (∀ m t, s.link.lease = some (slot, m, t) → links (some (slot, n, t)) s.link.pending)
      ∧ ((∀ m t, s.link.lease ≠ some (slot, m, t)) → full → answers s 1)
      ∧ ((∀ m t, s.link.lease ≠ some (slot, m, t)) → ¬full →
          (s.link.lease ≠ none → links s.link.lease (others ++ [mine])) ∧ (s.link.lease = none → grants (others ++ [mine]))))
    ∧ exec (.tstat d) s = .next (x.scalarGets d (s.linkstat slot))
    ∧ exec (.phint c) s = .next (x.leaves x.w { x.c with specials := x.c.specials ++ [(0x60, c.setWidth 64)] }))
  ∧ (∀ (s : State) (x : Ctx) (d a : SR), s.ctx? = some x → x.mayIssue true 0 [] → (s.slot x.w.slot).sys = true →
    let v := (x.sr a).toNat
    let die := v / 2 ^ 8
    let layer := v % 4
    let ok := layer ≤ 2 ∧ v / 4 % 64 = 0 ∧ die ≤ 1
    let sent := s.toPlumb x.w.die
    let run := fun (i : Instr) (gate : Bool) =>
      let answers := fun (u : State) (r : Nat) => exec i s = .next (({ x with s := u }).scalarGets d (BitVec.ofNat 64 r))
      let free := gate = true → die = 0 → layer = 1
      (¬ok → answers s 4)
      ∧ (ok → gate = true → die = 0 → layer ≠ 1 → answers sent 3)
      ∧ (ok → free → (s.die die).gates.any (·.busy) = true → answers sent 2)
      ∧ (ok → free → (s.die die).gates.any (·.busy) = false → (s.gate die layer).gated = gate → answers sent 1)
      ∧ (ok → free → (s.die die).gates.any (·.busy) = false → (s.gate die layer).gated ≠ gate →
          ∃ u m, let asks := fun (w : Wave) => if gate = true ∧ layer ≠ 0 ∧ w.die = die ∧ w.unasked = true then { w with saveSeq := m } else w
            exec i s = .next (({ x with s := u, w := asks x.w }).scalarGets d 0)
            ∧ u.waves = s.waves.map asks ∧ u.reqs = sent.reqs ∧ u.mem = s.mem
            ∧ (layer < (s.die die).gates.length → die < s.dies.length → (u.gate die layer).busy = true ∧ (u.gate die layer).req = gate)
            ∧ (die < s.dies.length → gate = true → layer ≠ 0 → (u.die die).parking = !(s.die die).parked))
    run (.pgate d a) true ∧ run (.pungate d a) false
    ∧ (exec (.pvf d a) s = .next (if v / 16 % 16 ≠ 0 ∨ 2 ^ 11 ≤ v then x.scalarGets d 2
        else if 16 ≤ s.plumb.vfQueue.length then ({ x with s := sent }).scalarGets d 1
        else ({ x with s := { sent with plumb := { s.plumb with vfQueue := s.plumb.vfQueue ++ [(v % 16, v / 2 ^ 8)] } } }).scalarGets d 0)))

/-- The words that need system privilege (R332): in a job without it every lane of the subgroup faults PRIVILEGE and the word has
no other effect; an SSET does so for %mlpart, %mlremap and %layergate alone, whose SGET is open to every job; a system job's PGATE of
die A's M-layer gets result 3 and is no fault (from die B its message is sent as well, the model's choice: log entry 69). -/
def Obligations.PrivilegeFaults : Prop :=
  ∀ (s : State) (x : Ctx) (d a : SR) (n : B8), s.ctx? = some x → x.mayIssue true 0 [] →
    let rs := (0x30 ≤ n.toNat ∧ n.toNat ≤ 0x3F) ∨ n.toNat = 0x45 ∨ n.toNat = 0x62
    ((s.slot x.w.slot).sys = false →
      (∀ i ∈ [Instr.pgate d a, .pungate d a, .pvf d a],
        ∃ t, exec i s = .next t ∧ x.faults t (maskOf (lanesOf x.live)) 3 0 fun _ => 0)
      ∧ (if rs then ∃ t, exec (.sset a n) s = .next t ∧ x.faults t (maskOf (lanesOf x.live)) 3 0 fun _ => 0
        else ∃ c, exec (.sset a n) s = .next (x.leaves x.w c) ∧ c.out = x.c.out))
    ∧ (rs → exec (.sget d n) s = .next (x.scalarGets d (x.special n.toNat)))
    ∧ ((s.slot x.w.slot).sys = true → x.sr a = 0 → exec (.pgate d a) s = .next (({ x with s := s.toPlumb x.w.die }).scalarGets d 3))

/-- What is checked as a word issues (R330, R331), for every word of format VV and VSHFL: a control thread has none of them, and each
is an illegal encoding there, as FDOT2 and CVTPK are for single elements (R199); in a wave a register at or beyond REGS is REGISTER
INDEX in every lane of Active, which for SEL is the whole subgroup (R202); nothing is written. -/
def Obligations.IssueChecks : Prop :=
  ∀ (s : State) (x : Ctx) (d a : VR) (b : B8) (p : PR), s.ctx? = some x →
    let illegal := fun (i : Instr) => x.live ≠ 0 → ∃ t, exec i s = .next t ∧ x.faults t (maskOf (lanesOf x.live)) 1 0 fun _ => 0
    let checked := fun (i : Instr) (q : PR) =>
      (x.w.isThread = true → illegal i)
      ∧ (x.w.isThread = false → x.act q ≠ 0 → (∃ r ∈ regsVV d a b, x.w.regs < r.1 + r.2) →
        ∃ t, exec i s = .next t ∧ x.faults t (maskOf (lanesOf (x.act q))) 4 0 fun _ => 0)
    (∀ i ∈ [Instr.fadd d a b p, .fsub d a b p, .fmul d a b p, .ffma d a b p, .ffnma d a b p, .fmin d a b p, .fmax d a b p,
        .fscale d a b p, .fcopysign d a b p], checked i p)
    ∧ (∀ i ∈ [Instr.fdot2 d a b p, .cvtpk d a b p], (x.c.hdr.vt = 0 → illegal i) ∧ (x.c.hdr.vt ≠ 0 → checked i p))
    ∧ (∀ i ∈ [Instr.iadd d a b p, .isub d a b p, .imul d a b p, .imulhi d a b p, .umulhi d a b p, .imad d a b p, .imin d a b p,
        .imax d a b p, .umin d a b p, .umax d a b p, .idot4 d a b p], checked i p)
    ∧ (∀ i ∈ [Instr.vand d a b p, .vor d a b p, .vxor d a b p, .andn d a b p, .shl d a b p, .shr d a b p, .sar d a b p, .bfe d a b p,
        .bfi d a b p, .vshfl d a b p], checked i p)
    ∧ checked (.sel d a b p) 0

/-- Record appends (R109, R248, R249, R262, R326): lanes that hold enough reserved slots append their records, in lane order, as releases
at device scope that take the slots; QAPPENDL names its records' places in scratch, which it reads after its release; lanes
beyond the slots fault BUDGET, an unused edge faults PROTECTION, and records that pass v127 are illegal.
Where the spec leaves a point open, the model's choice stands: log entry 34. -/
def Obligations.AppendWords : Prop :=
  (∀ (s : State) (x : Ctx) (a : VR) (e : PR) (c : BX) (p : PR) (die : Nat), s.ctx? = some x →
    x.mayIssue true p (appendRegs s a e.toNat c.toNat) → x.appendRange a e.toNat c.toNat = false →
    (x.edge e.toNat).emits ≠ 0 → (∀ r ∈ x.w.resv, r.edge = e.toNat → r.die = die) → die < 2 →
    let k := c.toNat + 1
    let n := x.recSize e.toNat / 4
    let ls := lanesOf (x.act p)
    (k * ls.length ≤ x.w.slotsLeft e.toNat →
      ∃ z, exec (.qappend a e c p) s = .next z.settled.done ∧ x.keeps z
        ∧ z.w.slotsLeft e.toNat = x.w.slotsLeft e.toNat - k * ls.length
        ∧ x.posts z pathQ (maskOf ls) (some 4) (.append (x.edge e.toNat).target die (ls.flatMap fun l =>
            (List.range k).map fun r => x.qrec e.toNat l (toBytes (4 * n) (x.vrun l (a.toNat + r * n) n))) []))
    ∧ (k ≤ x.w.slotsLeft e.toNat → x.w.slotsLeft e.toNat < k * ls.length →
      let good := ls.take (x.w.slotsLeft e.toNat / k)
      ∃ z, exec (.qappend a e c p) s = .next (z.settled.raise (x.act p) ((ls.drop good.length).map fun l =>
          { lane := l, cls := 5 })).done ∧ x.keeps z
        ∧ x.posts z pathQ (maskOf good) (some 4) (.append (x.edge e.toNat).target die (good.flatMap fun l =>
            (List.range k).map fun r => x.qrec e.toNat l (toBytes (4 * n) (x.vrun l (a.toNat + r * n) n))) []))
    ∧ (x.w.slotsLeft e.toNat < k →
      ∃ t, exec (.qappend a e c p) s = .next t ∧ x.faults t (maskOf ls) 5 0 fun _ => 0))
  ∧ (∀ (s : State) (x : Ctx) (a : VR) (e : PR) (c : BX) (p : PR) (die : Nat), s.ctx? = some x →
    x.mayIssue true p [(a.toNat, 1)] → (x.edge e.toNat).emits ≠ 0 → (∀ r ∈ x.w.resv, r.edge = e.toNat → r.die = die) →
    die < 2 →
    let k := c.toNat + 1
    let size := x.recSize e.toNat
    let off := (x.vr (x.lead p) a).toNat
    (k ≤ x.w.slotsLeft e.toNat → off % 16 = 0 → x.w.inScratch off (k * size) = true →
      ∃ z, exec (.qappendl a e c p) s = .next z.settled.done ∧ x.keeps z
        ∧ z.w.slotsLeft e.toNat = x.w.slotsLeft e.toNat - k
        ∧ x.posts z pathQ (x.act p) (some 4) (.append (x.edge e.toNat).target die
            ((List.range k).map fun _ => x.qrec e.toNat (x.lead p) (List.replicate size 0))
            ((List.range k).map fun r => off + r * size)))
    ∧ (x.w.slotsLeft e.toNat < k →
      ∃ t, exec (.qappendl a e c p) s = .next t ∧ x.faults t (maskOf [x.lead p]) 5 0 fun _ => 0))
  ∧ (∀ (s : State) (x : Ctx) (a : VR) (e : PR) (c : BX) (p : PR), s.ctx? = some x →
    x.mayIssue true p [(a.toNat, 1)] → (x.edge e.toNat).emits = 0 →
    exec (.qappendl a e c p) s = .next (x.raiseAll (x.act p) 8).done
    ∧ (x.mayIssue true p (appendRegs s a e.toNat c.toNat) → exec (.qappend a e c p) s = .next (x.raiseAll (x.act p) 8).done))
  ∧ (∀ (s : State) (x : Ctx) (a : VR) (e : PR) (c : BX) (p : PR), s.ctx? = some x → (x.w.isThread = true → p = 0) →
    x.appendRange a e.toNat c.toNat = true → exec (.qappend a e c p) s = .next x.illegal.done)

/-- Reservation words (R248, R250, R262): QRSV takes n slots of the instance the wave has reserved on, all or none, and answers n or 0;
QFLUSH gives the wave's slots on the edge back; QLEFT answers what is left. An edge that is not used faults PROTECTION. -/
def Obligations.ReservationWords : Prop :=
  (∀ (s : State) (x : Ctx) (a : VR) (e : PR) (n : B8) (p : PR), s.ctx? = some x → x.mayIssue true p [(a.toNat, 1)] →
    (x.edge e.toNat).emits = 0 → ∀ i ∈ [Instr.qrsv a e n p, .qflush e p, .qleft a e p],
      exec i s = .next (x.raiseAll (x.act p) 8).done)
  ∧ ∀ (s : State) (x : Ctx) (a : VR) (e : PR) (n : B8) (p : PR) (r : Run) (node : Node), s.ctx? = some x →
    x.mayIssue true p [(a.toNat, 1)] → s.run? x.w.run = some r → r.node? x.w.node = some node →
    (node.edge e.toNat).emits ≠ 0 →
    let d := x.w.resvDie e.toNat
    let t := (node.edge e.toNat).target
    let each := fun (v : Nat) => (lanesOf (x.act p)).map fun l => (l, Dst.vreg l a.toNat (BitVec.ofNat 32 v))
    (r.room t d n.toNat = true → exec (.qrsv a e n p) s =
      .next (Ctx.outstanding { x with
        s := s.modRun x.w.run fun r => r.reserve t d n.toNat
        w := { x.w with resv := addSlots e.toNat d n.toNat x.w.resv } } (x.act p) .ready (each n.toNat) [a.toNat]))
    ∧ (r.room t d n.toNat = false → exec (.qrsv a e n p) s = .next (x.outstanding (x.act p) .ready (each 0) [a.toNat]))
    ∧ exec (.qleft a e p) s = .next (x.outstanding (x.act p) .ready
        (each (((x.w.resv.filter fun v => v.edge == e.toNat).map (·.left)).sum)) [a.toNat])
    ∧ ∃ z : Ctx, exec (.qflush e p) s = .next z.done ∧ z.w.slotsLeft e.toNat = 0 ∧ z.c = x.c ∧ z.w.lanes = x.w.lanes
        ∧ (∀ f, f ≠ e.toNat → z.w.slotsLeft f = x.w.slotsLeft f)
        ∧ z.s = s.modRun x.w.run fun r => r.returnAll node (x.w.resv.filter fun v => v.edge == e.toNat)

/-- Queue registers and the vertical FIFO (R246, R247, R252, R262, R331, R339): QPUSH adds a row of 64 words of scratch, which must lie in it,
aligned, with no stream under way into the register; QPOP and QPEEK await a row; QLEVEL counts rows; VFPUSH adds a 64-byte
entry, of 16 lanes, that can be available 8 cycles on; VFPOP, of a control thread, awaits one; VFFREE counts free slots.
Where the spec leaves a point open, the model's choice stands: log entries 41, 57 and 59. -/
def Obligations.QueueAndFifoWords : Prop :=
  (∀ (s : State) (x : Ctx) (a : VR) (q : BX) (p : PR), s.ctx? = some x → x.mayIssue false p [(a.toNat, 1)] →
    let off := (x.vr (x.lead p) a).toNat
    (off % 4 = 0 → x.w.inScratch off 256 = true → s.streamTo x.w.id q.toNat = false →
      exec (.qpush a q p) s = .next (x.leaves { x.w with q := x.w.q.modify q.toNat (· ++ [wordsOf (x.scratchNow off 256)]) } x.c))
    ∧ (off % 4 ≠ 0 ∨ x.w.inScratch off 256 = false ∨ s.streamTo x.w.id q.toNat = true →
      exec (.qpush a q p) s = .next (x.raiseAll (x.act p) 8).done)
    ∧ exec (.qlevel a q p) s = .next (x.lanesGet (x.act p) a fun _ => BitVec.ofNat 32 (x.w.q.getD q.toNat []).length))
  ∧ (∀ (s : State) (x : Ctx) (a : VR) (q : BX) (k : BitVec 2) (p : PR), s.ctx? = some x → x.mayIssue false p [(a.toNat, 1)] →
    k.toNat * x.w.width < 64 →
    exec (.qpop a q k p) s = .next (x.outstanding (x.act p) (.qpop q.toNat k.toNat a.toNat false) [] [a.toNat])
    ∧ exec (.qpeek a q k p) s = .next (x.outstanding (x.act p) (.qpop q.toNat k.toNat a.toNat true) [] [a.toNat]))
  ∧ (∀ (s : State) (x : Ctx) (a : VR) (i : BX) (p : PR), s.ctx? = some x → x.mayIssue false p [(a.toNat, 1)] →
    16 * (i.toNat + 1) ≤ x.w.width →
    exec (.vfpush a i p) s = .next (Ctx.done { x with s := (s.modAshlar x.w.ashlar fun y => { y with fifo := y.fifo ++ [{
      wave := x.w.id, bytes := (List.range 16).flatMap fun k => toBytes 4 (x.vr (16 * i.toNat + k) a).toNat
      at_ := s.now + s.cyclesPs x.w.ashlar 8, held := if y.fifoStop then some 0 else none }] }).count x.w.ashlar 22 1 x.w.slot }))
  ∧ (∀ (s : State) (x : Ctx) (d : SR), s.ctx? = some x → x.mayIssue true 0 [] →
    exec (.vffree d) s = .next (x.scalarGets d (BitVec.ofNat 64 (16 - (s.ashlar x.w.ashlar).fifo.length)))
    ∧ (x.w.isThread = true → exec (.vfpop d) s = .next (x.outstanding x.live (.vfpop d.toNat) []
        ((List.range 8).map fun i => 128 + d.toNat + i)))
    ∧ (x.w.isThread = false → exec (.vfpop d) s = .next x.illegal.done))

/-- Graph words (R109, R251): on an aligned descriptor that may be read, whose page counts as accessed (R84), GLAUNCH posts a launch
that awaits its release, GCANCEL asks for the cancel of the slot's run of that descriptor, if any, and GSTATUS answers its state;
else every lane of Active faults.
Where the spec leaves a point open, the model's choice stands: log entry 32. -/
def Obligations.GraphWords : Prop :=
  ∀ (s : State) (x : Ctx) (a : VR) (p : PR), s.ctx? = some x → x.mayIssue true p [(a.toNat, 2)] →
    let va := (x.vr (x.lead p) a).toNat + 2 ^ 32 * (x.w.vreg (x.lead p) (a.toNat + 1)).toNat
    let y := x.onState fun u => u.touchRange x.w.ashlar x.w.slot va 64 false
    (va % 64 = 0 → s.pathFault x.w.ashlar x.w.slot va 64 { read := true } = none →
      (∃ (z : Ctx) (f : Req) (l : Launch), exec (.glaunch a p) s = .next z.settled.done ∧ z.w = y.w ∧ z.c = x.c ∧ z.s.mem = y.s.mem
        ∧ z.s.reqs = y.s.reqs ++ [f] ∧ f.body = .fence true false false 4 false ∧ f.wave = x.w.id ∧ f.lanes = oneLane (x.lead p)
        ∧ z.s.launches = y.s.launches ++ [l] ∧ l.slot = x.w.slot ∧ l.desc = va ∧ l.die = some x.w.die ∧ l.after = some f.id)
      ∧ (∀ r, y.s.runAt? x.w.slot va = some r → ∃ t, exec (.gcancel a p) s = .next t ∧ t.runs = (y.s.askCancel r.id).runs
          ∧ t.mem = (y.s.askCancel r.id).mem ∧ t.reqs = (y.s.askCancel r.id).reqs)
      ∧ (y.s.runAt? x.w.slot va = none → exec (.gcancel a p) s = .next y.done)
      ∧ exec (.gstatus a p) s = .next (y.outstanding (x.act p) .ready
          ((lanesOf (x.act p)).map fun l => (l, .vreg l a.toNat (y.s.gstatus x.w.slot va))) [a.toNat]))
    ∧ (∀ i ∈ [Instr.glaunch a p, .gcancel a p, .gstatus a p],
        (va % 64 ≠ 0 → exec i s = .next (x.raiseAll (x.act p) 8 0 va).done)
        ∧ ∀ c code, va % 64 = 0 → s.pathFault x.w.ashlar x.w.slot va 64 { read := true } = some (c, code) →
            exec i s = .next (x.raisePath (x.act p) c code va false).done)

/-- Taking a fault set (R314, R315, R317, R318): where every class of the set is enabled, the wave has a handler address, at least 16
registers and private scratch, and no delivery is live, the set's lanes run at the handler address in handler state, the frame
lies in scratch at %trapframe, and no other lane changes.
Where the spec leaves a point open, the model's choice stands: log entry 21. -/
def Obligations.TrapDelivery : Prop :=
  ∀ (s : State) (w : Wave) (n : Nat), s.wave? s.evt.a = some w → w.nextSet = some n → s.unserviced w n = false →
    w.handles n = true → w.away = false → w.lanesN ≤ 64 →
    answers .faultRouting s fun t => t.mem = s.mem ∧ t.runs = s.runs ∧ t.reqs = s.reqs
      ∧ (∃ c, t.ashlars = (s.scratchWrite w.id w.trapframe (w.frame n c)).ashlars)
      ∧ t.waveHas s.evt.a fun v => v.s = w.s ∧ v.k = w.k ∧ v.b = w.b ∧ v.trapen = w.trapen ∧ v.trapvec = w.trapvec
        ∧ ∀ l, if laneBit (w.setLanes n) l then
            (v.lane l).stat = .run ∧ (v.lane l).pc = (w.setVec n).toNat ∧ (v.lane l).idx = 0 ∧ (v.lane l).handler = true
              ∧ (v.lane l).fault = none ∧ (v.lane l).v = (w.lane l).v ∧ (v.lane l).p = (w.lane l).p
          else v.lane l = w.lane l

/-- Faults that no handler takes (R314, R321, R322): a fault that is neither enabled nor serviceable ends the run, its record posted,
with status FAULT of the wave's node; a serviceable one without a handler asks for a save of the wave, and takes the slot's next
ticket once the wave is saved.
Where the spec leaves a point open, the model's choice stands: log entry 21. -/
def Obligations.UnservicedAndServicedFaults : Prop :=
  ∀ (s : State) (w : Wave) (n : Nat) (r : Run), s.wave? s.evt.a = some w → w.nextSet = some n → s.run? w.run = some r →
    (s.unserviced w n = true → r.cancelling = false → r.posted = false →
      answers .faultRouting s fun t => t.runHas w.run fun q => q.cancelling = true ∧ q.posted = true ∧ q.status = .fault
        ∧ q.node = w.node)
    ∧ (s.unserviced w n = false → w.handles n = false → (lanesOf (w.setLanes n)).all (s.serviceable w) = true →
      w.away = false → w.slot < s.slots.length →
      answers .faultRouting s fun t => (t.slot w.slot).ticket = (s.slot w.slot).ticket
        ∧ t.waveHas s.evt.a fun v => v.svcAsked = true ∧ v.svcSet = n ∧ v.stat = .saveAsked ∧ v.saveFor = 2 ∧ v.ticket = w.ticket)
    ∧ (w.svcAsked = true → w.stat = .saved → w.slot < s.slots.length →
      ((s.beginService w.id).slot w.slot).ticket = ((s.slot w.slot).ticket + 1) % 2 ^ 32
        ∧ (s.beginService w.id).waveHas w.id fun v => v.ticket = some (s.slot w.slot).ticket ∧ v.svcAsked = false)

/-- Waits, results and replies (R49, R114, R149, R153, R166, R319, R321, R358): lanes whose sleep has ended run, where a later word of
the clause does not park them, and the wave's boundary follows; values that are ready are written and the scoreboard counts off; a
lane that has waited 100 ms in one place faults WATCHDOG while such counts run; a reply to a service lets its set go on or ends its
run; an MWAIT's deadline ends its wait with 2 and leaves its entry armed; the lanes of a wave of a cancelled run are killed.
Where the spec leaves a point open, the model's choice stands: log entries 19, 21, 24 and 38. -/
def Obligations.WaveEvents : Prop :=
  (∀ (s : State) (w : Wave), s.wave? s.evt.a = some w → w.away = false →
    ∃ u : State, exec .sleepEnd s = .next (if u.atBoundary s.evt.a then u.boundary s.evt.a else u) ∧ u.mem = s.mem ∧ u.reqs = s.reqs
      ∧ u.waveHas s.evt.a fun v => ∀ l n, (w.lane l).stat = .parked (.sleep n) →
        if l < w.lanesN ∧ laneBit s.evt.mask l = true then
          (v.lane l).pc = (w.lane l).pc ∧ (v.lane l).v = (w.lane l).v
          ∧ (s.clock (courseOf w.ashlar) < n → (v.lane l).stat = .parked (.sleep n))
          ∧ (n ≤ s.clock (courseOf w.ashlar) → ((w.lane l).also = [] → (v.lane l).stat = .run)
            ∧ ∀ p ps, (w.lane l).also = p :: ps → (∀ k, p ≠ .sleep k) → (v.lane l).stat = .parked p ∧ ∀ q ∈ (v.lane l).also, q ∈ ps)
        else v.lane l = w.lane l)
  ∧ (∀ (s : State) (w : Wave) (o : Op), s.wave? s.evt.a = some w → w.away = false → w.ops.find? (·.id == s.evt.b) = some o →
    o.wait = .ready → w.sfuWaits o = false → o.done &&& o.lanes &&& s.evt.mask ≠ 0 →
    let m := o.done &&& o.lanes &&& s.evt.mask
    exec .resultArrival s = .next ((((s.arriveAcquire w o m).setWave (w.take o m)).poke w.id).settle)
    ∧ (o.lanes &&& ~~~m = 0 → (w.take o m).sb = w.sb.modify o.sb (· - 1) ∧ ∀ k ∈ (w.take o m).ops, k.id ≠ o.id)
    ∧ (∀ l r x, o.dsts = [(l, .vreg l r x)] → o.skip = [] → laneBit m l = true → l < w.lanesN → w.isThread = false →
        r < (w.lane l).v.length → ((w.take o m).lane l).v.getD r 0 = x)
    ∧ ∀ l n x, o.dsts = [(l, .sreg n x)] → o.skip = [] → laneBit m l = true → n < w.s.length → (w.take o m).sreg n = x)
  ∧ (∀ (s : State) (w : Wave) (l : Nat), s.wave? s.evt.a = some w → w.clause = none → l < w.lanesN → l < 64 →
    s.evt.mask = oneLane l → 100000000000 ≤ (w.lane l).waited → (w.lane l).stat = .run → (w.lane l).fault = none →
    s.counting = true →
    answers .watchdog s fun t => t.waveHas s.evt.a fun v => (v.lane l).stat = .parked .fault
      ∧ ∃ f, (v.lane l).fault = some f ∧ f.cls = 13 ∧ f.late = true ∧ f.pc = (w.lane l).lateResume.1 ∧ f.resumePc = (w.lane l).lateResume.1)
  ∧ (∀ (s : State) (w : Wave), s.ticketed s.evt.a s.evt.b = some w → s.wave? w.id = some w →
    (answers .fsvcreplyResume s fun t => t.waveHas w.id fun v => v.ticket = none
      ∧ ∀ l f, l < w.lanesN → laneBit (w.setLanes w.svcSet) l = true → (w.lane l).fault = some f →
          (v.lane l).stat = .run ∧ (v.lane l).fault = none ∧ (v.lane l).pc = f.resumePc)
    ∧ ∀ r, s.run? w.run = some r → r.cancelling = false → r.posted = false →
        answers .fsvcreplyKill s fun t => (t.waveHas w.id fun v => v.ticket = none)
          ∧ t.runHas w.run fun q => q.cancelling = true ∧ q.status = .fault)
  ∧ (∀ (s : State) (w : Wave) (o : Op) (d sd : Nat) (b : Bool), s.wave? s.evt.a = some w → o ∈ w.ops →
    o.wait = .mwait (some d) sd b none → d ≤ s.now → s.armedBefore w o = true → s.mwaitNow w o = none →
    answers .mwaitTimeout s fun t => t.mem = s.mem ∧ t.waveHas s.evt.a fun v => v.watch = w.watch ∧ v.lanes = w.lanes
      ∧ { o with wait := .mwait (some d) sd b (some 2) } ∈ v.ops)
  ∧ (∀ (s : State) (w : Wave), s.wave? s.evt.a = some w → s.killable w = true → w.lanesN ≤ 64 →
    answers .laneKill s fun t => t.waveHas s.evt.a fun v => v.active = false)

/-- Records, waves and their places (R33, R36, R43, R45, R58, R61, R71): what record arrivals, age, REFORM bins, retirement, stopped
streams, windows and split changes leave where each is due; the wave of a REFORM bin has its filed lanes' registers and predicates.
A record arrival is stated up to what the queue ways then shed, and for a mesh ring (R266) by Run.push.
Where the spec leaves a point open, the model's choice stands: log entries 29, 31, 34 and 35. -/
def Obligations.RecordAndWaveEvents : Prop :=
  (∀ (s : State) (q : Req) (r : Run) (node die : Nat) (recs : List QRec), s.req? s.evt.a = some q →
    q.body = .append node die recs [] → q.cross = none → s.ready q = true → s.reqs.head? = some q → s.run? q.run = some r →
    r.cancelling = false → q.wave ≠ 0 → 2 * node + die < r.insts.length →
    ∃ u : State, exec .recordArrival s = .next ((u.shedRecords (s.queueDie die) (some q.run)).settle) ∧ u.mem = s.mem ∧ u.waves = s.waves
      ∧ u.reqs = s.reqs.filter (fun k => k.id != s.evt.a)
      ∧ u.runHas q.run fun v =>
        v.inst node die = ((r.giveBack node die recs.length).push node die s.now recs).inst node die
        ∧ (r.isRing node = false →
            (v.inst node die).recs = (r.inst node die).recs ++ recs.map (fun x => { x with at_ := s.now }))
        ∧ (v.inst node die).reserved = (r.inst node die).reserved - recs.length)
  ∧ (∀ (s : State) (r : Run) (nd : Node) (q : QRec) (qs : List QRec), s.run? s.evt.a = some r → r.node? s.evt.b = some nd →
    (r.inst s.evt.b s.evt.c).all = q :: qs → nd.batchage ≠ 0 → q.at_ + nd.batchage * 1000000 ≤ s.now →
    2 * s.evt.b + s.evt.c < r.insts.length →
    answers .batchageExpiry s fun t => t.runHas s.evt.a fun v => (v.inst s.evt.b s.evt.c).aged = true
      ∧ (v.inst s.evt.b s.evt.c).recs = (r.inst s.evt.b s.evt.c).recs)
  ∧ (∀ (s : State) (b : Bin) (nd : Node) (kb : List DWord × List DWord) (g x : Nat),
    ((s.ashlar s.evt.a).bins.getD s.evt.b none) = some b → s.node? b.run b.node = some nd →
    b.width ≤ b.lanes.length ∨ b.since + nd.binPs ≤ s.now → s.dieHeld (dieOf s.evt.a) = false →
    (s.ashlar s.evt.a).retired = false → s.awaited s.evt.a none = false →
    s.tables b.run (dieOf s.evt.a) b.slot nd = .inr kb →
    findGranules (s.ashlar s.evt.a).usedGranules (s.ashlar s.evt.a).granules nd.pscr 0 = some (g, x) →
    ∃ (u : State) (w : Wave), exec .reformBinClose s = .next (u.refile s.evt.a) ∧ w ∈ u.waves ∧ w.id = s.nextId ∧ w.run = b.run ∧ w.node = b.node
      ∧ w.ashlar = s.evt.a ∧ w.resv = b.resv ∧ u.mem = s.mem
      ∧ (nd.isControl = false → ∀ i f, i < nd.width → b.lanes[i]? = some f → (w.lane i).v = f.v ∧ (w.lane i).p = f.p
          ∧ (w.lane i).stat = .run ∧ (w.lane i).pc = b.pc)
      ∧ (s.evt.a < s.ashlars.length → s.evt.b < (s.ashlar s.evt.a).bins.length → (u.ashlar s.evt.a).bins.getD s.evt.b none = none))
  ∧ (∀ (s : State) (w : Wave), s.wave? s.evt.a = some w → s.retirable w = true →
    answers .waveRetirement s fun t => t.waves.map (·.id) = (s.waves.map (·.id)).filter (· != s.evt.a) ∧ t.mem = s.mem)
  ∧ (∀ (s : State) (w : Wave) (r : Run), s.wave? s.evt.a = some w → s.streamStuck w = true → 100000000000 ≤ w.streamHeld → s.counting = true →
    s.run? w.run = some r → r.cancelling = false → r.posted = false →
    answers .drainingStreamTimeout s fun t => t.runHas w.run fun q => q.cancelling = true ∧ q.status = .fault)
  ∧ (∀ (s : State), s.window < s.now / 100000000 →
    answers .rtWindowStart s fun t => t.window = s.now / 100000000 ∧ (∀ x ∈ t.slots, x.rtUsed = [0, 0]) ∧ t.waves = s.waves)
  ∧ (∀ (s : State) (n : Nat), s.evt.a < s.ashlars.length → (s.ashlar s.evt.a).splitNext = some n →
    (∀ u ∈ (s.ashlar s.evt.a).usedGranules, u.2 = 0 ∨ u.1 + u.2 ≤ splitGranules n) →
    splitGranules n < splitGranules (s.ashlar s.evt.a).split
      ∨ ((∀ k ∈ s.l1, k.cache = s.evt.a → k.dirty = 0) ∧ s.backsOf [s.evt.a] = []) →
    answers .splitChange s fun t => (t.ashlar s.evt.a).split = n ∧ (t.ashlar s.evt.a).splitNext = none ∧ t.mem = s.mem)

/-- The scheduler's decision and its waits (R58, R64, R73, R343): a die whose only candidate is one formed wave of a job that pays for
it places it on the ashlar that R68 picks; a stalled run spills or ends; a wave waits 50 µs before a save is asked for; a
save keeps its registers, and so does a restore but for lanes that a REFORM bin takes as it ends; a restore whose context cannot be
read from the spill area ends the run (R343). A save is stated up to what the queue ways then shed.
Where the spec leaves a point open, the model's choice stands: log entries 28, 35, 36 and 70. -/
def Obligations.SchedulingEvents : Prop :=
  (∀ (s : State) (c : Cand) (a : Nat) (v : State), s.evt.a < 2 → s.decides s.evt.a = true →
    let u := s.beforeDecision s.evt.a
    u.cands s.evt.a = [c] → c.wave = none → (u.slot c.slot).rt = false → (u.slot c.slot).share ≠ 0 → c.slot < 64 →
    u.now < c.since + 1000000000 → (u.spot s.evt.a c).isSome = true →
    (u.chargeWin c.slot [c.slot]).spot s.evt.a c = some (a, v) →
    exec .placement s = .next (v.placeNew s.evt.a a c))
  ∧ (∀ (s : State) (d a : Nat) (c : Cand) (kb : List DWord × List DWord) (rr : Run × List Resv),
    let i := c.run.inst c.n c.src
    (i.takeOut (fun q => q.cls == c.cls) c.recs.length).2 = [] → c.run.isMesh c.n = false →
    s.tables c.run.id d c.run.slot c.node = .inr kb → c.run.reserveAll c.node d = some rr →
    ∃ w ∈ (s.placeNew d a c).waves, w.run = c.run.id ∧ w.node = c.n ∧ w.ashlar = a ∧ w.resv = rr.2 ∧ w.slot = c.run.slot)
  ∧ (∀ (s : State) (r : Run), s.run? s.evt.a = some r → r.cancelling = false → (r.insts.any fun i => i.queued != 0) = true →
    r.placedAt + r.spillTo * 1000000 ≤ s.now → s.runBusy r = false →
    let due := ∃ d, d < 2 ∧ ((s.cands d).any fun c => c.run.id == r.id) = true
    (due ∨ s.blocked r = [] → answers .spillTimeout s fun t => t.runHas s.evt.a fun q => q.placedAt = s.now ∧ q.spills = r.spills)
    ∧ (¬due → s.blocked r ≠ [] → (s.overCap r).isSome = true →
      answers .spillTimeout s fun t => t.runHas s.evt.a fun q => q.cancelling = true ∧ q.status = .fault)
    ∧ (¬due → s.overCap r = none → (∃ b ∈ s.blocked r, (r.inst b.1 b.2.1).fresh ≠ []) →
      (∀ nd ∈ r.nodes, nd.isProgram = true → 0 < nd.width) →
      answers .spillTimeout s fun t => t.runHas s.evt.a fun q => q.cancelling = true ∨ r.spills < q.spills))
  ∧ (∀ (s : State) (w : Wave), s.wave? s.evt.a = some w → w.stat = .resident → w.mwaiting = true → s.mwaitEnds w = false →
    w.waitSince + 50000000 ≤ s.now →
    answers .waitSaveTimeout s fun t => t.waveHas s.evt.a fun v => v.stat = .saveAsked ∧ v.saveFor = 1 ∧ v.lanes = w.lanes)
  ∧ (∀ (s : State) (w : Wave), s.wave? s.evt.a = some w → s.savable w = true → s.parkSaves w = false → s.transferFirst w = true →
    w.contextBytes + 64 * s.fifoOf w ≤ s.roomFor w.run (s.queueDie w.die) →
    ∃ u : State, exec .contextSave s = .next (u.shedRecords (s.queueDie w.die) (some w.run)) ∧ (w.svcAsked = false → u.mem = s.mem)
      ∧ u.waveHas s.evt.a fun v => v.stat = .saved ∧ v.s = w.s ∧ v.fpflags = w.fpflags
        ∧ ∀ l, (v.lane l).v = (w.lane l).v ∧ (v.lane l).p = (w.lane l).p ∧ (v.lane l).pc = (w.lane l).pc)
  ∧ (∀ (s : State) (w : Wave), s.wave? s.evt.a = some w → w.stat = .restoring → w.ashlar = s.evt.b → s.transferFirst w = true →
    w.savedUnits = none →
    answers .contextRestore s fun t => t.mem = s.mem ∧ t.waveHas s.evt.a fun v => v.away = false ∧ v.s = w.s
      ∧ ∀ l, (v.lane l).stat ≠ .filed → (v.lane l).v = (w.lane l).v ∧ (v.lane l).p = (w.lane l).p)
  ∧ (∀ (s : State) (w : Wave) (r : Run) (u k addr : Nat), s.wave? s.evt.a = some w → w.stat = .restoring → w.ashlar = s.evt.b →
    s.transferFirst w = true → w.savedUnits = some (u, k) → s.run? w.run = some r → r.cancelling = false →
    s.spillFail r u k = some addr →
    answers .contextRestore s fun t => t.runHas w.run fun q => q.cancelling = true ∧ q.status = .fault)

/-- Jobs, phases and runs (R46 to R50, R53, R55, R57, R251, R297, R380): binding the record at HEAD, starting a phase, launching a run
(one of a cancelled phase or job is dropped), its completion, and the host's cancels, which ask for the cancel of every run of a phase
that is not over; one whose counter is zero with its roots fed ends as it is.
Where the spec leaves a point open, the model's choice stands: log entries 32, 33 and 65. -/
def Obligations.JobEvents : Prop :=
  (∀ (s : State), s.rootDue = true →
    let j := s.nextJob
    (∀ n, (j.slot ≤ 63 ∨ j.slot = 255) → s.slotFor j = some n → s.jobOk j = true → n < s.slots.length →
      answers .rootQueueBind s fun t => t.host.head = s.host.head + 1 ∧ (t.slot n).bound = true ∧ (t.slot n).started = false
        ∧ (t.slot n).ptroot = j.ptroot ∧ (t.slot n).phases = j.phases ∧ (t.slot n).nphase = j.nphase ∧ (t.slot n).phase = 0
        ∧ (t.slot n).prio = j.prio ∧ (t.slot n).sys = j.sys ∧ (t.slot n).share = j.share ∧ ∀ e ∈ t.tlb, e.asid ≠ n)
    ∧ ((j.slot ≤ 63 ∨ j.slot = 255) → s.slotFor j = none →
      exec .rootQueueBind s = .next { s with host := { s.host with waiting := true } })
    ∧ (63 < j.slot → j.slot ≠ 255 → answers .rootQueueBind s fun t => t.host.head = s.host.head + 1
        ∧ t.host.badIndex = s.host.head.toNat % 2 ^ s.host.rqsize ∧ t.host.badCount = min 65535 (s.host.badCount + 1)
        ∧ t.slots = s.slots))
  ∧ (∀ (s : State) (e : List Byte), s.phaseDue s.evt.a = true → s.evt.a < s.slots.length →
    let x := s.slot s.evt.a
    let at_ := x.phases + 16 * x.phase
    s.cleanVa unitTlb s.evt.a at_ 16 = true → s.unitRead? 0 s.evt.a at_ 16 = some e → 1 ≤ field e 8 1 → field e 8 1 ≤ 64 →
    field e 9 7 = 0 → alignedTo (field e 0 8) 64 = true →
    answers .phaseStart s fun t => (t.slot s.evt.a).started = true ∧ (t.slot s.evt.a).phaseStatus = .ok
      ∧ ∃ m, s.nextId ≤ m ∧ m + field e 8 1 ≤ t.nextId ∧ t.launches = s.launches ++ (List.range (field e 8 1)).map fun i =>
          { id := m + i, slot := s.evt.a, desc := field e 0 8 + 64 * i, die := none })
  ∧ (∀ (s : State) (l : Launch), l ∈ s.launches → l.id = s.evt.a →
    (s.slot l.slot).phaseCancelled = true ∨ (s.slot l.slot).jobCancel = true →
    answers .runLaunch s fun t => (∀ k ∈ t.launches, k.id ≠ s.evt.a) ∧ t.runs.map (·.id) = s.runs.map (·.id)
      ∧ t.runCounter = s.runCounter)
  ∧ (∀ (s : State) (l : Launch), s.nextLaunch = some l → l.id = s.evt.a →
    (∀ k ∈ s.launches, k.id = l.id → (s.slot k.slot).phaseCancelled = false ∧ (s.slot k.slot).jobCancel = false) →
    let rc := s.nextRunId s.runCounter 4096
    let s1 := { s with launches := s.launches.filter fun k => k.id != l.id, runCounter := rc.2 }
    let ends := fun (ids : List Nat) (t : State) => t.launches = s1.launches ∧ t.runCounter = rc.2 ∧ t.runs.map (·.id) = ids
    let ids := s.runs.map (·.id)
    (s1.unitRead? 0 l.slot l.desc 64 = none → answers .runLaunch s (ends ids))
    ∧ ∀ b, s1.unitRead? 0 l.slot l.desc 64 = some b →
      let d := runDescOf b
      let s2 := (s1.launchTouch l.slot l.desc 64).launchTouch l.slot d.roottab (16 * d.rootn)
      let s3 := s2.launchTouch l.slot d.graph (128 * d.nodes)
      let nets := (s3.newRun l d rc.1).nodes.filter fun n => n.isFixed 5
      let s4 := nets.foldl (fun (u : State) n => u.launchTouch l.slot n.fixparam
        (networkBytes (field (u.readAs (.launch l.id) unitTlb l.slot n.fixparam 64) 0 1))) s3
      ((s.runAt? l.slot l.desc).isSome = true ∨ s2.descOk l.slot l.desc d = false → answers .runLaunch s (ends ids))
      ∧ ((s.runAt? l.slot l.desc).isSome = false → s2.descOk l.slot l.desc d = true →
        ((s4.badNode (.launch l.id) l.slot d.graph d.nodes).isSome = true → answers .runLaunch s (ends ids))
        ∧ (s4.badNode (.launch l.id) l.slot d.graph d.nodes = none → answers .runLaunch s fun t => ends (ids ++ [rc.1]) t
            ∧ ∃ r ∈ t.runs, r.id = rc.1 ∧ r.slot = l.slot ∧ r.desc = l.desc ∧ r.cancelling = false)))
  ∧ (∀ (s : State) (r : Run), s.run? s.evt.a = some r → s.runOver r = true →
    (r.flushed = false → answers .runCompletion s fun t => t.mem = s.mem ∧ t.runHas s.evt.a fun q => q.flushed = true)
    ∧ (r.flushed = true → s.backsOf (s.runCaches r) = [] → answers .runCompletion s fun t =>
        t.runs = s.runs.filter (fun q => q.id != s.evt.a) ∧ (∀ e ∈ t.keystones, e.run ≠ s.evt.a)
        ∧ ∀ a ∈ t.ashlars, ∀ b ∈ a.barriers, b.run = s.evt.a → b.state = .idle))
  ∧ (∀ (s : State), s.firmwareRuns = true → s.evt.a < s.slots.length →
    ((s.slot s.evt.a).bound = true → (s.slot s.evt.a).started = true →
      exec .slotcmdPhase s = .next (if s.phaseOver s.evt.a = true then s
        else (s.modSlot s.evt.a fun x => { x with phaseCancelled := true }).cancelPhase s.evt.a)
      ∧ (answers .slotcmdPhase s fun t => ∀ l ∈ t.launches, l.slot ≠ s.evt.a)
      ∧ (answers .slotcmdJob s fun t => ∀ l ∈ t.launches, l.slot ≠ s.evt.a))
    ∧ ((s.slot s.evt.a).bound = true → (s.slot s.evt.a).started = false →
      exec .slotcmdPhase s = .next s ∧ answers .slotcmdJob s fun t => (t.slot s.evt.a).bound = false))
  ∧ (∀ (s : State) (r : Run) (id : Nat), s.run? id = some r → r.cancelling = false →
    (s.runCount r = 0 ∧ r.rootsFed = true → s.askCancel id = s)
    ∧ (s.runCount r ≠ 0 ∨ r.rootsFed = false → (s.askCancel id).runHas id fun q => q.cancelling = true ∧ q.status = .cancelled))

/-- Host registers (R25, R72, R86, R295 to R297, R301, R308, R321, R347, R366, R367): the root queue's registers, BAR2 within reach of the
PCIe port, the mailbox and the flash window, a slot's registers, invalidation, L1 modes and counters, as the host writes them while
firmware runs; a virtual function's write to a register that only the physical function may write is ignored.
Where the spec leaves a point open, the model's choice stands: log entries 50, 51, 60 and 70. -/
def Obligations.HostEvents : Prop :=
  (∀ (s : State), s.firmwareRuns = true →
    let v := s.evt.v
    let free := s.host.head = s.host.tail ∨ s.host.err = true
    (answers .rqtailWrite s fun t => t.host.tail = v.setWidth 32 ∧ t.host.head = s.host.head
        ∧ t.host.err = (s.host.err || decide (2 ^ s.host.rqsize < (v.setWidth 32 - s.host.head).toNat)) ∧ t.slots = s.slots)
    ∧ (free → answers .rqbaseWrite s fun t => t.slots = s.slots ∧ t.mem = s.mem ∧ t.waves = s.waves ∧ t.host = { s.host with
        rqbase := v.toNat % 2 ^ 44 / 64 * 64, head := 0, tail := 0, err := false, waiting := false, badIndex := 0, badCount := 0 })
    ∧ (¬free → exec .rqbaseWrite s = .next s ∧ exec .rqsizeWrite s = .next s)
    ∧ (free → exec .rqsizeWrite s = .next (if 6 ≤ v.toNat ∧ v.toNat ≤ 16 then { s with host := { s.host with rqsize := v.toNat } }
        else s))
    ∧ (let pages := v.toNat / 2 ^ 16 % 2 ^ 16
       let asid := v.toNat % 2 ^ 6
       let h := { s.host with
         invpages := pages, invrange := v.getLsbD 6, invasid := asid, invgo := s.host.invgo || v.getLsbD 63
         inval := if v.getLsbD 63 then (asid, if v.getLsbD 6 then some (s.host.invva / 2 ^ 16, pages) else none)
           else s.host.inval }
       exec .invctlGo s = .next (if s.host.invgo = true ∧ v.getLsbD 63 = true then s
         else { s with host := h, tlb := if v.getLsbD 63 then s.tlb.filter fun e => !h.coversEntry e else s.tlb }))
    ∧ exec .l1modeWrite s = .next (if (s.course s.evt.a).l1next.isSome ∨ (s.course s.evt.a).fused = v.getLsbD 0 then s
        else s.modCourse s.evt.a fun x => { x with l1next := some (v.getLsbD 0) })
    ∧ (1 ≤ s.evt.b → s.evt.b ≤ (s.ashlar s.evt.a).pmc.length → s.evt.b ≤ (s.ashlar s.evt.a).pmcsel.length →
      s.evt.a < s.ashlars.length →
      (answers .pmcselWrite s fun t => (t.ashlar s.evt.a).pmcsel = (s.ashlar s.evt.a).pmcsel.set (s.evt.b - 1) (v &&& 0x7FFF)
          ∧ (t.ashlar s.evt.a).pmc.getD (s.evt.b - 1) 0
            = if v.getLsbD 63 then 0 else (s.ashlar s.evt.a).pmc.getD (s.evt.b - 1) 0)
      ∧ answers .pmcClear s fun t => (t.ashlar s.evt.a).pmc.getD (s.evt.b - 1) 0 = 0 ∧ t.waves = s.waves))
  ∧ (∀ (s : State), s.firmwareRuns = false → ∀ i ∈ [Instr.rqtailWrite, .rqbaseWrite, .rqsizeWrite, .invctlGo, .l1modeWrite,
      .pmcselWrite, .pmcClear, .slotcmdPhase, .slotcmdJob], exec i s = .next s)
  ∧ (∀ (s : State), s.host.invgo = true → (∀ r ∈ s.reqs, s.translated r = false) →
    exec .invalidationComplete s = .next { s with
      tlb := s.tlb.filter fun t => !s.host.coversEntry t, host := { s.host with invgo := false } })
  ∧ (∀ (s : State) (m : Bool), (s.course s.evt.a).l1next = some m → s.evt.a < s.courses.length →
    (∀ k ∈ s.l1, (courseAshlars s.evt.a).contains k.cache = true → k.dirty = 0) →
    (∀ r ∈ s.reqs, ∀ p, r.body = .packet p → (courseAshlars s.evt.a).contains p.src = true → p.stage = .performed) →
    answers .l1modeChangeComplete s fun t => (t.course s.evt.a).fused = m ∧ (t.course s.evt.a).l1next = none ∧ t.mem = s.mem
      ∧ ∀ k ∈ t.l1, (courseAshlars s.evt.a).contains k.cache = false)
  ∧ (∀ (s : State) (off len : Nat), s.evt.acc = .read off len → s.firmwareRuns = true → off + len ≤ s.host.barSize →
    s.host.winbase + off + len ≤ hbmTop →
    let lines := s.host.bar2Lines off len
    (lines.all (s.reach pcieSrc) = true → answers .hostBar2Access s fun t => t.mem = s.mem ∧ t.host = { s.host with
      readData := (List.range len).map fun i => s.mem.read (s.host.winbase + (off + i)) })
    ∧ (lines.all (s.reach pcieSrc) = false → exec .hostBar2Access s = .next s))
  ∧ (∀ (s : State) (off : Nat) (data : List Byte), s.evt.acc = .write off data → s.firmwareRuns = true →
    s.memOk → off + data.length ≤ s.host.barSize → s.host.winbase + off + data.length ≤ hbmTop →
    (s.host.bar2Lines off data.length).all (s.reach pcieSrc) = true →
    answers .hostBar2Access s fun t => ∀ a, t.mem.read a =
      if s.host.winbase + off ≤ a ∧ a < s.host.winbase + off + data.length then data.getD (a - (s.host.winbase + off)) 0
      else s.mem.read a)
  ∧ (∀ (s : State), s.evt.a % 8 ≠ 0 ∨ s.evt.b ≠ 0 → exec .registerWrite s = .next s)
  ∧ (∀ (s : State), s.evt.a % 8 = 0 → s.evt.b = 0 →
    let off := s.evt.a
    let v := s.evt.v
    (s.mailOpen = true → s.host.doorbell = false →
      (off = 0x40000 → exec .registerWrite s = .next { s with host := { s.host with cmd := v } })
      ∧ (0x40008 ≤ off → off < 0x40040 → exec .registerWrite s = .next { s with host := { s.host with
          args := s.host.args.set ((off - 0x40000) / 8 - 1) v } })
      ∧ (off = 0x40048 → v.getLsbD 0 = true → answers .registerWrite s fun t => t.host.doorbell = true ∧ t.host.cmd = s.host.cmd
          ∧ t.host.hostRang = !s.evt.flag ∧ t.host.done = false))
    ∧ (s.host.doorbell = true → 0x40000 ≤ off → off < 0x40050 → exec .registerWrite s = .next s)
    ∧ (s.mailOpen = true → 0x50000 ≤ off → off < 0x60000 → exec .registerWrite s = .next { s with plumb := { s.plumb with
        window := s.plumb.window.writeN (off - 0x50000) (toBytes 8 v.toNat) } })
    ∧ (s.firmwareRuns = true → s.evt.flag = false →
      (∀ n, n < 64 → off = 0x20000 + 256 * n + 0x28 → exec .registerWrite s = .next (s.modSlot n fun x => { x with fsvc := v.getLsbD 0 }))
      ∧ (∀ n, n < 64 → off = 0x20000 + 256 * n + 0x10 → exec .registerWrite s = .next (s.modSlot n fun x => { x with
          grant := x.grant.set 0 (v.toNat % 2 ^ 24, v.toNat / 2 ^ 32 % 2 ^ 24) }))
      ∧ (off = 0x31000 → exec .registerWrite s = .next { s with host := { s.host with invva := v.toNat / 2 ^ 16 % 2 ^ 32 * 2 ^ 16 } })))

/-- Memory packets, walks and promotions (R20 to R22, R79, R84, R97, R105, R107, R209, R310): a packet on its way moves one hop; at
its home one that needs the stack goes on to it; else a store writes its bytes, an atomic replaces the bytes by the operation's result
and a read answers the bytes there; the acknowledgement, once it is back at its source, frees the packet and hands a read's bytes to its
lane; an access to space 1 writes scratch; a walk that fails faults its lane late at its address; a promotion writes the marked ashlar's
L1 back and then clears the mark. What the acknowledgement leaves is stated up to the requests that then go on.
Where the spec leaves a point open, the model's choice stands: log entries 17, 63, 64 and 69. -/
def Obligations.MemoryEvents : Prop :=
  (∀ (s : State) (r : Req) (p : Packet), s.req? s.evt.a = some r → r.body = .packet p → p.stage = .flight → r.cross = none →
    p.there = false → answers .memoryPacket s fun t => t.mem = s.mem
      ∧ ∃ k, t.req? s.evt.a = some k ∧ k.body = .packet (s.hop p).1)
  ∧ (∀ (s : State) (r : Req) (p : Packet) (q : Piece), s.req? s.evt.a = some r → r.body = .packet p → p.stage = .flight →
    r.cross = none → p.there = true → p.told = false → s.packetEarly r.id p = false → p.short = false → p.pieces = [q] → s.memOk →
    (∀ u m, s.parentMem p = some (u, m) → s.mustPromote .global p.line m u.ashlar = false) →
    (s.needsStack p = true → p.fetched = false → answers .memoryPacket s fun t => t.mem = s.mem
      ∧ ∃ k z, t.req? s.evt.a = some k ∧ k.body = .packet z ∧ z.stage = .stack true ∧ z.pieces = p.pieces)
    ∧ ((s.needsStack p = false ∨ p.fetched = true) →
    (p.kind = .store → answers .memoryPacket s fun t => ∀ a, t.mem.read a =
      if q.addr ≤ a ∧ a < q.addr + q.data.length then q.data.getD (a - q.addr) 0 else s.mem.read a)
    ∧ (∀ op, p.kind = .atomic op → s.bad p.line = false → (op.bytes (s.mem.readN q.addr q.len) q.data).length = q.len →
      answers .memoryPacket s fun t => t.mem.readN q.addr q.len = op.bytes (s.mem.readN q.addr q.len) q.data
        ∧ ∀ a, a < q.addr ∨ q.addr + q.len ≤ a → t.mem.read a = s.mem.read a)
    ∧ (p.kind = .load → p.fill = none → s.bad p.line = false → answers .memoryPacket s fun t => t.mem = s.mem
      ∧ ∃ k z, t.req? s.evt.a = some k ∧ k.body = .packet z ∧ z.stage = .performed
        ∧ z.pieces = [{ q with data := (List.range q.len).map fun i =>
            if p.policy = 3 then s.mem.read (q.addr + i) else s.seenByte p.src (q.addr + i) }])))
  ∧ (∀ (s : State) (r : Req) (m : MemReq) (it : Item) (w : Wave), s.req? s.evt.a = some r → r.body = .mem m → m.space = 1 →
    m.kind = .store → m.items = [it] → s.ready r = true → s.lineBusy r m = false → s.wave? r.wave = some w → w.away = false →
    answers .memoryPacket s fun t => t.mem = s.mem
      ∧ ∀ a, (t.ashlar a).scratch = ((s.scratchWrite w.id it.addr it.data).ashlar a).scratch)
  ∧ (∀ (s : State) (r : Req) (p : Packet), s.req? s.evt.a = some r → r.body = .packet p → p.stage = .performed → r.cross = none →
    p.there = true → (∀ q ∈ s.reqs, q.id < s.nextId) →
    (answers .packetAcknowledgement s fun t => (∀ q ∈ t.reqs, q.id ≠ s.evt.a) ∧ t.mem = s.mem)
    ∧ ∀ (u : Req) (m : MemReq) (it : Item) (q : Piece) (o : Nat) (w : Wave), p.parent = some u.id → s.req? u.id = some u →
      u.body = .mem m → m.kind = .load → m.items = [it] → p.pieces = [q] → it.lane = q.lane → it.left = q.data.length →
      u.op = some o → s.wave? u.wave = some w → (∀ k ∈ s.reqs, ∀ z, k.body = .packet z → z.stage ≠ .window) →
      ∃ t : State, exec .packetAcknowledgement s = .next t.settle ∧ t.waveHas u.wave fun v => v.ops = (w.modOp o fun k => { k with
        done := k.done ||| (m.lanesOf u it &&& k.lanes), dsts := k.dsts ++ m.dst.values (it.fill q.off q.data) }).ops)
  ∧ (∀ (s : State) (r : Req) (p : Packet), s.req? s.evt.a = some r → r.body = .packet p → p.stage = .fullSet → p.kind = .store →
    (∀ q ∈ s.reqs, q.id = s.evt.a → q = r) → (s.keepsShort p.line = false ∨ (s.shortBank p.line).isSome) →
    answers .shortStoreWaitEnd s fun t => t.mem = s.mem ∧ ∀ q ∈ t.reqs, q.id = s.evt.a → ∃ k, q.body = .packet k ∧ k.stage = .performed)
  ∧ (∀ (s : State) (m : Mark), s.mark? = some m → m.asked = false → s.promotes m = true →
    answers .promotionRequest s fun t => { m with asked := true } ∈ t.marks ∧ m ∉ t.marks ∧ t.mem = s.mem
      ∧ ∀ l ∈ t.l1, (s.l1Group m.ashlar).contains l.cache = true → l.dirty = 0)
  ∧ (∀ (s : State) (m : Mark), s.mark? = some m → m.asked = true → s.posted m.ashlar = false →
    (∀ r ∈ s.reqs, ∀ p, r.body = .packet p → p.line = m.line → p.stage = .promote → r.cross = none ∧ ∃ b, p.kind = .strongLoad b) →
    answers .promotionReply s fun t => (∀ k ∈ t.marks, k.line = m.line → k.kind ≠ m.kind) ∧ t.mem = s.mem
      ∧ ∀ r ∈ t.reqs, ∀ p, r.body = .packet p → p.line = m.line → (if p.short then LineKind.short else .global) = m.kind →
          p.stage ≠ .promote)
  ∧ (∀ (s : State) (r : Req) (m : MemReq) (it : Item), s.req? s.evt.a = some r → r.body = .mem m → m.space = 0 → m.sent = false →
    s.ready r = true → s.lineBusy r m = false → s.walkWaits r = false → m.items = [it] →
    (s.pathFault r.ashlar r.slot it.addr it.size m.kind.need = none → (∀ q ∈ s.reqs, q.id < s.nextId) →
      (∀ q ∈ s.reqs, q.id = s.evt.a → q = r) →
      answers .pageWalk s fun t => ∀ q ∈ t.reqs, q.id = s.evt.a → ∃ k, q.body = .mem k ∧ k.sent = true)
    ∧ ∀ (c code o : Nat) (w : Wave) (k : Op), s.pathFault r.ashlar r.slot it.addr it.size m.kind.need = some (c, code) →
      r.op = some o → s.wave? r.wave = some w → w.ops.find? (·.id == o) = some k → m.scalar = false → it.lane < w.lanesN →
      it.lane < 64 → (w.lane it.lane).late = none → (w.lane it.lane).fault = none →
      answers .pageWalk s fun t => t.mem = s.mem ∧ t.waveHas r.wave fun v => ∃ f,
        ((v.lane it.lane).late = some f ∨ (v.lane it.lane).fault = some f) ∧ f.cls = c ∧ f.late = true ∧ f.addr = it.addr
          ∧ f.word = k.word)

/-- Keystone entries, barrier objects and reductions at their homes (R24, R115, R116, R220 to R226, R343, R355, R357, R358): tickets in
order, entering by number, leaving to the next number; what a home on the wave's own die answers is ready for its lane, and another
sends it over the link; an entry that cannot be read from the spill area ends its run; a stall is reported while such counts run;
arrivals that count to EXPECT; contributions that combine. What goes on after a request is left to settle.
Where the spec leaves a point open, the model's choice stands: log entries 26, 27 and 37. -/
def Obligations.SynchronisationEvents : Prop :=
  (∀ (s : State) (r : Req) (lane o reg : Nat) (key : DWord) (seq : Word) (op : OrdOp) (e : Keystone) (w : Wave),
    s.req? s.evt.a = some r → r.body = .order op lane key seq reg → r.op = some o → r.cross = none → s.ready r = true → s.ordBehind r key = false →
    s.keystone? r.run key = some e → s.wave? r.wave = some w → e.unit = none →
    let near := s.keyHome key / 16 = w.die
    let after := fun (P : State → Prop) => ∃ u : State, exec .keystoneRequest s = .next u.settle ∧ P u
    let gives := fun (u : State) (ds : List (Nat × Dst)) (drops : List (Nat × DWord)) =>
      (near → u.waveHas r.wave fun v => v.ops = (w.modOp o fun k => { k with
        done := k.done ||| (oneLane lane &&& k.lanes), dsts := k.dsts ++ ds, drops := k.drops ++ drops }).ops)
      ∧ (¬near → (u.waveHas r.wave fun v => v.ops = (w.modOp o fun k => { k with drops := k.drops ++ drops }).ops)
        ∧ ∃ q ∈ u.reqs, q.body = .reply (oneLane lane) ds ∧ q.wave = r.wave ∧ q.op = some o ∧ q.cross = some s.now)
    let entry := fun (t : State) (P : Keystone → Prop) => ∃ f, t.keystone? r.run key = some f ∧ P f
    (op = .take → after fun t => entry t (fun f => f.nextTkt = e.nextTkt + 1 ∧ f.nextSeq = e.nextSeq
        ∧ f.holder = e.holder) ∧ gives t [(lane, .vreg lane reg e.nextTkt)] [])
    ∧ (op = .base → after fun t => entry t (fun f => f.nextTkt = seq ∧ f.nextSeq = seq ∧ f.base = seq) ∧ gives t [] [])
    ∧ (op = .enter → e.holder = none → e.waiters = [] → e.nextSeq = seq →
        after fun t => entry t (fun f => f.holder = some (r.wave, lane) ∧ f.waiters = [])
          ∧ gives t (if e.abandoned then [(lane, .pred lane 7 true)] else []) [])
    ∧ (op = .enter → e.holder ≠ none ∨ (e.waiters = [] ∧ e.nextSeq ≠ seq) →
        after fun t => entry t (fun f => f.holder = e.holder
          ∧ f.waiters = e.waiters ++ [(r.wave, lane, seq, o)]) ∧ t.waveHas r.wave fun v => v.ops = w.ops)
    ∧ (op = .try_ →
        let ok := decide (e.nextSeq = seq ∧ e.holder = none ∧ e.abandoned = false)
        after fun t => entry t (fun f => f.holder = if ok then some (r.wave, lane) else e.holder)
          ∧ gives t [(lane, .pred lane 7 ok)] (if ok then [] else [(lane, key)]))
    ∧ (op = .leave → e.waiters = [] → e.closing = false →
        after fun t => entry t (fun f => f.holder = none ∧ f.abandoned = false ∧ f.nextSeq = e.nextSeq + 1) ∧ gives t [] [])
    ∧ (op = .close → e.holder = none → e.waiters = [] → (∀ f ∈ s.keystones, f.run = r.run → f.key = key → f = e) →
        after fun t => t.keystone? r.run key = none ∧ gives t [] []))
  ∧ (∀ (s : State) (r : Req) (lane o reg n addr : Nat) (key : DWord) (seq : Word) (op : OrdOp) (e : Keystone) (run : Run),
    s.req? s.evt.a = some r → r.body = .order op lane key seq reg → r.op = some o → r.cross = none → s.ready r = true →
    s.ordBehind r key = false → s.keystone? r.run key = some e → e.unit = some n → s.run? r.run = some run → run.cancelling = false →
    (s.dropReq r.id).spillFail run n 1 = some addr →
    answers .keystoneRequest s fun t => t.runHas r.run fun q => q.cancelling = true ∧ q.status = .fault)
  ∧ (∀ (s : State) (e : Keystone) (r : Run), s.keystone? s.evt.a s.evt.v = some e → s.run? s.evt.a = some r → e.waiters ≠ [] →
    e.stalled = false → 1000000000 ≤ e.waited → s.counting = true →
    answers .sectionStall s fun t => ∃ f, t.keystone? s.evt.a s.evt.v = some f ∧ f = { e with stalled := true })
  ∧ (∀ (s : State) (r : Req) (a x : Nat) (lanes : Mask) (op : BarOp), s.req? s.evt.a = some r → r.body = .barrier op a x lanes →
    r.cross = none → s.ready r = true → s.barBehind r a x = false → s.cmdBehind r = false → a < s.ashlars.length → x < (s.ashlar a).barriers.length →
    let b := s.barrier a x
    (∀ n auto, op = .init n auto → (b.state = .idle ∨ b.run = r.run) → answers .barrierRequest s fun t =>
      (t.barrier a x).ph = b.ph ∧ (t.barrier a x).arrived = 0
        ∧ if n = 0 then (t.barrier a x).state = .idle else (t.barrier a x).state = .armed ∧ (t.barrier a x).expect = n
            ∧ (t.barrier a x).auto = auto ∧ (t.barrier a x).run = r.run)
    ∧ (∀ k, (∃ token, op = .arrive k token) ∨ op = .remote k → b.run = r.run → b.state = .armed ∨ b.state = .counting →
      let n := (b.arrived + k) % 2 ^ 17
      answers .barrierRequest s fun t =>
        if n < b.expect then (t.barrier a x).arrived = n ∧ (t.barrier a x).ph = b.ph ∧ (t.barrier a x).state = .counting
        else (t.barrier a x).ph = b.ph + 1 ∧ (t.barrier a x).arrived = (if b.auto then n - b.expect else 0)
          ∧ (t.barrier a x).state = if b.auto then (if n = b.expect then .armed else .counting) else .done)
    ∧ (∀ k, (∃ token, op = .arrive k token) ∨ op = .remote k → b.state = .idle ∨ b.state = .done ∨ b.run ≠ r.run →
      answers .barrierRequest s fun t => t.barrier a x = b)
    ∧ (∀ va token o w, op = .test va token → r.op = some o → s.wave? r.wave = some w →
      ∃ t : State, exec .barrierRequest s = .next t.settle ∧ t.barrier a x = b ∧ t.waveHas r.wave fun v => v.ops = (w.modOp o fun k => { k with
        done := k.done ||| (lanes &&& k.lanes)
        dsts := k.dsts ++ (lanesOf lanes).flatMap fun l => [(l, .pred l 7 (b.ph != token)),
          (l, .vreg l va (BitVec.ofNat 32 (b.ph.toNat + b.state.code * 2 ^ 16)))] }).ops))
  ∧ (∀ (s : State) (r : Req) (addr pa : Nat) (op : RedOp), s.req? s.evt.a = some r → r.body = .reduce op addr pa →
    r.cross = none → s.ready r = true → s.cmdBehind r = false →
    (∀ ring n tag o, op = .open_ ring n tag o → s.reduction? r.run addr = none → n ≠ 0 →
      (s.reductions.filter fun x => s.home (x.pa / 64) == s.home (pa / 64)).length < 64 →
      answers .reductionRequest s fun t => t.mem = s.mem ∧ t.reductions = s.reductions ++ [{
        run := r.run, slot := r.slot, addr := addr, pa := pa, ring := ring, expect := n, tag := tag, op := o }])
    ∧ (∀ v x, op = .contrib v → s.reduction? r.run addr = some x → x.count + 1 < x.expect → answers .reductionRequest s fun t =>
      t.mem = s.mem ∧ ∃ y, t.reduction? r.run addr = some y ∧ y.count = x.count + 1
        ∧ y.value = some (match x.value with | some u => redCombine x.op u v | none => v))
    ∧ (∀ v, op = .contrib v ∨ op = .close → s.reduction? r.run addr = none → answers .reductionRequest s fun t =>
      t.mem = s.mem ∧ t.reductions = s.reductions)
    ∧ (∀ v x, (op = .contrib v ∧ x.expect ≤ x.count + 1) ∨ op = .close → s.reduction? r.run addr = some x →
      answers .reductionRequest s fun t => t.reduction? r.run addr = none))

/-- The engines (R45, R228, R233, R236, R237, R242 to R244, R252, R361, R362, R364): commands reach their engine in order; an MLDW fills
the shadow plane, an MSWAP exchanges the planes, a stream begins with the active plane, none of them while the die is held, and
finishes row by row, its rows written to scratch, pushed to its queue register, or discarded for a draining wave; a copy whose elements
are performed, or that has faulted, completes; a multicast tile lands where an armed barrier awaits it and is refused elsewhere; the
FIFO's entries become available in order; a beat that fails stops the bus with the entries from its own on held, and 40 cycles on it is
repaired while spares last.
Where the spec leaves a point open, the model's choice stands: log entries 39, 40 and 41. -/
def Obligations.EngineEvents : Prop :=
  (∀ (s : State) (r : Req), s.req? s.evt.a = some r → s.ready r = true → s.cmdBehind r = false → s.dieHeld (dieOf r.ashlar) = false →
    (∀ c b, r.body = .matrix c b → answers .engineCommandArrival s fun t => ∀ q ∈ t.reqs, q.id = s.evt.a → q.body = .matrix c true)
    ∧ ∀ c, r.body = .copy c → answers .engineCommandArrival s fun t => ∀ q ∈ t.reqs, q.id = s.evt.a →
        q.body = .copy { c with queued := false })
  ∧ (∀ (s : State) (r : Req), s.evt.a < s.ashlars.length →
    let u := s.sweepMat s.evt.a
    let x := (u.ashlar s.evt.a).array
    (u.dieHeld (dieOf s.evt.a) = true → ∀ i ∈ [Instr.mldwFinish, .mswapEffect, .streamStart], exec i s = .next u)
    ∧ (u.dieHeld (dieOf s.evt.a) = false →
    (∀ off w, u.matNext s.evt.a = some (r, .mldw off) → u.wave? r.wave = some w →
      answers .mldwFinish s fun t => (t.ashlar s.evt.a).array = { x with shadow := u.scratchRead w off 4096 })
    ∧ (u.matNext s.evt.a = some (r, .mswap) → x.atBoundary = true → answers .mswapEffect s fun t =>
        (t.ashlar s.evt.a).array.active = x.shadow ∧ (t.ashlar s.evt.a).array.shadow = x.active
          ∧ (t.ashlar s.evt.a).array.streams.map (·.planes) = (swapStreams x.shadow x.streams).map (·.planes))
    ∧ ∀ b, u.matNext s.evt.a = some (r, .mstream b) → x.atBoundary = true →
        (∀ k ∈ x.streams, k.issuing = false ∨ k.lastPass = true) →
        answers .streamStart s fun t => ∃ k, (t.ashlar s.evt.a).array.streams.getLast? = some k ∧ k.req = r.id ∧ k.block = b
          ∧ k.planes = [x.active] ∧ k.row = 0 ∧ k.issuing = true))
  ∧ (∀ (s : State) (k : Stream) (rest : List Stream) (w : Wave) (f : Nat), s.evt.a < s.ashlars.length →
    let u := s.sweepMat s.evt.a
    let x := (u.ashlar s.evt.a).array
    let b := matBlock k.block
    x.streams = k :: rest → u.wave? k.wave = some w → x.finishAt = some f → f ≤ x.cycle → u.dieHeld (dieOf s.evt.a) = false →
    let row := (List.range 64).map (b.element u w k k.row)
    (b.oq = false ∨ w.stat = .draining ∨ (w.rows b.out).length < 4) →
    ∃ t : State, exec .matrixRowFinish s = .next (t.poke w.id)
      ∧ (k.row + 1 < b.m → (t.ashlar s.evt.a).array.streams = { k with row := k.row + 1 } :: rest
        ∧ (b.oq = false → (t.ashlar w.ashlar).scratch
            = ((u.scratchWrite w.id (b.out + k.row * b.rowBytes) (packElems (codeBits b.ofmt) row)).ashlar w.ashlar).scratch)
        ∧ (b.oq = true → t.waveHas w.id fun v => v.q = if w.stat = .draining then w.q else w.q.modify b.out
            (· ++ [row.map fun x => BitVec.ofNat 32 (x % 2 ^ codeBits b.ofmt)])))
      ∧ (b.m ≤ k.row + 1 → (t.ashlar s.evt.a).array.streams = rest))
  ∧ (∀ (s : State) (r : Req) (c : Copy), s.req? s.evt.a = some r → r.body = .copy c → (∀ q ∈ s.reqs, q.id < s.nextId) →
    c.queued = false → c.kind ≠ 1 → (layout c.lay).elems ≤ c.next ∨ c.code ≠ 0 →
    answers .copyCompletion s fun t => ∀ q ∈ t.reqs, q.id ≠ s.evt.a)
  ∧ (∀ (s : State) (r : Req) (c : Copy), s.req? s.evt.a = some r → r.body = .copy c → c.queued = false → c.code = 0 →
    (layout c.lay).elems ≤ c.next → (c.receivers r).contains s.evt.b = true → c.delivered.contains s.evt.b = false →
    s.cancelled r = false → s.evt.b < s.ashlars.length →
    let b := s.barrier s.evt.b (layout c.lay).bar
    (b.state = .armed → b.arrived = 0 → s.cannotReceive s.evt.b = false → answers .multicastDelivery s fun t =>
        (t.ashlar s.evt.b).scratch = c.tile.foldl (fun m e => Mem.writeN m e.1 e.2) (s.ashlar s.evt.b).scratch)
    ∧ (b.state ≠ .armed ∨ b.arrived ≠ 0 ∨ s.cannotReceive s.evt.b = true → answers .multicastDelivery s fun t => t.ashlars = s.ashlars
        ∧ ∃ q k, t.req? s.evt.a = some q ∧ q.body = .copy k ∧ k.delivered = s.evt.b :: c.delivered
          ∧ k.refused = c.refused ||| oneLane (s.evt.b % 64)))
  ∧ (∀ (s : State), s.evt.a < s.ashlars.length →
    let x := s.ashlar s.evt.a
    (∀ pre e post, x.fifo = pre ++ e :: post → (∀ k ∈ pre, k.avail = true) → e.avail = false → e.held = none →
      x.retired = false → e.at_ ≤ s.now → answers .vfifoEntryAvailable s fun t =>
        (t.ashlar s.evt.a).fifo = pre ++ { e with avail := true } :: post)
    ∧ (∀ pre e post, x.fifo = pre ++ e :: post → (∀ k ∈ pre, s.onBus s.evt.a k = false) → s.onBus s.evt.a e = true →
      x.fifoStop = false → x.retired = false →
      answers .vfifoBeatFail s fun t => (t.ashlar s.evt.a).fifoStop = true ∧ ((t.ashlar s.evt.a).retired = decide (x.spares = 0))
        ∧ (t.ashlar s.evt.a).fifoMends = e.at_ - s.cyclesPs s.evt.a 6 + s.cyclesPs s.evt.a 40
        ∧ (t.ashlar s.evt.a).fifo = pre ++ { e with held := some (if s.evt.flag then 1 else 0) }
            :: post.map fun k => { k with held := some 0 })
    ∧ (x.fifoStop = true → x.retired = false → x.spares ≠ 0 → x.fifoMends ≤ s.now → answers .vfifoRepairComplete s fun t =>
      (t.ashlar s.evt.a).fifoStop = false ∧ (t.ashlar s.evt.a).spares = x.spares - 1
        ∧ (t.ashlar s.evt.a).fifo.map (·.bytes) = x.fifo.map (·.bytes) ∧ ∀ e ∈ (t.ashlar s.evt.a).fifo, e.held = none))

/-- The die-to-die link (R24, R256, R257, R307, R359, R360): a turn that retrains reopens its group and one that fails three times removes
it; a lease ends after 1 ms; a flit with a good CRC takes 56 bytes of the messages that wait, a packet that ends in it enters the other
die's mesh and a reply gives its values, up to what then goes on; a flit with a bad CRC is replayed, and more than 32 replays in 1 µs remove the group;
recalibration takes one group at a time; a turn that waited begins.
Where the spec leaves a point open, the model's choice stands: log entries 42 and 69. -/
def Obligations.LinkEvents : Prop :=
  (∀ (s : State) (g at_ : Nat), s.link.turning = some (g, at_) → at_ + 180000 ≤ s.now → g < s.link.groups.length → g < 16 →
    (s.evt.flag = true → answers .linkTurnEnd s fun t => (t.group g).lastTurn = some s.now ∧ (t.group g).retrain = 0)
    ∧ (s.evt.flag = false → (s.group g).retrain < 2 → answers .linkTurnEnd s fun t => (t.group g).retrain = (s.group g).retrain + 1
        ∧ t.link.turning = some (g, s.now) ∧ (t.group g).live = (s.group g).live)
    ∧ (s.evt.flag = false → 2 ≤ (s.group g).retrain → answers .linkTurnEnd s fun t => (t.group g).live = false))
  ∧ (∀ (s : State) (slot n at_ : Nat), s.link.lease = some (slot, n, at_) → at_ + 1000000000 ≤ s.now →
    answers .leaseTimeout s fun t => (∀ m, t.link.lease ≠ some (slot, m, at_)) ∧ t.waves = s.waves
      ∧ (s.link.pending = [] → t.link.lease = none ∧ (s.link.liveGroups = List.range 16 → t.link.target = 8)))
  ∧ (∀ (s : State), s.evt.a < s.link.groups.length →
    let x := s.group s.evt.a
    let flit := packFlit 56 (s.flitQueue s.evt.a s.ready)
    s.carries s.evt.a x.aToB = true → s.flitQueue s.evt.a s.ready ≠ [] →
    (s.evt.flag = true → answers .flitReceive s fun t => t.mem = s.mem ∧ (t.group s.evt.a).flit = x.flit + 1
      ∧ (t.group s.evt.a).part = flit.2)
    ∧ (∀ (r : Req) (p : Packet), s.evt.flag = true → flit.1 = [r.id] → s.req? r.id = some r → r.body = .packet p →
      (∀ q ∈ s.reqs, q.id = r.id → q = r) → r.id < s.nextId →
      answers .flitReceive s fun t => ∀ q ∈ t.reqs, q.id = r.id → q.die = 1 - r.die ∧ q.cross = none
        ∧ q.body = .packet { p with router := entryRouter p.router, came := none })
    ∧ (∀ (r : Req) (m : Mask) (ds : List (Nat × Dst)) (o : Nat) (w : Wave), s.evt.flag = true → flit.1 = [r.id] →
      s.req? r.id = some r → r.body = .reply m ds → r.op = some o → s.wave? r.wave = some w →
      ∃ t : State, exec .flitReceive s = .next t.settle ∧ t.waveHas r.wave fun v => v.ops = (w.modOp o fun k => { k with
        done := k.done ||| (m &&& k.lanes), dsts := k.dsts ++ ds }).ops)
    ∧ (s.evt.flag = false →
        let late := x.replays.filter fun u => decide (s.now ≤ u + 1000000)
        (late.length < 32 → answers .flitReceive s fun t => (t.group s.evt.a).replays = s.now :: late
          ∧ (t.group s.evt.a).live = true ∧ t.reqs = s.reqs)
        ∧ (32 ≤ late.length → answers .flitReceive s fun t => (t.group s.evt.a).live = false ∧ t.reqs = s.reqs)))
  ∧ (∀ (s : State), s.evt.a < 16 → s.evt.a < s.link.groups.length → (s.group s.evt.a).live = true → s.link.recal = none →
    (∀ u, s.link.turning ≠ some (s.evt.a, u)) → answers .linkRecalibration s fun t => t.link.recal = some (s.evt.a, s.now)
      ∧ t.waves = s.waves)
  ∧ (∀ (s : State) (g at_ : Nat), s.link.recal = some (g, at_) → at_ + 180000 ≤ s.now → g < s.link.groups.length →
    (s.evt.flag = true → answers .recalibrationEnd s fun t => t.link.recal = none ∧ t.link.calibrated = g)
    ∧ (s.evt.flag = false → (s.group g).retrain < 2 → answers .recalibrationEnd s fun t => t.link.recal = some (g, s.now))
    ∧ (s.evt.flag = false → 2 ≤ (s.group g).retrain → answers .recalibrationEnd s fun t => (t.group g).live = false))
  ∧ (∀ (s : State) (g : Nat), s.link.turning = none → s.link.recal = none → s.link.nextTurn s.wantSplit = some g →
    g < s.link.groups.length → (∀ u, (s.group g).lastTurn = some u → u + 10000000 ≤ s.now) → g < 16 →
    answers .turnWaitEnd s fun t => t.link.turning = some (g, s.now) ∧ (t.group g).aToB = !(s.group g).aToB
      ∧ t.link.target = s.wantSplit)

/-- Dies, layers, slices and banks (R92, R93, R95, R231, R259, R260, R305 to R307, R345, R349, R351, R363, R370, R376): a park that completes, rails, slices
that leave and join the live set, banks that retire as their errors or temperature ask, scrubbing, the end of a change of partition,
which waits for earlier accesses to the window, and of a remap, retention, and the writes of %mlpartN, %mlremap, %layergate and the completion rings' registers.
Where the spec leaves a point open, the model's choice stands: log entries 43, 44 and 45. -/
def Obligations.DieEvents : Prop :=
  (∀ (s : State), s.evt.a < s.dies.length →
    let d := s.evt.a
    let x := s.die d
    (x.parking = true → (s.writeBack (dieAshlars d)).parkDone d = true → answers .dieParkComplete s fun t =>
      (t.die d).parked = true ∧ (t.die d).parking = false ∧ (t.die d).parkcount = x.parkcount + 1
        ∧ ∀ l ∈ t.l1, dieOf l.cache ≠ d)
    ∧ (s.evt.b < 3 → s.evt.b < x.gates.length → (s.gate d s.evt.b).busy = true →
      ((s.gate d s.evt.b).req = true → (s.gate d s.evt.b).gated = false →
        (if s.evt.b = 0 then ∀ n, n < 16 → (s.slice d n).inSet = false else x.parked = true) →
        (s.gate d s.evt.b).at_ + 60000 ≤ s.now → answers .railOff s fun t =>
          (t.gate d s.evt.b).gated = true ∧ (t.gate d s.evt.b).busy = false ∧ t.waves = s.waves)
      ∧ ((s.gate d s.evt.b).req = false → (s.gate d s.evt.b).gated = true → (s.gate d s.evt.b).at_ + 500000 ≤ s.now →
        answers .railReady s fun t => (t.gate d s.evt.b).gated = false ∧ (t.gate d s.evt.b).busy = decide (s.evt.b = 0)
          ∧ (1 ≤ s.evt.b → (s.gate d (3 - s.evt.b)).gated = false → x.linkPark = false → (t.die d).parked = false)))
    ∧ (x.remap = true → answers .remapComplete s fun t => (t.die d).remap = false ∧ (t.die d).stacked = []
        ∧ (t.die d).banks = x.scratchList)
    ∧ (let u := (s.dropWays d s.evt.b).shed (s.queueDie d)
       let used := u.queueUse (s.queueDie d) + u.recUse (s.queueDie d)
       (s.slice d s.evt.b).busy = true →
        let waits := (s.slice d s.evt.b).rebuilds = true ∧ s.windowUse d (s.slice d s.evt.b).since = true
        (u.queueBytes (s.queueDie d) < used ∨ waits → exec .partitionChangeComplete s = .next u)
        ∧ (used ≤ u.queueBytes (s.queueDie d) → ¬waits → d < u.dies.length → s.evt.b < (u.die d).slices.length →
          answers .partitionChangeComplete s fun t => (t.slice d s.evt.b).busy = false
            ∧ (t.slice d s.evt.b).now = (List.range 16).map (u.slice d s.evt.b).target)))
  ∧ (∀ (s : State), s.evt.a < 32 → s.evt.a / 16 < s.dies.length → s.evt.a % 16 < (s.die (s.evt.a / 16)).slices.length →
    let d := s.evt.a / 16
    let n := s.evt.a % 16
    (s.leaving s.evt.a = true → s.atRest s.evt.a = true → (∃ m, m < 32 ∧ m ≠ s.evt.a ∧ s.sliceLive m = true) →
      answers .sliceLeave s fun t => (t.slice d n).inSet = false)
    ∧ (s.joining s.evt.a = true → s.atRest s.evt.a = true → answers .sliceJoin s fun t => (t.slice d n).inSet = true)
    ∧ (((s.slice d n).healthOf s.evt.b).fails s.evt.flag s.now = false → exec .bankRetirement s = .next s)
    ∧ (s.evt.b < 16 → (s.slice d n).inSet = true → (s.slice d n).live.getLsbD s.evt.b = true →
      ((s.slice d n).healthOf s.evt.b).fails s.evt.flag s.now = true →
      answers .bankRetirement s fun t => (t.slice d n).live = (s.slice d n).live &&& ~~~((1 : BitVec 16) <<< s.evt.b)
        ∧ (t.slice d n).busy = true ∧ t.mem = s.mem))
  ∧ (∀ (s : State), exec .gainCellRefresh s = .next s
    ∧ (s.evt.scrub = .clean → exec .patrolScrub s = .next s)
    ∧ (s.evt.scrub = .corrected → s.way? s.evt.a = none →
        exec .patrolScrub s = .next { s with plumb := { s.plumb with corrected := s.plumb.corrected + 1 } })
    ∧ (∀ v, s.evt.scrub = .corrected → s.way? s.evt.a = some v → answers .patrolScrub s fun t => t.mem = s.mem
        ∧ t.plumb.corrected = s.plumb.corrected + 1 ∧ (v.home / 16 < s.dies.length →
          v.home % 16 < (s.die (v.home / 16)).slices.length → v.bank < (s.slice (v.home / 16) (v.home % 16)).health.length →
          ((t.slice (v.home / 16) (v.home % 16)).healthOf v.bank).fixed
            = (s.evt.a, s.now) :: ((s.slice (v.home / 16) (v.home % 16)).healthOf v.bank).fixed))
    ∧ (s.evt.scrub = .uncorrectable → answers .patrolScrub s fun t => s.evt.a ∈ t.poisoned ∧ t.mem = s.mem)
    ∧ (s.evt.a < s.ashlars.length → (s.course (courseOf s.evt.a)).point ≤ 3 → s.residentOn s.evt.a = [] →
      (s.ashlar s.evt.a).openBins = [] → (s.ashlar s.evt.a).idleSince + 20000000 ≤ s.now →
      answers .retentionEntry s fun t => (t.ashlar s.evt.a).retained = some ((s.ashlar s.evt.a).retained.getD s.now) ∧ (t.ashlar s.evt.a).scratch = (s.ashlar s.evt.a).scratch))
  ∧ (∀ (s : State) (w : Wave) (d : Nat), s.wave? w.id = some w → w.die = d → d < s.dies.length →
    let first := fun (n : Nat) (p : Wave → Bool) => (s.waves.find? fun y => p y && y.writes1 n s.evt.v) = some w
    let onDie := fun (y : Wave) => y.die == s.evt.a
    let named := fun (y : Wave) => y.id == s.evt.a
    let rest := fun (t : State) => t.waveHas w.id fun v => v.ssets = w.ssets.drop 1
    (∀ n, s.evt.b = n → n < 16 → n < (s.die d).slices.length → first (0x30 + n) onDie →
      let x := s.slice d n
      let f := fun (lo : Nat) => s.evt.v.toNat / 2 ^ lo % 32
      let deadline := s.evt.v.toNat / 2 ^ 24 % 256
      x.busy = false → x.inSet = true → x.hot = 0 → f 0 + f 5 + f 10 + f 15 ≤ x.liveBanks.length → 1 ≤ deadline → deadline ≤ 50 →
      answers .mlpartWrite s fun t => rest t ∧ (t.slice d n).busy = true ∧ (t.slice d n).cache = f 0 ∧ (t.slice d n).queue = f 5
        ∧ (t.slice d n).scratch = f 10 ∧ (t.slice d n).short = f 15 ∧ (t.slice d n).deadline = deadline ∧ (t.slice d n).live = x.live)
    ∧ (first 0x45 onDie → answers .mlremapWrite s fun t => rest t ∧ (t.die d).remap = (s.evt.v.getLsbD 0 || (s.die d).remap))
    ∧ (first 0x62 onDie → answers .layergateReqWrite s fun t => rest t ∧ t.dies = (s.writeLayergate d s.evt.v).dies)
    ∧ (∀ m, s.evt.b = m → m < 4 → m < w.cm.length → (∀ c ∈ w.cm, c.held = []) →
      (first (0x18 + m) named → answers .cmcfgWrite s fun t => rest t ∧ t.waveHas w.id fun v =>
        (v.cm.getD m {}).cfg = s.evt.v ∧ (v.cm.getD m {}).head = 0 ∧ (v.cm.getD m {}).tail = 0)
      ∧ (first (0x10 + 2 * m) named → answers .cmheadWrite s fun t => rest t ∧ t.waveHas w.id fun v =>
        (v.cm.getD m {}).head = s.evt.v ∧ (v.cm.getD m {}).cfg = (w.cm.getD m {}).cfg)))

/-- Plumb's control loop, resets and boot (R300, R303, R304, R365, R368, R369): what a tick senses, forces and publishes; the phases of a
change of point; what a trip, a warm reset and power on leave; and the states and codes of a boot. Junctions are those of the courses
and of the slices.
Where the spec leaves a point open, the model's choice stands: log entries 10, 46, 47 and 48. -/
def Obligations.PlumbEvents : Prop :=
  (∀ (s : State), s.plumb.ticks < s.now / 10000000 → s.firmwareRuns = true → s.courses.length = 16 →
    let p := s.plumb
    let temp := fun (c : Nat) => (s.course c).temp
    answers .plumbTick s fun t =>
      t.plumb.ticks = s.now / 10000000 ∧ t.plumb.heartbeat = s.now ∧ t.now = s.now ∧ t.waves = s.waves ∧ t.mem = s.mem
      ∧ (t.plumb.alarm = true ↔ (∃ c, c < 16 ∧ 16 * 112 ≤ temp c) ∨ 12 * p.cap < 10 * p.power)
      ∧ (t.plumb.emergency = true ↔ p.alarm = true ∨ (p.emergency = true ∧ ∃ j ∈ s.junctions, 16 * 95 ≤ j.2))
      ∧ ∀ c, c < 16 → (t.course c).point = (s.course c).point ∧ temp c = (t.course c).temp
        ∧ ((t.course c).hot = true ↔ 16 * 100 < temp c ∨ ((s.course c).hot = true ∧ 16 * 95 ≤ temp c))
        ∧ (t.plumb.emergency = true → (s.course c).vf = .steady → (s.course c).point ≠ 0 →
          (t.course c).next = 0 ∧ (t.course c).vf = .switching ∧ (t.course c).vfAt = s.now)
        ∧ (t.course c).budget =
          if t.plumb.emergency then 256
          else if p.cap < p.power then
            (if c ∈ s.hottest 2 then (s.course c).budget - (s.course c).budget / 8 else (s.course c).budget)
          else if 10 * p.power < 9 * p.cap then min 2048 ((s.course c).budget + 256) else (s.course c).budget)
  ∧ (∀ (s : State) (c : Nat), s.evt.a = c → c < 16 → c < s.courses.length →
    ((s.course c).vf = .rampUp → answers .voltageRampEnd s fun t => (t.course c).vf = .switching ∧ (t.course c).vfAt = s.now
      ∧ (t.course c).point = (s.course c).point ∧ t.waves = s.waves)
    ∧ ((s.course c).vf = .switching → (s.course c).vfAt + 1000000 ≤ s.now → answers .vfChangeComplete s fun t =>
      (t.course c).vf = .steady ∧ (t.course c).point = (s.course c).next ∧ t.waves = s.waves))
  ∧ (∀ (s : State), 0 < s.dies.length →
    let lost := fun (t : State) => t.waves = [] ∧ t.reqs = [] ∧ t.runs = [] ∧ t.l1 = [] ∧ t.ways = [] ∧ t.plumb.flash = s.plumb.flash
      ∧ t.plumb.state = 0 ∧ t.mem = s.memAfterLoss
    let warm := fun (cause : Nat) (t : State) => lost t ∧ t.now = 0 ∧ t.plumb.tripped = false
      ∧ ∃ e, (t.die 0).corner.getLast? = some e ∧ e.event = 2 ∧ e.source = 0xFF ∧ e.data = cause
    (s.plumb.tripped = false → (s.plumb.undervolt = true ∨ ∃ j ∈ s.junctions, 16 * 125 ≤ j.2) →
      answers .hardwareTrip s fun t => lost t ∧ t.plumb.tripped = true ∧ t.now = s.now)
    ∧ (s.firmwareRuns = true → s.plumb.heartbeat + 100000000000 ≤ s.now → answers .heartbeatMiss s (warm 2))
    ∧ (s.plumb.tripped = true → (∀ j ∈ s.junctions, j.2 < 16 * 90) → s.plumb.undervolt = false → answers .warmReset s (warm 1))
    ∧ (s.plumb.tripped = false → (∀ u, s.plumb.linkDown = some u → u + 1000000000 ≤ s.now → answers .warmReset s (warm 3))
      ∧ (s.plumb.linkDown = none → answers .warmReset s (warm 5)))
    ∧ (s.commands 6 = true → s.arg 0 = 2 → s.arg 1 = 0 → s.arg 2 = 0 → answers .flashReboot s (warm 4))
    ∧ answers .powerOnReset s fun t => t.waves = [] ∧ t.reqs = [] ∧ t.runs = [] ∧ t.now = 0 ∧ t.plumb.state = 0
      ∧ (∀ d, (t.die d).corner = []) ∧ (s.plumb.state ≠ 4 → t.plumb.flash = s.plumb.flash))
  ∧ (∀ (s : State), s.plumb.tripped = false →
    let rd := fun (a n : Nat) => s.plumb.flash.readN a n
    let len := ofBytes (rd 8 4)
    let e := Sys2Proof.Config.sm3 (rd 0 64 ++ rd 4096 len)
    let fails := fun (code : Nat) (t : State) => t.plumb.state = 3 ∧ t.plumb.failcode = code
    (s.plumb.state = 0 →
      (ofBytes (rd 0 4) ≠ 0x5A4C5056 → answers .bootImage s (fails 1))
      ∧ (ofBytes (rd 0 4) = 0x5A4C5056 → (len < 4096 ∨ 16777216 < len) → answers .bootImage s (fails 2))
      ∧ (ofBytes (rd 0 4) = 0x5A4C5056 → 4096 ≤ len → len ≤ 16777216 → answers .bootImage s fun t =>
          t = { s with plumb := { s.plumb with state := 1 } }))
    ∧ (s.plumb.state = 1 →
      (Sys2Proof.Config.sm2Verifies e (rd 64 64) = true → answers .bootImage s fun t =>
        t.plumb.state = 2 ∧ t.plumb.failcode = 0 ∧ t.plumb.firmware = e)
      ∧ (Sys2Proof.Config.sm2Verifies e (rd 64 64) = false → answers .bootImage s (fails 3)))
    ∧ (s.plumb.state < 2 → answers .flashReadTimeout s (fails 4)))

/-- Mailbox commands (R301, R302, R366, R367, R373), each where it waits to be carried out, with the RESULT it ends with, and the
completion that clears the doorbell.
Where the spec leaves a point open, the model's choice stands: log entries 10, 11 and 49. -/
def Obligations.MailboxEvents : Prop :=
  (∀ (s : State),
    let ends := fun (r : Nat) (t : State) => t.host.done = true ∧ t.host.outcome = r ∧ t.host.doorbell = s.host.doorbell
    let buffer := s.arg 0 + s.arg 1 * 4294967296
    (s.commands 1 = true → answers .setvf s fun t =>
      if 15 < s.arg 0 ∨ 7 < s.arg 1 then ends 2 t ∧ t.plumb = s.plumb
      else if 16 ≤ s.plumb.vfQueue.length then ends 1 t ∧ t.plumb = s.plumb
      else ends 0 t ∧ t.plumb.vfQueue = s.plumb.vfQueue ++ [(s.arg 0, s.arg 1)])
    ∧ (s.commands 2 = true → answers .setcap s fun t =>
      if s.arg 0 < 150 ∨ 480 < s.arg 0 then ends 2 t ∧ t.plumb = s.plumb else ends 0 t ∧ t.plumb.cap = s.arg 0)
    ∧ (s.commands 3 = true →
      let slot := s.arg 0
      let va := s.arg 1
      let n := s.arg 2
      if slot < 64 ∧ n ≤ 67108864 ∧ s.pathFault unitTlb slot va n { read := true } = none ∧ s.cleanVa unitTlb slot va n = true then
        answers .measure s fun t => ends 0 t ∧ t.plumb.count = s.plumb.count + 1
          ∧ t.plumb.m = Sys2Proof.Config.sm3 (s.plumb.m ++ Sys2Proof.Config.sm3 (s.readVa unitTlb slot va n))
      else answers .measure s fun t => ends 2 t ∧ t.plumb = s.plumb)
    ∧ (s.commands 4 = true →
      if hostRange buffer 168 = true then answers .quote s fun t => ends 0 t ∧ t.mem = (s.hostWrite buffer s.quote).mem
          ∧ t.plumb.m = s.plumb.m ∧ t.plumb.count = s.plumb.count
      else answers .quote s fun t => ends 2 t ∧ t.mem = s.mem)
    ∧ (let head := s.plumb.firmware ++ s.plumb.m ++ (List.range 4).flatMap (fun i => toBytes 8 (s.arg (2 + i))) ++ toBytes 8 s.plumb.count
      s.quote = head ++ Sys2Proof.Config.sm2Sign s.plumb.signs head)
    ∧ (s.commands 5 = true →
      if hostRange buffer 256 = true then answers .telemetry s (ends 0) else answers .telemetry s fun t => ends 2 t ∧ t.mem = s.mem)
    ∧ (s.commands 6 = true →
      let n := 4096 * s.arg 2
      (s.arg 0 = 0 → answers .flashRead s fun t => if s.flashArgs = true then ends 0 t ∧ t.plumb.flash = s.plumb.flash
          ∧ t.plumb.window = s.plumb.window.writeN 0 (s.plumb.flash.readN (s.arg 1) n) else ends 2 t ∧ t.plumb = s.plumb)
      ∧ (s.arg 0 = 1 → answers .flashProgram s fun t => if s.flashArgs = true then ends 0 t ∧ t.plumb.state = 4
          ∧ t.plumb.before = s.plumb.state ∧ t.plumb.flash = s.plumb.flash.writeN (s.arg 1) (s.plumb.window.readN 0 n)
          else ends 2 t ∧ t.plumb = s.plumb)
      ∧ (s.arg 0 = 2 → (s.arg 1 ≠ 0 ∨ s.arg 2 ≠ 0) → answers .flashReboot s fun t => ends 2 t ∧ t.plumb = s.plumb))
    ∧ (s.commands 7 = true →
      let d := s.arg 0
      let k := s.arg 3
      if 1 < d ∨ k < 1 ∨ 4096 < k ∨ hostRange (s.arg 1) (16 + 16 * k) = false then
        answers .cornerread s fun t => ends 2 t ∧ t.mem = s.mem
      else if d = 1 ∧ s.plumb.linkDown ≠ none then answers .cornerread s fun t => ends 3 t ∧ t.mem = s.mem
      else
        let next := s.host.rungSeq.getD d 0
        let es := ((s.die d).corner.filter fun c => decide (s.arg 2 ≤ c.seq ∧ c.seq < next)).take k
        answers .cornerread s fun t => ends 0 t ∧ t.dies = s.dies ∧ t.mem = (s.hostWrite (s.arg 1) (toBytes 4 es.length
          ++ toBytes 4 next ++ toBytes 4 (s.die d).cornerDropped ++ toBytes 4 0 ++ es.flatMap (·.bytes))).mem))
  ∧ (∀ (s : State) (r : Nat), s.host.doorbell = true →
    (if s.host.done = true then r = s.host.outcome else s.rejected = some r) →
    answers .mailboxCompletion s fun t => t.host.doorbell = false ∧ t.host.done = false ∧ t.host.result = BitVec.ofNat 64 r
      ∧ t.host.vectors = (if s.host.hostRang then 65 :: s.host.vectors else s.host.vectors)
      ∧ t.plumb.state = if s.plumb.state = 4 then s.plumb.before else s.plumb.state)

/-- The fixed nodes (R263 to R284): a group that is bad, cut short or binned; the viewport's close, whose tile records go out in row
order as far as there is room; a tile that is filled, made visible, emitted as far as there is room (its record is taken only once there are slots on every edge), and written back; a batch of
rays and each ray's result; a batch of a matrix node, which makes the node resident where it is not, and each record's result, the last
of which leaves the array bound as it is.
Where the spec leaves a point open, the model's choice stands: log entries 14, 16, 52, 53, 54, 55 and 56. -/
def Obligations.FixedUnitEvents : Prop :=
  (∀ (s s1 : State) (r : Run) (b : Binning) (m g : Nat) (p : BinParam), s.run? s.evt.a = some r → r.bins.find? (·.node == s.evt.b) = some b →
    r.groupAt b = some (m, g) → b.closed = false → s.unitsDown r.orderedDie = false → g < (r.inst m r.orderedDie).given →
    let recs := ((r.inst b.node r.orderedDie).recs.filter fun q => q.group == some (g * 256 + m)).map fun (q : QRec) => q.bytes
    (∀ q ∈ s.reqs, q.run = r.id → ∀ z l os, q.body = .append b.node z l os → ∀ x ∈ l, x.group ≠ some (g * 256 + m)) →
    (r.closedGroups.contains (m, g) = true ∨ groupWhole recs = true) → s.binParam (dieSrc r.orderedDie) r b.node = .inr (s1, p) →
    let n := field (recs.getD 0 []) 2 2
    let prims := (List.range n).filterMap (primOf recs g)
    let lists := prims.map fun q => q.tiles p
    let heads := 64 * p.tw * p.th
    let add := 64 * groupSize (recs.getD 0 []) + 8 * sumBy List.length lists
    let bin := fun (t : State) (P : Binning → Prop) => t.runHas r.id fun q => q.delivered = r.delivered + recs.length
      ∧ ∃ c, q.bins.find? (·.node == b.node) = some c ∧ c.next = b.next + 1 ∧ c.closed = false ∧ P c
    (groupBad recs = true → answers .binGroup s fun t => bin t fun c => c.badGroups = b.badGroups + 1 ∧ c.groups = b.groups
      ∧ c.prims = b.prims)
    ∧ (groupBad recs = false → groupWhole recs = false → answers .binGroup s fun t => bin t fun c => c.groups = b.groups
      ∧ c.badGroups = b.badGroups ∧ c.prims = b.prims)
    ∧ (groupBad recs = false → groupWhole recs = true → heads + b.used + add ≤ p.size →
      (p.grouptab = 0 ∨ s1.unitFail r.slot (p.grouptab + 8 * g) 8 true = none) →
      (∀ a k, (a, k) = (p.base + heads + b.used, add) ∨ (∃ t ∈ lists.flatten, (a, k) = (p.base + 64 * (t.2 * p.tw + t.1), 64)) →
        s1.unitFail r.slot a k true = none) →
      answers .binGroup s fun t => bin t fun c => c.groups = b.groups + 1 ∧ c.badGroups = b.badGroups ∧ c.prims = b.prims ++ prims
        ∧ c.badPrims = b.badPrims + (n - prims.length) ∧ c.used = b.used + add))
  ∧ (∀ (s s1 : State) (r : Run) (b : Binning) (p : BinParam), s.run? s.evt.a = some r → r.bins.find? (·.node == s.evt.b) = some b →
    b.closed = false → s.unitsDown r.orderedDie = false → (∀ m ∈ r.meshOf b.node, s.meshDone r m = true) → r.allTaken b = true →
    s.binParam (dieSrc r.orderedDie) r b.node = .inr (s1, p) → 64 * p.tw * p.th + b.used ≤ p.size →
    s1.unitFail r.slot p.base (64 * p.tw * p.th) true = none → answers .viewportClose s fun t => t.runHas r.id fun q =>
      ∃ c i, q.bins.find? (·.node == b.node) = some c ∧ c.closed = true
        ∧ c.tiles = ((List.range p.th).flatMap fun y => (List.range p.tw).map fun x => (x, y)).drop i)
  ∧ (∀ (s : State) (c : Nat), s.evt.a = c → c < 16 → c < s.courses.length → s.unitsDown (c / 8) = false →
    (∀ (k m tx ty : Nat) (r : Run) (n : Node) (b : Binning) (s0 s1 s2 s3 : State) (p : BinParam) (ts : List Target) (v : Resv)
      (q : QRec) (l : List QRec), (List.range 4).find? (fun j => (s.tile c j).state == .free) = some k →
      s.runs.find? (fun z => !z.cancelling && (z.tileFor c).isSome) = some r → r.tileFor c = some (m, b, (tx, ty)) →
      r.node? m = some n → s.unitReserve r n 0 (c / 8) true = some (s0, v) →
      s0.binParam (courseSrc c) r b.node = .inr (s1, p) → s1.targets (courseSrc c) r p = .inr (s2, ts) →
      s2.unitTake r n m (r.instDie m (c / 8)) (fun z => z.course == some c) 1 = (s3, q :: l) →
      (∀ x ∈ ts, x.load = true → ∀ z ∈ x.rows p tx ty, s3.unitFail r.slot z.2.1 z.2.2 false = none) →
      c < s3.courses.length → k < (s3.course c).tiles.length → (s3.course c).primMem.wf = true → (s3.course c).tileMem.wf = true →
      answers .tileFill s fun t => (t.tile c k).state = .filled ∧ (t.tile c k).run = r.id ∧ (t.tile c k).tx = tx ∧ (t.tile c k).ty = ty
        ∧ (t.tile c k).resv = [v]
        ∧ (∀ i, i < 1024 → (t.course c).primMem.readN (8192 * k + 8 * i) 8 = toBytes 4 p.dclear ++ toBytes 4 0xFFFFFFFF)
        ∧ ∀ (j : Nat) (x : Target), ts[j]? = some x → x.load = false → ∀ i, i < 1024 →
          (t.course c).tileMem.readN (32768 * k + 4096 * j + 4 * i) 4 = toBytes 4 x.clear)
    ∧ (∀ (k : Nat) (r : Run), s.evt.b = k → k < (s.course c).tiles.length → s.run? (s.tile c k).run = some r →
      let x := s.tile c k
      (∀ (b : Binning) (s1 : State) (p : BinParam), r.bins.find? (·.node == x.bin) = some b → x.state = .filled →
        s.binParam (courseSrc c) r b.node = .inr (s1, p) → answers .tileVisibility s fun t =>
          (t.tile c k).state = .visible ∧ (t.tile c k).resv = []
          ∧ (t.tile c k).frags = (tilePixels p x.tx x.ty).flatMap fun z => resolve p.gt (BitVec.ofNat 32 p.dclear)
              ((b.primsAt x.tx x.ty).filterMap fun q => q.frag z.1 z.2))
      ∧ (∀ (n : Node) (sR s0 s1 s2 : State) (resv : List Resv) (p : BinParam) (q : ClsParam) (z : QRec) (l : List QRec),
        r.node? x.classifier = some n → x.state = .visible → s.reserveEdges r n (c / 8) true = some (sR, resv) →
        (sR.modTile c k fun t => { t with state := .shading, resv := resv }).unitTake ((sR.run? r.id).getD r) n x.classifier
          (r.instDie x.classifier (c / 8)) (fun z => z.tile == some (4 * c + k)) 1 = (s0, z :: l) →
        s0.binParam (courseSrc c) r x.bin = .inr (s1, p) → s1.clsParam (courseSrc c) r x.classifier = .inr (s2, q) →
        (∀ f ∈ x.frags, f.mat < q.matcount → s2.unitFail r.slot (q.mattab + f.mat) 1 false = none) →
        c < s2.courses.length → k < (s2.course c).tiles.length →
        answers .classifierEmit s fun t => (t.tile c k).state = .shading
          ∧ ∃ i, (t.tile c k).left = (s2.tileRecords r n p q x k).drop i)
      ∧ (∀ (n : Node), r.node? x.classifier = some n → x.state = .visible → s.reserveEdges r n (c / 8) true = none →
        exec .classifierEmit s = .next s)
      ∧ (∀ (s1 s2 : State) (p : BinParam) (ts : List Target), x.state = .shading → x.left = [] → s.tileOut r (4 * c + k) = false →
        s.binParam (courseSrc c) r x.bin = .inr (s1, p) → s1.targets (courseSrc c) r p = .inr (s2, ts) →
        (∀ z ∈ ts, z.wb = true → ∀ q ∈ z.rows p x.tx x.ty, s2.unitFail r.slot q.2.1 q.2.2 true = none) →
        answers .tileWriteback s fun t => (t.tile c k).state = .free ∧ ((∀ z ∈ ts, z.wb = false) → t.mem = s2.mem))))
  ∧ (∀ (s s1 s2 : State) (r r1 : Run) (n : Node) (b : Batch) (resv : List Resv) (i d a : Nat), s.run? s.evt.a = some r → s.evt.b = i →
    s.evt.c = d → s.evt.d = a → r.node? i = some n → r.cancelling = false → d < 2 → a < 128 → a < s.ashlars.length → dieOf a = d →
    (r.inst i d).queued ≠ 0 →
    let want : Want := { run := r.id, n := i, node := n.asMatrix, die := d, token := instToken r.id (2 * i + d) (none, none) }
    let s0 := if n.isFixed 5 then s.giveUp want a else s
    s0.reserveEdges r n d false = some (s1, resv) → s1.run? r.id = some r1 → s1.takeBatch r1 n i d resv = (s2, some b) →
    (n.isFixed 4 = true → s.unitsDown d = false → (s.ashlar a).retired = false → (s.ashlar a).rays = [] →
      answers .rayBatch s fun t => (t.ashlar a).rays = [b])
    ∧ (n.isFixed 5 = true → (s.ashlar a).mlp = [] → s0.failedSteps want a = [] →
      answers .matrixNodeBatch s fun t => (t.ashlar a).mlp = [b] ∧ (t.residency? a r.id i).isSome = true
        ∧ ((s2.residency? a r.id i).isNone = true → (t.ashlar a).array.bound = some (r.id, i)))
    ∧ b.run = r.id ∧ b.node = i ∧ b.resv = resv ∧ b.recs = (r1.inst i d).all.take 64)
  ∧ (∀ (s : State) (r : Run) (n : Node) (b : Batch) (rest : List Batch) (q : QRec) (a : Nat), s.evt.a = a → a < s.ashlars.length →
    s.batchNode b = some (r, n) → b.recs.head? = some q →
    (∀ (e : RayEnd), (s.ashlar a).rays = b :: rest → s.trace r.slot q.bytes = some e →
      let edge := if e.status = 1 then 0 else 1
      let out := rayRecord (field q.bytes 40 4) e
      answers .rayResult s fun t =>
        if b.recs.tail = [] then (t.ashlar a).rays = rest
        else t.runs = (s.batchResult r n b edge out).1.runs
          ∧ ∃ c, (t.ashlar a).rays = c :: rest ∧ c.recs = b.recs.tail ∧ c.run = b.run ∧ c.node = b.node)
    ∧ (∀ (s1 : State) (w : Network) (out : List Byte), (s.ashlar a).mlp = b :: rest → s.readNet (courseSrc (courseOf a)) r n.fixparam = .inr (s1, w) →
      s1.netOut r w w.inputs (q.bytes.drop w.inoff) w.layers = .inr out →
      let size := ((r.node? (n.edge 0).target).map (·.recsize)).getD 0
      answers .matrixNodeResult s fun t =>
        if b.recs.tail = [] then (t.ashlar a).mlp = rest ∧ (t.ashlar a).array = (s.ashlar a).array ∧ (t.ashlar a).idleSince = s.now
        else t.runs = (s.batchResult r n b 0 (resultRecord w size q.bytes out)).1.runs
          ∧ ∃ c, (t.ashlar a).mlp = c :: rest ∧ c.recs = b.recs.tail ∧ c.run = b.run ∧ c.node = b.node))
  ∧ (∀ (s : State) (slot : Nat) (bytes : List Byte),
    (rayInvalid bytes = true → ∃ e, s.trace slot bytes = some e ∧ e.status = 4 ∧ e.hit.isNone = true)
    ∧ (rayInvalid bytes = false → (rayOf bytes).tmin.le (rayOf bytes).tmax = false →
      ∃ e, s.trace slot bytes = some e ∧ e.status = 0 ∧ e.hit.isNone = true))

/-- A clause (R147 to R150, R152, R324): its header's fields, what the header begins, what lies between two words, and what the end of
the clause commits where no lane faults, exits or parks in it.
Where the spec leaves a point open, the model's choice stands: log entries 58 and 67. -/
def Obligations.ClauseStartAndEnd : Prop :=
  (∀ (n : BX) (e : PR) (w : SR) (b v : PR) (r : BitVec 2) (f y d : BitVec 1),
    headerOf (encode (.clauseHeader n e w b v r f y d)) = { n := n.toNat, ec := e.toNat, wait := w.toNat, sb := b.toNat, vt := v.toNat
                                                            rm := r.toNat, fz := f == 1, y := y == 1, d := d == 1 })
  ∧ (∀ (s : State) (w : Wave) (g : Sub) (ws : List Word) (n : BX) (e : PR) (m : SR) (b v : PR) (r : BitVec 2) (f y d : BitVec 1),
    let raw := encode (.clauseHeader n e m b v r f y d)
    s.cur = some w.id → s.wave? w.id = some w → w.clause = none → s.choose w = some g → s.unitWaits w g = false →
    s.headAt w g = .ok raw ws → g.at_.2 < n.toNat → answers (.clauseHeader n e m b v r f y d) s fun t => t.mem = (s.fetched w g raw).mem ∧ t.waveHas w.id fun z =>
      z.clauses = w.clauses + 1 ∧ z.s = w.s ∧ z.sb = w.sb
      ∧ (∀ l, (z.lane l).v = (w.lane l).v ∧ (z.lane l).p = (w.lane l).p ∧ (z.lane l).pc = (w.lane l).pc)
      ∧ ∃ c, z.clause = some c ∧ c.pc = g.at_.1 ∧ c.index = g.at_.2 ∧ c.lanes = g.lanes ∧ c.hdr = headerOf raw ∧ c.raw = raw
        ∧ c.pend = [] ∧ c.out = 0 ∧ c.xfer = [])
  ∧ (∀ (s : State) (w : Wave) (c : Clause), s.wave? w.id = some w → w.clause = some c → c.only = false → c.jump = none →
    let x : Ctx := ⟨s, w, c⟩
    (c.index + 1 < c.hdr.n → x.live ≠ 0 →
      s.finishInstr w.id false = s.setWave { w with clause := some { c with index := c.index + 1 } })
    ∧ (c.hdr.n ≤ c.index + 1 → c.tret = none → c.exits = 0 → c.reform = 0 → c.parks = [] → c.specials = [] → c.out = 0 →
      (∀ q, s.run? w.run = some q → q.cancelling = false) →
      (s.finishInstr w.id false).waveHas w.id fun z =>
        let u := w.writes (c.pend.map (·.dst))
        z.clause = none ∧ z.s = u.s ∧ ∀ l, l < w.lanesN → x.live.getLsbD l = true → (w.lane l).stat = .run →
          (z.lane l).v = (u.lane l).v ∧ (z.lane l).p = (u.lane l).p ∧ (z.lane l).idx = 0
          ∧ (z.lane l).pc = match c.xfer.find? fun p => p.1 == l with | some p => p.2 | none => x.seqPc))

/-- One step (R74, R102, R148, R152, R303, R326): the move that comes next is an event with its operands, an input, or a wave that issues
the instruction its words or its chosen header decode to, after which its clause goes on; a word that is no instruction is an illegal
encoding; a word waits while its course switches clocks or a fence holds it, and a header while its unit is in use.
Where the spec leaves a point open, the model's choice stands: log entries 2 and 70. -/
def Obligations.StepRunsDecoded : Prop :=
  (∀ (s t : State) (id : Nat) (w : Wave) (c : Clause), s.nextAct = (t, .issue id) → t.wave? id = some w → w.clause = some c →
    ((t.course (courseOf w.ashlar)).vf = .switching → step s = .next t)
    ∧ ∀ word, (t.course (courseOf w.ashlar)).vf ≠ .switching → t.fetch w (c.pc + 4 * (c.index + 1)) = .inr word →
      let y := (Ctx.mk { t with cur := some id } w c).load word
      (∀ (i : Instr) (u : State), decode word = .ok i → y.wordHeld i = false → exec i y.done = .next u →
        step s = .next (u.finishInstr id false))
      ∧ (∀ i, decode word = .ok i → y.wordHeld i = true → step s = .next t)
      ∧ (∀ e, decode word = .error e → step s = .next y.illegal.advance))
  ∧ (∀ (s t : State) (id : Nat) (w z : Wave) (g : Sub), s.nextAct = (t, .issue id) → t.wave? id = some w → w.clause = none →
    (t.focus id).wave? id = some z → (t.focus id).choose z = some g →
    ((t.focus id).unitWaits z g = true → step s = .next t)
    ∧ ∀ (raw : Word) (ws : List Word) (u : State), (t.focus id).unitWaits z g = false → (t.focus id).headAt z g = .ok raw ws →
      exec (decodeHeader raw.toNat) (t.focus id) = .next u → step s = .next u)
  ∧ (∀ (s t : State) (i : Instr) (e : EvArgs), s.nextAct = (t, .event i e) → i.isWord = false → step s = exec i { t with evt := e })
  ∧ (∀ (s t : State) (v : Input), s.nextAct = (t, .input v) → step s = .next (t.outside v))

/-- The words that the manual's examples give decode to the instructions they stand for, and so does a clause header (Tables 7-1 to 7-9,
the examples of 07_encoding.md, 08 to 11 and 16). -/
def Obligations.DecodeWords : Prop :=
  decodeTableWord 32 0xFEA42000 = some (.clauseHeader 5 1 2 0 0 0 0 0 0)
  ∧ decode 0x04182C20 = .ok (.fmul 6 5 0x84 0)
  ∧ decode 0x00203028 = .ok (.fadd 8 6 5 0)
  ∧ decode 0x6814C390 = .ok (.ldw 5 3 7 2 0)
  ∧ decode 0x763000F8 = .ok (.stw4 12 0 1 15 0)
  ∧ decode 0x8E208248 = .ok (.aor8w 8 2 4 4 1 0)
  ∧ decode 0x94410900 = .ok (.fence 1 1 2 1)
  ∧ decode 0x98305080 = .ok (.oenter 12 10 0)
  ∧ decode 0x9A200C00 = .ok (.barrive 0 3 0 0)
  ∧ decode 0x9A418C00 = .ok (.bwait 6 3 0)
  ∧ decode 0x9C028000 = .ok (.ropen 10 0 0)
  ∧ decode 0x56803801 = .ok (.pleader 2 0 1)
  ∧ decode 0x5E141000 = .ok (.vrdi 5 2 0 0)
  ∧ decode 0xA6484222 = .ok (.sreadv 9 2 0x11)
  ∧ decode 0xA6680660 = .ok (.sget 13 0x33)
  ∧ decode 0xA069B28A = .ok (.sshr 13 13 0x94)
  ∧ decode 0xA46282A0 = .ok (.sstdr 12 20 1 0)
  ∧ decode 0xB8050000 = .ok (.mldw 20 0)
  ∧ decode 0xC0060000 = .ok (.cpload 24 0)
  ∧ decode 0xC8414100 = .ok (.qrsv 5 0 32 0)
  ∧ decode 0xCA078000 = .ok (.glaunch 30 0)
  ∧ decode 0xD0082200 = .ok (.braNz 4 4 0)
  ∧ decode 0xD8200000 = .ok (.joinLanes)
  ∧ decode 0xDC305000 = .ok (.sbwait 5)
  ∧ decode 0xE0024000 = .ok (.vfpush 9 0 0)
  ∧ decode 0xE2424008 = .ok (.qpeek 9 0 1 0)
  ∧ decode 0xE4288000 = .ok (.treq 5 4)
  ∧ decode 0xE6288060 = .ok (.pvf 5 4)
  ∧ decode 0xEA100000 = .ok (.tretAdvance)
  ∧ decode 0xFC000000 = .ok (.nop)

/-- Decoding and encoding agree (R155, R165, Tables 7-1 to 7-9): every well-formed word of every family decodes to itself with each operand
at each value, a decoded word is well formed and encodes back to the same 32 bits, so every bit of a word means something. -/
def Obligations.DecodeEncode : Prop :=
  (∀ i : Instr, i.isWord = true → i.wellFormed = true → decodeTableWord 32 (encode i).toNat = some i)
  ∧ (∀ (w : Word) (i : Instr), decode w = .ok i → i.isWord = true ∧ i.wellFormed = true ∧ encode i = w)
  ∧ (∀ (w : Word) (i : Instr), decodeTableWord 32 w.toNat = some i → encode i = w)

/-- Every step answers a next state, from every state of the machine, reached or not: no step ends in a fault or a refusal.
Where the spec leaves a point open, the model's choice stands: log entry 9. -/
def Obligations.EveryStepAnswers : Prop := ∀ s : State, ∃ t, step s = .next t

/-- Every step keeps the memory of the device in its canonical form: addresses rise strictly, and no entry equals what an unlisted
address reads as (the model's own form of memory; log entry 1). -/
def Obligations.StepKeepsMemoryForm : Prop := ∀ s t : State, s.memOk → step s = .next t → t.memOk

/-- A word changes memory and other waves only through requests (R103, R153, R208): as it issues, every byte of memory, every wave but its own
and the time stay as they were. The words that do more as they issue are named here: a clause header, whose clause may end at once;
GCANCEL, which may end a run; and the words that reach a target clause, a descriptor or a reduction's addresses through the page
tables, which mark the pages accessed or dirty (R84). A PGATE that parks a die (R259) asks for the saves of its waves, and changes
no more of them than the number of that request, the model's own (R73; log entry 70). -/
def Obligations.WordsLeaveMemory : Prop :=
  ∀ (i : Instr) (s t : State), i.isWord = true →
    (match i with
      | .clauseHeader .. | .callDisp .. | .callk .. | .icall .. | .glaunch .. | .gcancel .. | .gstatus .. | .ropen .. | .rcontrib ..
      | .rclose .. => false
      | _ => true) = true →
    exec i s = .next t → (∀ a, t.mem.read a = s.mem.read a) ∧ t.now = s.now
      ∧ ∀ j, s.cur ≠ some j →
        (∃ n, t.wave? j = (s.wave? j).map fun w => { w with saveSeq := n }) ∧ ((∀ d a, i ≠ .pgate d a) → t.wave? j = s.wave? j)

/-- The machine right after reset: the values the spec gives (R19, R23, R47, R92, R148, R295, R299, R301, R303, R304), with nothing in flight,
and memory in its canonical form, nothing listed.
Where the spec leaves a point open, the model's choice stands: log entries 1 and 66. -/
def Obligations.ResetState : Prop :=
  let s := State.reset
  s.waves = [] ∧ s.runs = [] ∧ s.reqs = [] ∧ s.keystones = [] ∧ s.reductions = [] ∧ s.l1 = [] ∧ s.ways = [] ∧ s.tlb = []
  ∧ s.memOk ∧ s.time = 0 ∧ s.runCounter = 1
  ∧ s.link.target = 8 ∧ s.link.liveGroups = List.range 16 ∧ (∀ g, g < 16 → s.link.dir g = decide (g < 8))
  ∧ (∀ c, c < 16 → (s.course c).point = 4 ∧ (s.course c).budget = 2048 ∧ (s.course c).fused = false)
  ∧ (∀ d, d < 2 → s.layergate d = 0 ∧ (s.die d).parkcount = 0 ∧ (∀ n, n < 16 → (s.slice d n).live = 0xFFFF ∧ (s.slice d n).busy = false
      ∧ (s.slice d n).scratch = 0 ∧ (s.slice d n).short = 0 ∧ (s.slice d n).cache + (s.slice d n).queue = 16))
  ∧ (∀ k, k < 64 → (s.slot k).bound = false) ∧ s.host.rqsize = 6 ∧ s.host.tail = 0 ∧ s.host.head = 0 ∧ s.host.doorbell = false
  ∧ s.plumb.state = 0 ∧ s.plumb.cap = 480 ∧ s.plumb.count = 0 ∧ s.plumb.m = List.replicate 32 0
end

