-- ==== Sys2Proof/Laws/Issue.lean ====
section
/-! SUPPORT. What issuing a word can do, said once: where a context comes from, the next state of a word that passes its
checks, the queue of pending results, and the shapes of next states that Safety.lean names. -/

namespace Sys2Proof.Machine

/-- A context holds the state it was taken from. -/
theorem ctx_state {s : State} {x : Ctx} (h : s.ctx? = some x) : x.s = s := by
  unfold State.ctx? at h
  split at h
  · cases h
  · split at h
    · cases h
    · split at h
      · cases h
      · cases h; rfl

/-- A context exists exactly when the wave in focus has a clause in execution. -/
theorem ctx_iff {s : State} {x : Ctx} :
    s.ctx? = some x ↔ x.s = s ∧ ∃ id, s.cur = some id ∧ s.wave? id = some x.w ∧ x.w.clause = some x.c := by
  constructor
  · intro h
    refine ⟨ctx_state h, ?_⟩
    unfold State.ctx? at h
    split at h
    · cases h
    · next id hc =>
      split at h
      · cases h
      · next w hw =>
        split at h
        · cases h
        · next c hcl => cases h; exact ⟨id, hc, hw, hcl⟩
  · rintro ⟨rfl, id, hc, hw, hcl⟩
    simp [State.ctx?, hc, hw, hcl]

/-- Issuing outside a clause is refused, and inside one always answers a next state. -/
theorem issue_next_of_ctx {s : State} {x : Ctx} (h : s.ctx? = some x) (k : Chk) (f : Ctx → Mask → Ctx) :
    ∃ t, issue s k f = .next t := by
  unfold issue
  rw [h]
  dsimp only
  split
  · exact ⟨_, rfl⟩
  · split
    · exact ⟨_, rfl⟩
    · split
      · exact ⟨_, rfl⟩
      · split <;> exact ⟨_, rfl⟩

/-- Registers that lie below REGS pass the check of R330. -/
theorem regsBad_of {x : Ctx} {rs : List (Nat × Nat)} (h : x.w.isThread = false → ∀ r ∈ rs, r.1 + r.2 ≤ x.w.regs) :
    x.regsBad rs = false := by
  unfold Ctx.regsBad
  cases ht : x.w.isThread
  · simp only [Bool.not_false, Bool.true_and, List.any_eq_false, decide_eq_true_eq, Nat.not_lt]
    exact h ht
  · rfl

/-- A word that passes its checks has its effect with Active. -/
theorem issue_runs {s : State} {x : Ctx} {k : Chk} {f : Ctx → Mask → Ctx} (h : s.ctx? = some x)
    (hm : x.mayIssue k.ct k.pr k.regs) (hb : k.bad x = false) (hp : k.priv = true → x.sys = true) :
    issue s k f = .next (f x (x.act k.pr)).done := by
  obtain ⟨h1, h2, h3⟩ := hm
  have ht : (x.w.isThread && (!k.ct || k.pr != 0)) = false := by
    cases ht : x.w.isThread
    · rfl
    · obtain ⟨hc, hpr⟩ := h1 ht
      simp [hc, hpr]
  have hs : (k.priv && !x.sys) = false := by
    cases hk : k.priv
    · rfl
    · simp [hp hk]
  unfold issue
  rw [h]
  simp only [ht, hb, hs, regsBad_of h2, Bool.or_self, Bool.false_eq_true, if_false]
  rw [if_neg h3]

/-- A word whose Active is empty has no effect (R154, R335). -/
theorem issue_idle {s : State} {x : Ctx} {k : Chk} {f : Ctx → Mask → Ctx} (h : s.ctx? = some x)
    (ht : (x.w.isThread && (!k.ct || k.pr != 0)) = false) (hb : k.bad x = false) (hp : k.priv = true → x.sys = true)
    (hr : x.regsBad k.regs = false) (ha : x.act k.pr = 0) : issue s k f = .next s := by
  have hs : (k.priv && !x.sys) = false := by
    cases hk : k.priv
    · rfl
    · simp [hp hk]
  unfold issue
  rw [h]
  simp only [ht, hb, hs, hr, ha, Bool.or_self, Bool.false_eq_true, if_false, if_true]

/-! ### Pending results -/

/-- The distance at which a result is seen (R152, R163). -/
def dstDelay (thread : Bool) : Dst → Nat
  | .vreg _ _ _ => if thread then 2 else 4
  | _ => 2

/-- One queued result. -/
theorem put_eq (x : Ctx) (d : Dst) :
    x.put d = { x with c := { x.c with pend := x.c.pend ++ [⟨x.c.index + dstDelay x.w.isThread d, d⟩] } } := by
  cases d <;> simp [Ctx.put, dstDelay]

/-- Queued results keep their order. -/
theorem puts_eq (x : Ctx) (ds : List Dst) :
    x.puts ds = { x with c := { x.c with pend := x.c.pend ++ ds.map fun d => ⟨x.c.index + dstDelay x.w.isThread d, d⟩ } } := by
  unfold Ctx.puts
  induction ds generalizing x with
  | nil => simp
  | cons d ds ih =>
    rw [List.foldl_cons, ih, put_eq]
    simp

/-- Results of one distance give the state Safety.lean names. -/
theorem puts_done (x : Ctx) (ds : List Dst) (n : Nat) (h : ∀ d ∈ ds, dstDelay x.w.isThread d = n) :
    (x.puts ds).done = x.gives n ds := by
  rw [puts_eq]
  simp only [Ctx.done, Ctx.gives]
  congr 4
  exact congrArg _ (List.map_congr_left fun d hd => by rw [h d hd])

/-- One result. -/
theorem put_done (x : Ctx) (d : Dst) (n : Nat) (h : dstDelay x.w.isThread d = n) : (x.put d).done = x.gives n [d] := by
  have := puts_done x [d] n (by simpa using h)
  simpa [Ctx.puts] using this

/-- A vector result in the lanes of a mask. -/
theorem mapI_done (x : Ctx) (m : Mask) (d : VR) (f : Nat → Word) (h : x.w.isThread = false) :
    (x.mapI m d f).done = x.lanesGet m d f := by
  unfold Ctx.mapI Ctx.lanesGet
  apply puts_done
  intro e he
  obtain ⟨l, -, rfl⟩ := List.mem_map.1 he
  simp [dstDelay, h]

end Sys2Proof.Machine
end

