-- ==== Sys2Proof/Laws/Mem.lean ====
section
/-! SUPPORT. Memory: every operation keeps the canonical form, a read after a write to the same place gives the value written,
and a write leaves every other place alone. -/

namespace Sys2Proof.Machine

/-- A lower bound may be lowered. -/
theorem wfFrom_mono {m : Mem} {lo hi : Nat} (h : lo ≤ hi) (hw : Mem.wfFrom hi m = true) : Mem.wfFrom lo m = true := by
  cases m with
  | nil => rfl
  | cons c t =>
    obtain ⟨k, b⟩ := c
    simp only [Mem.wfFrom, Bool.and_eq_true, decide_eq_true_eq] at hw ⊢
    exact ⟨⟨Nat.le_trans h hw.1.1, hw.1.2⟩, hw.2⟩

/-- Below its first address a memory reads as unlisted. -/
theorem read_below {m : Mem} {lo a : Nat} (hw : Mem.wfFrom lo m = true) (h : a < lo) : m.read a = 0 := by
  cases m with
  | nil => rfl
  | cons c t =>
    obtain ⟨k, b⟩ := c
    simp only [Mem.wfFrom, Bool.and_eq_true, decide_eq_true_eq] at hw
    have : a < k := Nat.lt_of_lt_of_le h hw.1.1
    simp [Mem.read, this, Nat.ne_of_gt this]

/-- A write keeps the form. -/
theorem write_wfFrom {m : Mem} {lo a : Nat} {x : Byte} (hw : Mem.wfFrom lo m = true) (ha : lo ≤ a) :
    Mem.wfFrom lo (m.write a x) = true := by
  induction m generalizing lo with
  | nil =>
    unfold Mem.write
    split
    · rfl
    · next hx =>
      simp only [Mem.wfFrom, Bool.and_eq_true, decide_eq_true_eq, bne_iff_ne]
      exact ⟨⟨ha, hx⟩, trivial⟩
  | cons c t ih =>
    obtain ⟨k, b⟩ := c
    simp only [Mem.wfFrom, Bool.and_eq_true, decide_eq_true_eq] at hw
    obtain ⟨⟨h1, h2⟩, h3⟩ := hw
    unfold Mem.write
    split
    · next hk =>
      subst hk
      split
      · exact wfFrom_mono (Nat.le_succ_of_le h1) h3
      · next hx =>
        simp only [Mem.wfFrom, Bool.and_eq_true, decide_eq_true_eq, bne_iff_ne]
        exact ⟨⟨h1, hx⟩, h3⟩
    · next hk =>
      split
      · next hlt =>
        split
        · simp only [Mem.wfFrom, Bool.and_eq_true, decide_eq_true_eq]
          exact ⟨⟨h1, h2⟩, h3⟩
        · next hx =>
          simp only [Mem.wfFrom, Bool.and_eq_true, decide_eq_true_eq]
          exact ⟨⟨ha, bne_iff_ne.2 hx⟩, ⟨hlt, h2⟩, h3⟩
      · next hge =>
        simp only [Mem.wfFrom, Bool.and_eq_true, decide_eq_true_eq]
        exact ⟨⟨h1, h2⟩, ih h3 (by omega)⟩

/-- Mem.write keeps the canonical form. -/
theorem write_wf {m : Mem} {a : Nat} {x : Byte} (hw : m.wf = true) : (m.write a x).wf = true :=
  write_wfFrom hw (Nat.zero_le a)

/-- Mem.writeN keeps the canonical form. -/
theorem writeN_wf {m : Mem} {a : Nat} {bs : List Byte} (hw : m.wf = true) : (m.writeN a bs).wf = true := by
  induction bs generalizing m a with
  | nil => exact hw
  | cons b t ih => exact ih (write_wf hw)

/-- Mem.clear keeps the canonical form. -/
theorem clear_wf {m : Mem} {a n : Nat} (hw : m.wf = true) : (m.clear a n).wf = true := by
  have go : ∀ (m : Mem) (lo : Nat), Mem.wfFrom lo m = true → Mem.wfFrom lo (m.clear a n) = true := by
    intro m
    induction m with
    | nil => intro lo _; rfl
    | cons c t ih =>
      obtain ⟨k, b⟩ := c
      intro lo h
      simp only [Mem.wfFrom, Bool.and_eq_true, decide_eq_true_eq] at h
      unfold Mem.clear
      rw [List.filter_cons]
      split
      · simp only [Mem.wfFrom, Bool.and_eq_true, decide_eq_true_eq]
        exact ⟨h.1, ih _ h.2⟩
      · exact wfFrom_mono (Nat.le_succ_of_le h.1.1) (ih _ h.2)
  exact go m 0 hw

/-- What a loss of power or a warm reset leaves keeps the canonical form. -/
theorem memAfterLoss_wf {s : State} (hw : s.mem.wf = true) : s.memAfterLoss.wf = true := by
  unfold State.memAfterLoss
  refine List.foldlRecOn (motive := fun m : Mem => m.wf = true) s.ways _ hw fun m hm w _ => ?_
  split
  · exact hm
  · split
    · exact hm
    · exact writeN_wf hm

/-- Reset memory has the canonical form. -/
theorem reset_wf : State.reset.mem.wf = true := rfl

/-- A read after a write: the byte written at its place, every other byte as before. -/
theorem read_write {m : Mem} {a i : Nat} {x : Byte} (hw : m.wf = true) :
    (m.write a x).read i = if i = a then x else m.read i := by
  have go : ∀ (m : Mem) (lo : Nat), Mem.wfFrom lo m = true →
      (m.write a x).read i = if i = a then x else m.read i := by
    intro m
    induction m with
    | nil =>
      intro lo _
      unfold Mem.write
      split
      · next hx => simp [Mem.read, hx]
      · simp only [Mem.read]
        by_cases h : i = a
        · simp [h]
        · simp [h, Ne.symm h]
    | cons c t ih =>
      obtain ⟨k, b⟩ := c
      intro lo h
      simp only [Mem.wfFrom, Bool.and_eq_true, decide_eq_true_eq] at h
      obtain ⟨⟨h1, h2⟩, h3⟩ := h
      unfold Mem.write
      by_cases hk : k = a
      · subst hk
        rw [if_pos rfl]
        by_cases hx : x = 0
        · rw [if_pos hx]
          by_cases hi : i = k
          · subst hi
            rw [if_pos rfl, hx]
            exact read_below h3 (Nat.lt_succ_self _)
          · rw [if_neg hi]
            simp only [Mem.read, if_neg (Ne.symm hi)]
            split
            · next hlt => exact read_below h3 (by omega)
            · rfl
        · rw [if_neg hx]
          simp only [Mem.read]
          by_cases hi : i = k
          · simp [hi]
          · simp [hi, Ne.symm hi]
      · rw [if_neg hk]
        by_cases hlt : a < k
        · rw [if_pos hlt]
          by_cases hx : x = 0
          · rw [if_pos hx]
            by_cases hi : i = a
            · subst hi
              rw [if_pos rfl, hx]
              simp [Mem.read, hk, hlt]
            · rw [if_neg hi]
          · rw [if_neg hx]
            simp only [Mem.read]
            by_cases hi : i = a
            · simp [hi]
            · rw [if_neg (Ne.symm hi), if_neg hi]
              by_cases hia : i < a
              · have h1' : ¬ k = i := by omega
                have h2' : i < k := by omega
                simp [hia, h1', h2']
              · rw [if_neg hia]
        · rw [if_neg hlt]
          simp only [Mem.read]
          by_cases hki : k = i
          · subst hki
            simp [hk]
          · simp only [if_neg hki]
            split
            · next hik =>
              have : ¬ i = a := by omega
              simp [this]
            · exact ih _ h3
  exact go m 0 hw

/-- A byte outside the bytes written is as before. -/
theorem read_writeN_other {m : Mem} {a i : Nat} {bs : List Byte} (hw : m.wf = true) (h : i < a ∨ a + bs.length ≤ i) :
    (m.writeN a bs).read i = m.read i := by
  induction bs generalizing m a with
  | nil => rfl
  | cons b t ih =>
    simp only [List.length_cons] at h
    rw [Mem.writeN, ih (write_wf hw) (by omega), read_write hw, if_neg (by omega)]

/-- A byte among the bytes written is the one written there. -/
theorem read_writeN {m : Mem} {a i : Nat} {bs : List Byte} (hw : m.wf = true) (h : i < bs.length) :
    (m.writeN a bs).read (a + i) = bs.getD i 0 := by
  induction bs generalizing m a i with
  | nil => cases h
  | cons b t ih =>
    rw [Mem.writeN]
    cases i with
    | zero =>
      show ((m.write a b).writeN (a + 1) t).read a = b
      rw [read_writeN_other (i := a) (write_wf hw) (Or.inl (by omega)), read_write hw, if_pos rfl]
    | succ j =>
      have := ih (m := m.write a b) (a := a + 1) (i := j) (write_wf hw) (by simpa using h)
      rw [Nat.add_assoc, Nat.add_comm 1 j] at this
      rw [this]
      rfl

/-- The bytes read have the length asked for. -/
theorem readN_length (m : Mem) (a n : Nat) : (m.readN a n).length = n := by
  induction n generalizing a with
  | zero => rfl
  | succ n ih => simp [Mem.readN, ih]

/-- Reading back what was written. -/
theorem readN_writeN {m : Mem} {a : Nat} {bs : List Byte} (hw : m.wf = true) : (m.writeN a bs).readN a bs.length = bs := by
  induction bs generalizing m a with
  | nil => rfl
  | cons b t ih =>
    have h0 := read_writeN (m := m) (a := a) (i := 0) (bs := b :: t) hw (by simp)
    simp only [Nat.add_zero] at h0
    simp only [List.length_cons, Mem.readN]
    rw [h0]
    exact congrArg (b :: ·) (ih (write_wf hw))

/-! ### Writes of the device -/

/-- What a write at a home does to memory: it writes its bytes there. -/
theorem homeWrite_mem (s : State) (pa : Nat) (bs : List Byte) (strong : Bool) : (s.homeWrite pa bs strong).mem = s.mem.writeN pa bs := by
  cases strong <;> rfl

/-- A write at a home keeps the canonical form. -/
theorem homeWrite_memOk {s : State} {pa : Nat} {bs : List Byte} {strong : Bool} (hw : s.mem.wf = true) :
    (s.homeWrite pa bs strong).mem.wf = true := by
  rw [homeWrite_mem]
  exact writeN_wf hw

/-- A write at a home changes no byte outside it. -/
theorem homeWrite_read {s : State} {pa i : Nat} {bs : List Byte} {strong : Bool} (hw : s.mem.wf = true)
    (h : i < pa ∨ pa + bs.length ≤ i) : (s.homeWrite pa bs strong).mem.read i = s.mem.read i := by
  rw [homeWrite_mem]
  exact read_writeN_other hw h

end Sys2Proof.Machine
end

