-- ==== Sys2Proof/Laws/State.lean ====
section
/-! SUPPORT. What each update of the state leaves as it was, one lemma for each field, and what the accessors find after an
update. -/

namespace Sys2Proof.Machine

/-! ### setWave -/

@[simp] theorem State.setWave_now (s : State) (w : Wave) : (s.setWave w).now = s.now := rfl
@[simp] theorem State.setWave_tape (s : State) (w : Wave) : (s.setWave w).tape = s.tape := rfl
@[simp] theorem State.setWave_evt (s : State) (w : Wave) : (s.setWave w).evt = s.evt := rfl
@[simp] theorem State.setWave_cur (s : State) (w : Wave) : (s.setWave w).cur = s.cur := rfl
@[simp] theorem State.setWave_nextId (s : State) (w : Wave) : (s.setWave w).nextId = s.nextId := rfl
@[simp] theorem State.setWave_runCounter (s : State) (w : Wave) : (s.setWave w).runCounter = s.runCounter := rfl
@[simp] theorem State.setWave_reqs (s : State) (w : Wave) : (s.setWave w).reqs = s.reqs := rfl
@[simp] theorem State.setWave_runs (s : State) (w : Wave) : (s.setWave w).runs = s.runs := rfl
@[simp] theorem State.setWave_launches (s : State) (w : Wave) : (s.setWave w).launches = s.launches := rfl
@[simp] theorem State.setWave_slots (s : State) (w : Wave) : (s.setWave w).slots = s.slots := rfl
@[simp] theorem State.setWave_mem (s : State) (w : Wave) : (s.setWave w).mem = s.mem := rfl
@[simp] theorem State.setWave_ways (s : State) (w : Wave) : (s.setWave w).ways = s.ways := rfl
@[simp] theorem State.setWave_poisoned (s : State) (w : Wave) : (s.setWave w).poisoned = s.poisoned := rfl
@[simp] theorem State.setWave_code (s : State) (w : Wave) : (s.setWave w).code = s.code := rfl
@[simp] theorem State.setWave_codeKeys (s : State) (w : Wave) : (s.setWave w).codeKeys = s.codeKeys := rfl
@[simp] theorem State.setWave_imem (s : State) (w : Wave) : (s.setWave w).imem = s.imem := rfl
@[simp] theorem State.setWave_l1 (s : State) (w : Wave) : (s.setWave w).l1 = s.l1 := rfl
@[simp] theorem State.setWave_tlb (s : State) (w : Wave) : (s.setWave w).tlb = s.tlb := rfl
@[simp] theorem State.setWave_shorts (s : State) (w : Wave) : (s.setWave w).shorts = s.shorts := rfl
@[simp] theorem State.setWave_marks (s : State) (w : Wave) : (s.setWave w).marks = s.marks := rfl
@[simp] theorem State.setWave_keystones (s : State) (w : Wave) : (s.setWave w).keystones = s.keystones := rfl
@[simp] theorem State.setWave_reductions (s : State) (w : Wave) : (s.setWave w).reductions = s.reductions := rfl
@[simp] theorem State.setWave_seqs (s : State) (w : Wave) : (s.setWave w).seqs = s.seqs := rfl
@[simp] theorem State.setWave_ashlars (s : State) (w : Wave) : (s.setWave w).ashlars = s.ashlars := rfl
@[simp] theorem State.setWave_courses (s : State) (w : Wave) : (s.setWave w).courses = s.courses := rfl
@[simp] theorem State.setWave_dies (s : State) (w : Wave) : (s.setWave w).dies = s.dies := rfl
@[simp] theorem State.setWave_link (s : State) (w : Wave) : (s.setWave w).link = s.link := rfl
@[simp] theorem State.setWave_host (s : State) (w : Wave) : (s.setWave w).host = s.host := rfl
@[simp] theorem State.setWave_plumb (s : State) (w : Wave) : (s.setWave w).plumb = s.plumb := rfl
@[simp] theorem State.setWave_window (s : State) (w : Wave) : (s.setWave w).window = s.window := rfl
@[simp] theorem State.setWave_free (s : State) (w : Wave) : (s.setWave w).free = s.free := rfl

/-! ### modWave -/

@[simp] theorem State.modWave_now (s : State) (i : Nat) (f : Wave → Wave) : (s.modWave i f).now = s.now := rfl
@[simp] theorem State.modWave_tape (s : State) (i : Nat) (f : Wave → Wave) : (s.modWave i f).tape = s.tape := rfl
@[simp] theorem State.modWave_evt (s : State) (i : Nat) (f : Wave → Wave) : (s.modWave i f).evt = s.evt := rfl
@[simp] theorem State.modWave_cur (s : State) (i : Nat) (f : Wave → Wave) : (s.modWave i f).cur = s.cur := rfl
@[simp] theorem State.modWave_nextId (s : State) (i : Nat) (f : Wave → Wave) : (s.modWave i f).nextId = s.nextId := rfl
@[simp] theorem State.modWave_runCounter (s : State) (i : Nat) (f : Wave → Wave) : (s.modWave i f).runCounter = s.runCounter := rfl
@[simp] theorem State.modWave_reqs (s : State) (i : Nat) (f : Wave → Wave) : (s.modWave i f).reqs = s.reqs := rfl
@[simp] theorem State.modWave_runs (s : State) (i : Nat) (f : Wave → Wave) : (s.modWave i f).runs = s.runs := rfl
@[simp] theorem State.modWave_launches (s : State) (i : Nat) (f : Wave → Wave) : (s.modWave i f).launches = s.launches := rfl
@[simp] theorem State.modWave_slots (s : State) (i : Nat) (f : Wave → Wave) : (s.modWave i f).slots = s.slots := rfl
@[simp] theorem State.modWave_mem (s : State) (i : Nat) (f : Wave → Wave) : (s.modWave i f).mem = s.mem := rfl
@[simp] theorem State.modWave_ways (s : State) (i : Nat) (f : Wave → Wave) : (s.modWave i f).ways = s.ways := rfl
@[simp] theorem State.modWave_poisoned (s : State) (i : Nat) (f : Wave → Wave) : (s.modWave i f).poisoned = s.poisoned := rfl
@[simp] theorem State.modWave_code (s : State) (i : Nat) (f : Wave → Wave) : (s.modWave i f).code = s.code := rfl
@[simp] theorem State.modWave_codeKeys (s : State) (i : Nat) (f : Wave → Wave) : (s.modWave i f).codeKeys = s.codeKeys := rfl
@[simp] theorem State.modWave_imem (s : State) (i : Nat) (f : Wave → Wave) : (s.modWave i f).imem = s.imem := rfl
@[simp] theorem State.modWave_l1 (s : State) (i : Nat) (f : Wave → Wave) : (s.modWave i f).l1 = s.l1 := rfl
@[simp] theorem State.modWave_tlb (s : State) (i : Nat) (f : Wave → Wave) : (s.modWave i f).tlb = s.tlb := rfl
@[simp] theorem State.modWave_shorts (s : State) (i : Nat) (f : Wave → Wave) : (s.modWave i f).shorts = s.shorts := rfl
@[simp] theorem State.modWave_marks (s : State) (i : Nat) (f : Wave → Wave) : (s.modWave i f).marks = s.marks := rfl
@[simp] theorem State.modWave_keystones (s : State) (i : Nat) (f : Wave → Wave) : (s.modWave i f).keystones = s.keystones := rfl
@[simp] theorem State.modWave_reductions (s : State) (i : Nat) (f : Wave → Wave) : (s.modWave i f).reductions = s.reductions := rfl
@[simp] theorem State.modWave_seqs (s : State) (i : Nat) (f : Wave → Wave) : (s.modWave i f).seqs = s.seqs := rfl
@[simp] theorem State.modWave_ashlars (s : State) (i : Nat) (f : Wave → Wave) : (s.modWave i f).ashlars = s.ashlars := rfl
@[simp] theorem State.modWave_courses (s : State) (i : Nat) (f : Wave → Wave) : (s.modWave i f).courses = s.courses := rfl
@[simp] theorem State.modWave_dies (s : State) (i : Nat) (f : Wave → Wave) : (s.modWave i f).dies = s.dies := rfl
@[simp] theorem State.modWave_link (s : State) (i : Nat) (f : Wave → Wave) : (s.modWave i f).link = s.link := rfl
@[simp] theorem State.modWave_host (s : State) (i : Nat) (f : Wave → Wave) : (s.modWave i f).host = s.host := rfl
@[simp] theorem State.modWave_plumb (s : State) (i : Nat) (f : Wave → Wave) : (s.modWave i f).plumb = s.plumb := rfl
@[simp] theorem State.modWave_window (s : State) (i : Nat) (f : Wave → Wave) : (s.modWave i f).window = s.window := rfl
@[simp] theorem State.modWave_free (s : State) (i : Nat) (f : Wave → Wave) : (s.modWave i f).free = s.free := rfl

/-! ### modRun -/

@[simp] theorem State.modRun_now (s : State) (i : Nat) (f : Run → Run) : (s.modRun i f).now = s.now := rfl
@[simp] theorem State.modRun_tape (s : State) (i : Nat) (f : Run → Run) : (s.modRun i f).tape = s.tape := rfl
@[simp] theorem State.modRun_evt (s : State) (i : Nat) (f : Run → Run) : (s.modRun i f).evt = s.evt := rfl
@[simp] theorem State.modRun_cur (s : State) (i : Nat) (f : Run → Run) : (s.modRun i f).cur = s.cur := rfl
@[simp] theorem State.modRun_nextId (s : State) (i : Nat) (f : Run → Run) : (s.modRun i f).nextId = s.nextId := rfl
@[simp] theorem State.modRun_runCounter (s : State) (i : Nat) (f : Run → Run) : (s.modRun i f).runCounter = s.runCounter := rfl
@[simp] theorem State.modRun_waves (s : State) (i : Nat) (f : Run → Run) : (s.modRun i f).waves = s.waves := rfl
@[simp] theorem State.modRun_reqs (s : State) (i : Nat) (f : Run → Run) : (s.modRun i f).reqs = s.reqs := rfl
@[simp] theorem State.modRun_launches (s : State) (i : Nat) (f : Run → Run) : (s.modRun i f).launches = s.launches := rfl
@[simp] theorem State.modRun_slots (s : State) (i : Nat) (f : Run → Run) : (s.modRun i f).slots = s.slots := rfl
@[simp] theorem State.modRun_mem (s : State) (i : Nat) (f : Run → Run) : (s.modRun i f).mem = s.mem := rfl
@[simp] theorem State.modRun_ways (s : State) (i : Nat) (f : Run → Run) : (s.modRun i f).ways = s.ways := rfl
@[simp] theorem State.modRun_poisoned (s : State) (i : Nat) (f : Run → Run) : (s.modRun i f).poisoned = s.poisoned := rfl
@[simp] theorem State.modRun_code (s : State) (i : Nat) (f : Run → Run) : (s.modRun i f).code = s.code := rfl
@[simp] theorem State.modRun_codeKeys (s : State) (i : Nat) (f : Run → Run) : (s.modRun i f).codeKeys = s.codeKeys := rfl
@[simp] theorem State.modRun_imem (s : State) (i : Nat) (f : Run → Run) : (s.modRun i f).imem = s.imem := rfl
@[simp] theorem State.modRun_l1 (s : State) (i : Nat) (f : Run → Run) : (s.modRun i f).l1 = s.l1 := rfl
@[simp] theorem State.modRun_tlb (s : State) (i : Nat) (f : Run → Run) : (s.modRun i f).tlb = s.tlb := rfl
@[simp] theorem State.modRun_shorts (s : State) (i : Nat) (f : Run → Run) : (s.modRun i f).shorts = s.shorts := rfl
@[simp] theorem State.modRun_marks (s : State) (i : Nat) (f : Run → Run) : (s.modRun i f).marks = s.marks := rfl
@[simp] theorem State.modRun_keystones (s : State) (i : Nat) (f : Run → Run) : (s.modRun i f).keystones = s.keystones := rfl
@[simp] theorem State.modRun_reductions (s : State) (i : Nat) (f : Run → Run) : (s.modRun i f).reductions = s.reductions := rfl
@[simp] theorem State.modRun_seqs (s : State) (i : Nat) (f : Run → Run) : (s.modRun i f).seqs = s.seqs := rfl
@[simp] theorem State.modRun_ashlars (s : State) (i : Nat) (f : Run → Run) : (s.modRun i f).ashlars = s.ashlars := rfl
@[simp] theorem State.modRun_courses (s : State) (i : Nat) (f : Run → Run) : (s.modRun i f).courses = s.courses := rfl
@[simp] theorem State.modRun_dies (s : State) (i : Nat) (f : Run → Run) : (s.modRun i f).dies = s.dies := rfl
@[simp] theorem State.modRun_link (s : State) (i : Nat) (f : Run → Run) : (s.modRun i f).link = s.link := rfl
@[simp] theorem State.modRun_host (s : State) (i : Nat) (f : Run → Run) : (s.modRun i f).host = s.host := rfl
@[simp] theorem State.modRun_plumb (s : State) (i : Nat) (f : Run → Run) : (s.modRun i f).plumb = s.plumb := rfl
@[simp] theorem State.modRun_window (s : State) (i : Nat) (f : Run → Run) : (s.modRun i f).window = s.window := rfl
@[simp] theorem State.modRun_free (s : State) (i : Nat) (f : Run → Run) : (s.modRun i f).free = s.free := rfl

/-! ### modSlot -/

@[simp] theorem State.modSlot_now (s : State) (n : Nat) (f : Slot → Slot) : (s.modSlot n f).now = s.now := rfl
@[simp] theorem State.modSlot_tape (s : State) (n : Nat) (f : Slot → Slot) : (s.modSlot n f).tape = s.tape := rfl
@[simp] theorem State.modSlot_evt (s : State) (n : Nat) (f : Slot → Slot) : (s.modSlot n f).evt = s.evt := rfl
@[simp] theorem State.modSlot_cur (s : State) (n : Nat) (f : Slot → Slot) : (s.modSlot n f).cur = s.cur := rfl
@[simp] theorem State.modSlot_nextId (s : State) (n : Nat) (f : Slot → Slot) : (s.modSlot n f).nextId = s.nextId := rfl
@[simp] theorem State.modSlot_runCounter (s : State) (n : Nat) (f : Slot → Slot) : (s.modSlot n f).runCounter = s.runCounter := rfl
@[simp] theorem State.modSlot_waves (s : State) (n : Nat) (f : Slot → Slot) : (s.modSlot n f).waves = s.waves := rfl
@[simp] theorem State.modSlot_reqs (s : State) (n : Nat) (f : Slot → Slot) : (s.modSlot n f).reqs = s.reqs := rfl
@[simp] theorem State.modSlot_runs (s : State) (n : Nat) (f : Slot → Slot) : (s.modSlot n f).runs = s.runs := rfl
@[simp] theorem State.modSlot_launches (s : State) (n : Nat) (f : Slot → Slot) : (s.modSlot n f).launches = s.launches := rfl
@[simp] theorem State.modSlot_mem (s : State) (n : Nat) (f : Slot → Slot) : (s.modSlot n f).mem = s.mem := rfl
@[simp] theorem State.modSlot_ways (s : State) (n : Nat) (f : Slot → Slot) : (s.modSlot n f).ways = s.ways := rfl
@[simp] theorem State.modSlot_poisoned (s : State) (n : Nat) (f : Slot → Slot) : (s.modSlot n f).poisoned = s.poisoned := rfl
@[simp] theorem State.modSlot_code (s : State) (n : Nat) (f : Slot → Slot) : (s.modSlot n f).code = s.code := rfl
@[simp] theorem State.modSlot_codeKeys (s : State) (n : Nat) (f : Slot → Slot) : (s.modSlot n f).codeKeys = s.codeKeys := rfl
@[simp] theorem State.modSlot_imem (s : State) (n : Nat) (f : Slot → Slot) : (s.modSlot n f).imem = s.imem := rfl
@[simp] theorem State.modSlot_l1 (s : State) (n : Nat) (f : Slot → Slot) : (s.modSlot n f).l1 = s.l1 := rfl
@[simp] theorem State.modSlot_tlb (s : State) (n : Nat) (f : Slot → Slot) : (s.modSlot n f).tlb = s.tlb := rfl
@[simp] theorem State.modSlot_shorts (s : State) (n : Nat) (f : Slot → Slot) : (s.modSlot n f).shorts = s.shorts := rfl
@[simp] theorem State.modSlot_marks (s : State) (n : Nat) (f : Slot → Slot) : (s.modSlot n f).marks = s.marks := rfl
@[simp] theorem State.modSlot_keystones (s : State) (n : Nat) (f : Slot → Slot) : (s.modSlot n f).keystones = s.keystones := rfl
@[simp] theorem State.modSlot_reductions (s : State) (n : Nat) (f : Slot → Slot) : (s.modSlot n f).reductions = s.reductions := rfl
@[simp] theorem State.modSlot_seqs (s : State) (n : Nat) (f : Slot → Slot) : (s.modSlot n f).seqs = s.seqs := rfl
@[simp] theorem State.modSlot_ashlars (s : State) (n : Nat) (f : Slot → Slot) : (s.modSlot n f).ashlars = s.ashlars := rfl
@[simp] theorem State.modSlot_courses (s : State) (n : Nat) (f : Slot → Slot) : (s.modSlot n f).courses = s.courses := rfl
@[simp] theorem State.modSlot_dies (s : State) (n : Nat) (f : Slot → Slot) : (s.modSlot n f).dies = s.dies := rfl
@[simp] theorem State.modSlot_link (s : State) (n : Nat) (f : Slot → Slot) : (s.modSlot n f).link = s.link := rfl
@[simp] theorem State.modSlot_host (s : State) (n : Nat) (f : Slot → Slot) : (s.modSlot n f).host = s.host := rfl
@[simp] theorem State.modSlot_plumb (s : State) (n : Nat) (f : Slot → Slot) : (s.modSlot n f).plumb = s.plumb := rfl
@[simp] theorem State.modSlot_window (s : State) (n : Nat) (f : Slot → Slot) : (s.modSlot n f).window = s.window := rfl
@[simp] theorem State.modSlot_free (s : State) (n : Nat) (f : Slot → Slot) : (s.modSlot n f).free = s.free := rfl

/-! ### modAshlar -/

@[simp] theorem State.modAshlar_now (s : State) (a : Nat) (f : Ashlar → Ashlar) : (s.modAshlar a f).now = s.now := rfl
@[simp] theorem State.modAshlar_tape (s : State) (a : Nat) (f : Ashlar → Ashlar) : (s.modAshlar a f).tape = s.tape := rfl
@[simp] theorem State.modAshlar_evt (s : State) (a : Nat) (f : Ashlar → Ashlar) : (s.modAshlar a f).evt = s.evt := rfl
@[simp] theorem State.modAshlar_cur (s : State) (a : Nat) (f : Ashlar → Ashlar) : (s.modAshlar a f).cur = s.cur := rfl
@[simp] theorem State.modAshlar_nextId (s : State) (a : Nat) (f : Ashlar → Ashlar) : (s.modAshlar a f).nextId = s.nextId := rfl
@[simp] theorem State.modAshlar_runCounter (s : State) (a : Nat) (f : Ashlar → Ashlar) : (s.modAshlar a f).runCounter = s.runCounter := rfl
@[simp] theorem State.modAshlar_waves (s : State) (a : Nat) (f : Ashlar → Ashlar) : (s.modAshlar a f).waves = s.waves := rfl
@[simp] theorem State.modAshlar_reqs (s : State) (a : Nat) (f : Ashlar → Ashlar) : (s.modAshlar a f).reqs = s.reqs := rfl
@[simp] theorem State.modAshlar_runs (s : State) (a : Nat) (f : Ashlar → Ashlar) : (s.modAshlar a f).runs = s.runs := rfl
@[simp] theorem State.modAshlar_launches (s : State) (a : Nat) (f : Ashlar → Ashlar) : (s.modAshlar a f).launches = s.launches := rfl
@[simp] theorem State.modAshlar_slots (s : State) (a : Nat) (f : Ashlar → Ashlar) : (s.modAshlar a f).slots = s.slots := rfl
@[simp] theorem State.modAshlar_mem (s : State) (a : Nat) (f : Ashlar → Ashlar) : (s.modAshlar a f).mem = s.mem := rfl
@[simp] theorem State.modAshlar_ways (s : State) (a : Nat) (f : Ashlar → Ashlar) : (s.modAshlar a f).ways = s.ways := rfl
@[simp] theorem State.modAshlar_poisoned (s : State) (a : Nat) (f : Ashlar → Ashlar) : (s.modAshlar a f).poisoned = s.poisoned := rfl
@[simp] theorem State.modAshlar_code (s : State) (a : Nat) (f : Ashlar → Ashlar) : (s.modAshlar a f).code = s.code := rfl
@[simp] theorem State.modAshlar_codeKeys (s : State) (a : Nat) (f : Ashlar → Ashlar) : (s.modAshlar a f).codeKeys = s.codeKeys := rfl
@[simp] theorem State.modAshlar_imem (s : State) (a : Nat) (f : Ashlar → Ashlar) : (s.modAshlar a f).imem = s.imem := rfl
@[simp] theorem State.modAshlar_l1 (s : State) (a : Nat) (f : Ashlar → Ashlar) : (s.modAshlar a f).l1 = s.l1 := rfl
@[simp] theorem State.modAshlar_tlb (s : State) (a : Nat) (f : Ashlar → Ashlar) : (s.modAshlar a f).tlb = s.tlb := rfl
@[simp] theorem State.modAshlar_shorts (s : State) (a : Nat) (f : Ashlar → Ashlar) : (s.modAshlar a f).shorts = s.shorts := rfl
@[simp] theorem State.modAshlar_marks (s : State) (a : Nat) (f : Ashlar → Ashlar) : (s.modAshlar a f).marks = s.marks := rfl
@[simp] theorem State.modAshlar_keystones (s : State) (a : Nat) (f : Ashlar → Ashlar) : (s.modAshlar a f).keystones = s.keystones := rfl
@[simp] theorem State.modAshlar_reductions (s : State) (a : Nat) (f : Ashlar → Ashlar) : (s.modAshlar a f).reductions = s.reductions := rfl
@[simp] theorem State.modAshlar_seqs (s : State) (a : Nat) (f : Ashlar → Ashlar) : (s.modAshlar a f).seqs = s.seqs := rfl
@[simp] theorem State.modAshlar_courses (s : State) (a : Nat) (f : Ashlar → Ashlar) : (s.modAshlar a f).courses = s.courses := rfl
@[simp] theorem State.modAshlar_dies (s : State) (a : Nat) (f : Ashlar → Ashlar) : (s.modAshlar a f).dies = s.dies := rfl
@[simp] theorem State.modAshlar_link (s : State) (a : Nat) (f : Ashlar → Ashlar) : (s.modAshlar a f).link = s.link := rfl
@[simp] theorem State.modAshlar_host (s : State) (a : Nat) (f : Ashlar → Ashlar) : (s.modAshlar a f).host = s.host := rfl
@[simp] theorem State.modAshlar_plumb (s : State) (a : Nat) (f : Ashlar → Ashlar) : (s.modAshlar a f).plumb = s.plumb := rfl
@[simp] theorem State.modAshlar_window (s : State) (a : Nat) (f : Ashlar → Ashlar) : (s.modAshlar a f).window = s.window := rfl
@[simp] theorem State.modAshlar_free (s : State) (a : Nat) (f : Ashlar → Ashlar) : (s.modAshlar a f).free = s.free := rfl

/-! ### modCourse -/

@[simp] theorem State.modCourse_now (s : State) (c : Nat) (f : Course → Course) : (s.modCourse c f).now = s.now := rfl
@[simp] theorem State.modCourse_tape (s : State) (c : Nat) (f : Course → Course) : (s.modCourse c f).tape = s.tape := rfl
@[simp] theorem State.modCourse_evt (s : State) (c : Nat) (f : Course → Course) : (s.modCourse c f).evt = s.evt := rfl
@[simp] theorem State.modCourse_cur (s : State) (c : Nat) (f : Course → Course) : (s.modCourse c f).cur = s.cur := rfl
@[simp] theorem State.modCourse_nextId (s : State) (c : Nat) (f : Course → Course) : (s.modCourse c f).nextId = s.nextId := rfl
@[simp] theorem State.modCourse_runCounter (s : State) (c : Nat) (f : Course → Course) : (s.modCourse c f).runCounter = s.runCounter := rfl
@[simp] theorem State.modCourse_waves (s : State) (c : Nat) (f : Course → Course) : (s.modCourse c f).waves = s.waves := rfl
@[simp] theorem State.modCourse_reqs (s : State) (c : Nat) (f : Course → Course) : (s.modCourse c f).reqs = s.reqs := rfl
@[simp] theorem State.modCourse_runs (s : State) (c : Nat) (f : Course → Course) : (s.modCourse c f).runs = s.runs := rfl
@[simp] theorem State.modCourse_launches (s : State) (c : Nat) (f : Course → Course) : (s.modCourse c f).launches = s.launches := rfl
@[simp] theorem State.modCourse_slots (s : State) (c : Nat) (f : Course → Course) : (s.modCourse c f).slots = s.slots := rfl
@[simp] theorem State.modCourse_mem (s : State) (c : Nat) (f : Course → Course) : (s.modCourse c f).mem = s.mem := rfl
@[simp] theorem State.modCourse_ways (s : State) (c : Nat) (f : Course → Course) : (s.modCourse c f).ways = s.ways := rfl
@[simp] theorem State.modCourse_poisoned (s : State) (c : Nat) (f : Course → Course) : (s.modCourse c f).poisoned = s.poisoned := rfl
@[simp] theorem State.modCourse_code (s : State) (c : Nat) (f : Course → Course) : (s.modCourse c f).code = s.code := rfl
@[simp] theorem State.modCourse_codeKeys (s : State) (c : Nat) (f : Course → Course) : (s.modCourse c f).codeKeys = s.codeKeys := rfl
@[simp] theorem State.modCourse_imem (s : State) (c : Nat) (f : Course → Course) : (s.modCourse c f).imem = s.imem := rfl
@[simp] theorem State.modCourse_l1 (s : State) (c : Nat) (f : Course → Course) : (s.modCourse c f).l1 = s.l1 := rfl
@[simp] theorem State.modCourse_tlb (s : State) (c : Nat) (f : Course → Course) : (s.modCourse c f).tlb = s.tlb := rfl
@[simp] theorem State.modCourse_shorts (s : State) (c : Nat) (f : Course → Course) : (s.modCourse c f).shorts = s.shorts := rfl
@[simp] theorem State.modCourse_marks (s : State) (c : Nat) (f : Course → Course) : (s.modCourse c f).marks = s.marks := rfl
@[simp] theorem State.modCourse_keystones (s : State) (c : Nat) (f : Course → Course) : (s.modCourse c f).keystones = s.keystones := rfl
@[simp] theorem State.modCourse_reductions (s : State) (c : Nat) (f : Course → Course) : (s.modCourse c f).reductions = s.reductions := rfl
@[simp] theorem State.modCourse_seqs (s : State) (c : Nat) (f : Course → Course) : (s.modCourse c f).seqs = s.seqs := rfl
@[simp] theorem State.modCourse_ashlars (s : State) (c : Nat) (f : Course → Course) : (s.modCourse c f).ashlars = s.ashlars := rfl
@[simp] theorem State.modCourse_dies (s : State) (c : Nat) (f : Course → Course) : (s.modCourse c f).dies = s.dies := rfl
@[simp] theorem State.modCourse_link (s : State) (c : Nat) (f : Course → Course) : (s.modCourse c f).link = s.link := rfl
@[simp] theorem State.modCourse_host (s : State) (c : Nat) (f : Course → Course) : (s.modCourse c f).host = s.host := rfl
@[simp] theorem State.modCourse_plumb (s : State) (c : Nat) (f : Course → Course) : (s.modCourse c f).plumb = s.plumb := rfl
@[simp] theorem State.modCourse_window (s : State) (c : Nat) (f : Course → Course) : (s.modCourse c f).window = s.window := rfl
@[simp] theorem State.modCourse_free (s : State) (c : Nat) (f : Course → Course) : (s.modCourse c f).free = s.free := rfl

/-! ### modDie -/

@[simp] theorem State.modDie_now (s : State) (d : Nat) (f : Die → Die) : (s.modDie d f).now = s.now := rfl
@[simp] theorem State.modDie_tape (s : State) (d : Nat) (f : Die → Die) : (s.modDie d f).tape = s.tape := rfl
@[simp] theorem State.modDie_evt (s : State) (d : Nat) (f : Die → Die) : (s.modDie d f).evt = s.evt := rfl
@[simp] theorem State.modDie_cur (s : State) (d : Nat) (f : Die → Die) : (s.modDie d f).cur = s.cur := rfl
@[simp] theorem State.modDie_nextId (s : State) (d : Nat) (f : Die → Die) : (s.modDie d f).nextId = s.nextId := rfl
@[simp] theorem State.modDie_runCounter (s : State) (d : Nat) (f : Die → Die) : (s.modDie d f).runCounter = s.runCounter := rfl
@[simp] theorem State.modDie_waves (s : State) (d : Nat) (f : Die → Die) : (s.modDie d f).waves = s.waves := rfl
@[simp] theorem State.modDie_reqs (s : State) (d : Nat) (f : Die → Die) : (s.modDie d f).reqs = s.reqs := rfl
@[simp] theorem State.modDie_runs (s : State) (d : Nat) (f : Die → Die) : (s.modDie d f).runs = s.runs := rfl
@[simp] theorem State.modDie_launches (s : State) (d : Nat) (f : Die → Die) : (s.modDie d f).launches = s.launches := rfl
@[simp] theorem State.modDie_slots (s : State) (d : Nat) (f : Die → Die) : (s.modDie d f).slots = s.slots := rfl
@[simp] theorem State.modDie_mem (s : State) (d : Nat) (f : Die → Die) : (s.modDie d f).mem = s.mem := rfl
@[simp] theorem State.modDie_ways (s : State) (d : Nat) (f : Die → Die) : (s.modDie d f).ways = s.ways := rfl
@[simp] theorem State.modDie_poisoned (s : State) (d : Nat) (f : Die → Die) : (s.modDie d f).poisoned = s.poisoned := rfl
@[simp] theorem State.modDie_code (s : State) (d : Nat) (f : Die → Die) : (s.modDie d f).code = s.code := rfl
@[simp] theorem State.modDie_codeKeys (s : State) (d : Nat) (f : Die → Die) : (s.modDie d f).codeKeys = s.codeKeys := rfl
@[simp] theorem State.modDie_imem (s : State) (d : Nat) (f : Die → Die) : (s.modDie d f).imem = s.imem := rfl
@[simp] theorem State.modDie_l1 (s : State) (d : Nat) (f : Die → Die) : (s.modDie d f).l1 = s.l1 := rfl
@[simp] theorem State.modDie_tlb (s : State) (d : Nat) (f : Die → Die) : (s.modDie d f).tlb = s.tlb := rfl
@[simp] theorem State.modDie_shorts (s : State) (d : Nat) (f : Die → Die) : (s.modDie d f).shorts = s.shorts := rfl
@[simp] theorem State.modDie_marks (s : State) (d : Nat) (f : Die → Die) : (s.modDie d f).marks = s.marks := rfl
@[simp] theorem State.modDie_keystones (s : State) (d : Nat) (f : Die → Die) : (s.modDie d f).keystones = s.keystones := rfl
@[simp] theorem State.modDie_reductions (s : State) (d : Nat) (f : Die → Die) : (s.modDie d f).reductions = s.reductions := rfl
@[simp] theorem State.modDie_seqs (s : State) (d : Nat) (f : Die → Die) : (s.modDie d f).seqs = s.seqs := rfl
@[simp] theorem State.modDie_ashlars (s : State) (d : Nat) (f : Die → Die) : (s.modDie d f).ashlars = s.ashlars := rfl
@[simp] theorem State.modDie_courses (s : State) (d : Nat) (f : Die → Die) : (s.modDie d f).courses = s.courses := rfl
@[simp] theorem State.modDie_link (s : State) (d : Nat) (f : Die → Die) : (s.modDie d f).link = s.link := rfl
@[simp] theorem State.modDie_host (s : State) (d : Nat) (f : Die → Die) : (s.modDie d f).host = s.host := rfl
@[simp] theorem State.modDie_plumb (s : State) (d : Nat) (f : Die → Die) : (s.modDie d f).plumb = s.plumb := rfl
@[simp] theorem State.modDie_window (s : State) (d : Nat) (f : Die → Die) : (s.modDie d f).window = s.window := rfl
@[simp] theorem State.modDie_free (s : State) (d : Nat) (f : Die → Die) : (s.modDie d f).free = s.free := rfl

/-! ### modReq -/

@[simp] theorem State.modReq_now (s : State) (i : Nat) (f : Req → Req) : (s.modReq i f).now = s.now := rfl
@[simp] theorem State.modReq_tape (s : State) (i : Nat) (f : Req → Req) : (s.modReq i f).tape = s.tape := rfl
@[simp] theorem State.modReq_evt (s : State) (i : Nat) (f : Req → Req) : (s.modReq i f).evt = s.evt := rfl
@[simp] theorem State.modReq_cur (s : State) (i : Nat) (f : Req → Req) : (s.modReq i f).cur = s.cur := rfl
@[simp] theorem State.modReq_nextId (s : State) (i : Nat) (f : Req → Req) : (s.modReq i f).nextId = s.nextId := rfl
@[simp] theorem State.modReq_runCounter (s : State) (i : Nat) (f : Req → Req) : (s.modReq i f).runCounter = s.runCounter := rfl
@[simp] theorem State.modReq_waves (s : State) (i : Nat) (f : Req → Req) : (s.modReq i f).waves = s.waves := rfl
@[simp] theorem State.modReq_runs (s : State) (i : Nat) (f : Req → Req) : (s.modReq i f).runs = s.runs := rfl
@[simp] theorem State.modReq_launches (s : State) (i : Nat) (f : Req → Req) : (s.modReq i f).launches = s.launches := rfl
@[simp] theorem State.modReq_slots (s : State) (i : Nat) (f : Req → Req) : (s.modReq i f).slots = s.slots := rfl
@[simp] theorem State.modReq_mem (s : State) (i : Nat) (f : Req → Req) : (s.modReq i f).mem = s.mem := rfl
@[simp] theorem State.modReq_ways (s : State) (i : Nat) (f : Req → Req) : (s.modReq i f).ways = s.ways := rfl
@[simp] theorem State.modReq_poisoned (s : State) (i : Nat) (f : Req → Req) : (s.modReq i f).poisoned = s.poisoned := rfl
@[simp] theorem State.modReq_code (s : State) (i : Nat) (f : Req → Req) : (s.modReq i f).code = s.code := rfl
@[simp] theorem State.modReq_codeKeys (s : State) (i : Nat) (f : Req → Req) : (s.modReq i f).codeKeys = s.codeKeys := rfl
@[simp] theorem State.modReq_imem (s : State) (i : Nat) (f : Req → Req) : (s.modReq i f).imem = s.imem := rfl
@[simp] theorem State.modReq_l1 (s : State) (i : Nat) (f : Req → Req) : (s.modReq i f).l1 = s.l1 := rfl
@[simp] theorem State.modReq_tlb (s : State) (i : Nat) (f : Req → Req) : (s.modReq i f).tlb = s.tlb := rfl
@[simp] theorem State.modReq_shorts (s : State) (i : Nat) (f : Req → Req) : (s.modReq i f).shorts = s.shorts := rfl
@[simp] theorem State.modReq_marks (s : State) (i : Nat) (f : Req → Req) : (s.modReq i f).marks = s.marks := rfl
@[simp] theorem State.modReq_keystones (s : State) (i : Nat) (f : Req → Req) : (s.modReq i f).keystones = s.keystones := rfl
@[simp] theorem State.modReq_reductions (s : State) (i : Nat) (f : Req → Req) : (s.modReq i f).reductions = s.reductions := rfl
@[simp] theorem State.modReq_seqs (s : State) (i : Nat) (f : Req → Req) : (s.modReq i f).seqs = s.seqs := rfl
@[simp] theorem State.modReq_ashlars (s : State) (i : Nat) (f : Req → Req) : (s.modReq i f).ashlars = s.ashlars := rfl
@[simp] theorem State.modReq_courses (s : State) (i : Nat) (f : Req → Req) : (s.modReq i f).courses = s.courses := rfl
@[simp] theorem State.modReq_dies (s : State) (i : Nat) (f : Req → Req) : (s.modReq i f).dies = s.dies := rfl
@[simp] theorem State.modReq_link (s : State) (i : Nat) (f : Req → Req) : (s.modReq i f).link = s.link := rfl
@[simp] theorem State.modReq_host (s : State) (i : Nat) (f : Req → Req) : (s.modReq i f).host = s.host := rfl
@[simp] theorem State.modReq_plumb (s : State) (i : Nat) (f : Req → Req) : (s.modReq i f).plumb = s.plumb := rfl
@[simp] theorem State.modReq_window (s : State) (i : Nat) (f : Req → Req) : (s.modReq i f).window = s.window := rfl
@[simp] theorem State.modReq_free (s : State) (i : Nat) (f : Req → Req) : (s.modReq i f).free = s.free := rfl

/-! ### dropReq -/

@[simp] theorem State.dropReq_now (s : State) (i : Nat) : (s.dropReq i).now = s.now := rfl
@[simp] theorem State.dropReq_tape (s : State) (i : Nat) : (s.dropReq i).tape = s.tape := rfl
@[simp] theorem State.dropReq_evt (s : State) (i : Nat) : (s.dropReq i).evt = s.evt := rfl
@[simp] theorem State.dropReq_cur (s : State) (i : Nat) : (s.dropReq i).cur = s.cur := rfl
@[simp] theorem State.dropReq_nextId (s : State) (i : Nat) : (s.dropReq i).nextId = s.nextId := rfl
@[simp] theorem State.dropReq_runCounter (s : State) (i : Nat) : (s.dropReq i).runCounter = s.runCounter := rfl
@[simp] theorem State.dropReq_waves (s : State) (i : Nat) : (s.dropReq i).waves = s.waves := rfl
@[simp] theorem State.dropReq_runs (s : State) (i : Nat) : (s.dropReq i).runs = s.runs := rfl
@[simp] theorem State.dropReq_launches (s : State) (i : Nat) : (s.dropReq i).launches = s.launches := rfl
@[simp] theorem State.dropReq_slots (s : State) (i : Nat) : (s.dropReq i).slots = s.slots := rfl
@[simp] theorem State.dropReq_mem (s : State) (i : Nat) : (s.dropReq i).mem = s.mem := rfl
@[simp] theorem State.dropReq_ways (s : State) (i : Nat) : (s.dropReq i).ways = s.ways := rfl
@[simp] theorem State.dropReq_poisoned (s : State) (i : Nat) : (s.dropReq i).poisoned = s.poisoned := rfl
@[simp] theorem State.dropReq_code (s : State) (i : Nat) : (s.dropReq i).code = s.code := rfl
@[simp] theorem State.dropReq_codeKeys (s : State) (i : Nat) : (s.dropReq i).codeKeys = s.codeKeys := rfl
@[simp] theorem State.dropReq_imem (s : State) (i : Nat) : (s.dropReq i).imem = s.imem := rfl
@[simp] theorem State.dropReq_l1 (s : State) (i : Nat) : (s.dropReq i).l1 = s.l1 := rfl
@[simp] theorem State.dropReq_tlb (s : State) (i : Nat) : (s.dropReq i).tlb = s.tlb := rfl
@[simp] theorem State.dropReq_shorts (s : State) (i : Nat) : (s.dropReq i).shorts = s.shorts := rfl
@[simp] theorem State.dropReq_marks (s : State) (i : Nat) : (s.dropReq i).marks = s.marks := rfl
@[simp] theorem State.dropReq_keystones (s : State) (i : Nat) : (s.dropReq i).keystones = s.keystones := rfl
@[simp] theorem State.dropReq_reductions (s : State) (i : Nat) : (s.dropReq i).reductions = s.reductions := rfl
@[simp] theorem State.dropReq_seqs (s : State) (i : Nat) : (s.dropReq i).seqs = s.seqs := rfl
@[simp] theorem State.dropReq_ashlars (s : State) (i : Nat) : (s.dropReq i).ashlars = s.ashlars := rfl
@[simp] theorem State.dropReq_courses (s : State) (i : Nat) : (s.dropReq i).courses = s.courses := rfl
@[simp] theorem State.dropReq_dies (s : State) (i : Nat) : (s.dropReq i).dies = s.dies := rfl
@[simp] theorem State.dropReq_link (s : State) (i : Nat) : (s.dropReq i).link = s.link := rfl
@[simp] theorem State.dropReq_host (s : State) (i : Nat) : (s.dropReq i).host = s.host := rfl
@[simp] theorem State.dropReq_plumb (s : State) (i : Nat) : (s.dropReq i).plumb = s.plumb := rfl
@[simp] theorem State.dropReq_window (s : State) (i : Nat) : (s.dropReq i).window = s.window := rfl
@[simp] theorem State.dropReq_free (s : State) (i : Nat) : (s.dropReq i).free = s.free := rfl

/-! ### modKey -/

@[simp] theorem State.modKey_now (s : State) (r : Nat) (k : DWord) (f : Keystone → Keystone) : (s.modKey r k f).now = s.now := rfl
@[simp] theorem State.modKey_tape (s : State) (r : Nat) (k : DWord) (f : Keystone → Keystone) : (s.modKey r k f).tape = s.tape := rfl
@[simp] theorem State.modKey_evt (s : State) (r : Nat) (k : DWord) (f : Keystone → Keystone) : (s.modKey r k f).evt = s.evt := rfl
@[simp] theorem State.modKey_cur (s : State) (r : Nat) (k : DWord) (f : Keystone → Keystone) : (s.modKey r k f).cur = s.cur := rfl
@[simp] theorem State.modKey_nextId (s : State) (r : Nat) (k : DWord) (f : Keystone → Keystone) : (s.modKey r k f).nextId = s.nextId := rfl
@[simp] theorem State.modKey_runCounter (s : State) (r : Nat) (k : DWord) (f : Keystone → Keystone) : (s.modKey r k f).runCounter = s.runCounter := rfl
@[simp] theorem State.modKey_waves (s : State) (r : Nat) (k : DWord) (f : Keystone → Keystone) : (s.modKey r k f).waves = s.waves := rfl
@[simp] theorem State.modKey_reqs (s : State) (r : Nat) (k : DWord) (f : Keystone → Keystone) : (s.modKey r k f).reqs = s.reqs := rfl
@[simp] theorem State.modKey_runs (s : State) (r : Nat) (k : DWord) (f : Keystone → Keystone) : (s.modKey r k f).runs = s.runs := rfl
@[simp] theorem State.modKey_launches (s : State) (r : Nat) (k : DWord) (f : Keystone → Keystone) : (s.modKey r k f).launches = s.launches := rfl
@[simp] theorem State.modKey_slots (s : State) (r : Nat) (k : DWord) (f : Keystone → Keystone) : (s.modKey r k f).slots = s.slots := rfl
@[simp] theorem State.modKey_mem (s : State) (r : Nat) (k : DWord) (f : Keystone → Keystone) : (s.modKey r k f).mem = s.mem := rfl
@[simp] theorem State.modKey_ways (s : State) (r : Nat) (k : DWord) (f : Keystone → Keystone) : (s.modKey r k f).ways = s.ways := rfl
@[simp] theorem State.modKey_poisoned (s : State) (r : Nat) (k : DWord) (f : Keystone → Keystone) : (s.modKey r k f).poisoned = s.poisoned := rfl
@[simp] theorem State.modKey_code (s : State) (r : Nat) (k : DWord) (f : Keystone → Keystone) : (s.modKey r k f).code = s.code := rfl
@[simp] theorem State.modKey_codeKeys (s : State) (r : Nat) (k : DWord) (f : Keystone → Keystone) : (s.modKey r k f).codeKeys = s.codeKeys := rfl
@[simp] theorem State.modKey_imem (s : State) (r : Nat) (k : DWord) (f : Keystone → Keystone) : (s.modKey r k f).imem = s.imem := rfl
@[simp] theorem State.modKey_l1 (s : State) (r : Nat) (k : DWord) (f : Keystone → Keystone) : (s.modKey r k f).l1 = s.l1 := rfl
@[simp] theorem State.modKey_tlb (s : State) (r : Nat) (k : DWord) (f : Keystone → Keystone) : (s.modKey r k f).tlb = s.tlb := rfl
@[simp] theorem State.modKey_shorts (s : State) (r : Nat) (k : DWord) (f : Keystone → Keystone) : (s.modKey r k f).shorts = s.shorts := rfl
@[simp] theorem State.modKey_marks (s : State) (r : Nat) (k : DWord) (f : Keystone → Keystone) : (s.modKey r k f).marks = s.marks := rfl
@[simp] theorem State.modKey_reductions (s : State) (r : Nat) (k : DWord) (f : Keystone → Keystone) : (s.modKey r k f).reductions = s.reductions := rfl
@[simp] theorem State.modKey_seqs (s : State) (r : Nat) (k : DWord) (f : Keystone → Keystone) : (s.modKey r k f).seqs = s.seqs := rfl
@[simp] theorem State.modKey_ashlars (s : State) (r : Nat) (k : DWord) (f : Keystone → Keystone) : (s.modKey r k f).ashlars = s.ashlars := rfl
@[simp] theorem State.modKey_courses (s : State) (r : Nat) (k : DWord) (f : Keystone → Keystone) : (s.modKey r k f).courses = s.courses := rfl
@[simp] theorem State.modKey_dies (s : State) (r : Nat) (k : DWord) (f : Keystone → Keystone) : (s.modKey r k f).dies = s.dies := rfl
@[simp] theorem State.modKey_link (s : State) (r : Nat) (k : DWord) (f : Keystone → Keystone) : (s.modKey r k f).link = s.link := rfl
@[simp] theorem State.modKey_host (s : State) (r : Nat) (k : DWord) (f : Keystone → Keystone) : (s.modKey r k f).host = s.host := rfl
@[simp] theorem State.modKey_plumb (s : State) (r : Nat) (k : DWord) (f : Keystone → Keystone) : (s.modKey r k f).plumb = s.plumb := rfl
@[simp] theorem State.modKey_window (s : State) (r : Nat) (k : DWord) (f : Keystone → Keystone) : (s.modKey r k f).window = s.window := rfl
@[simp] theorem State.modKey_free (s : State) (r : Nat) (k : DWord) (f : Keystone → Keystone) : (s.modKey r k f).free = s.free := rfl

/-! ### setL1 -/

@[simp] theorem State.setL1_now (s : State) (l : L1Line) : (s.setL1 l).now = s.now := rfl
@[simp] theorem State.setL1_tape (s : State) (l : L1Line) : (s.setL1 l).tape = s.tape := rfl
@[simp] theorem State.setL1_evt (s : State) (l : L1Line) : (s.setL1 l).evt = s.evt := rfl
@[simp] theorem State.setL1_cur (s : State) (l : L1Line) : (s.setL1 l).cur = s.cur := rfl
@[simp] theorem State.setL1_nextId (s : State) (l : L1Line) : (s.setL1 l).nextId = s.nextId := rfl
@[simp] theorem State.setL1_runCounter (s : State) (l : L1Line) : (s.setL1 l).runCounter = s.runCounter := rfl
@[simp] theorem State.setL1_waves (s : State) (l : L1Line) : (s.setL1 l).waves = s.waves := rfl
@[simp] theorem State.setL1_reqs (s : State) (l : L1Line) : (s.setL1 l).reqs = s.reqs := rfl
@[simp] theorem State.setL1_runs (s : State) (l : L1Line) : (s.setL1 l).runs = s.runs := rfl
@[simp] theorem State.setL1_launches (s : State) (l : L1Line) : (s.setL1 l).launches = s.launches := rfl
@[simp] theorem State.setL1_slots (s : State) (l : L1Line) : (s.setL1 l).slots = s.slots := rfl
@[simp] theorem State.setL1_mem (s : State) (l : L1Line) : (s.setL1 l).mem = s.mem := rfl
@[simp] theorem State.setL1_ways (s : State) (l : L1Line) : (s.setL1 l).ways = s.ways := rfl
@[simp] theorem State.setL1_poisoned (s : State) (l : L1Line) : (s.setL1 l).poisoned = s.poisoned := rfl
@[simp] theorem State.setL1_code (s : State) (l : L1Line) : (s.setL1 l).code = s.code := rfl
@[simp] theorem State.setL1_codeKeys (s : State) (l : L1Line) : (s.setL1 l).codeKeys = s.codeKeys := rfl
@[simp] theorem State.setL1_imem (s : State) (l : L1Line) : (s.setL1 l).imem = s.imem := rfl
@[simp] theorem State.setL1_tlb (s : State) (l : L1Line) : (s.setL1 l).tlb = s.tlb := rfl
@[simp] theorem State.setL1_shorts (s : State) (l : L1Line) : (s.setL1 l).shorts = s.shorts := rfl
@[simp] theorem State.setL1_marks (s : State) (l : L1Line) : (s.setL1 l).marks = s.marks := rfl
@[simp] theorem State.setL1_keystones (s : State) (l : L1Line) : (s.setL1 l).keystones = s.keystones := rfl
@[simp] theorem State.setL1_reductions (s : State) (l : L1Line) : (s.setL1 l).reductions = s.reductions := rfl
@[simp] theorem State.setL1_seqs (s : State) (l : L1Line) : (s.setL1 l).seqs = s.seqs := rfl
@[simp] theorem State.setL1_ashlars (s : State) (l : L1Line) : (s.setL1 l).ashlars = s.ashlars := rfl
@[simp] theorem State.setL1_courses (s : State) (l : L1Line) : (s.setL1 l).courses = s.courses := rfl
@[simp] theorem State.setL1_dies (s : State) (l : L1Line) : (s.setL1 l).dies = s.dies := rfl
@[simp] theorem State.setL1_link (s : State) (l : L1Line) : (s.setL1 l).link = s.link := rfl
@[simp] theorem State.setL1_host (s : State) (l : L1Line) : (s.setL1 l).host = s.host := rfl
@[simp] theorem State.setL1_plumb (s : State) (l : L1Line) : (s.setL1 l).plumb = s.plumb := rfl
@[simp] theorem State.setL1_window (s : State) (l : L1Line) : (s.setL1 l).window = s.window := rfl
@[simp] theorem State.setL1_free (s : State) (l : L1Line) : (s.setL1 l).free = s.free := rfl

/-! ### msi -/

@[simp] theorem State.msi_now (s : State) (v : Nat) : (s.msi v).now = s.now := rfl
@[simp] theorem State.msi_tape (s : State) (v : Nat) : (s.msi v).tape = s.tape := rfl
@[simp] theorem State.msi_evt (s : State) (v : Nat) : (s.msi v).evt = s.evt := rfl
@[simp] theorem State.msi_cur (s : State) (v : Nat) : (s.msi v).cur = s.cur := rfl
@[simp] theorem State.msi_nextId (s : State) (v : Nat) : (s.msi v).nextId = s.nextId := rfl
@[simp] theorem State.msi_runCounter (s : State) (v : Nat) : (s.msi v).runCounter = s.runCounter := rfl
@[simp] theorem State.msi_waves (s : State) (v : Nat) : (s.msi v).waves = s.waves := rfl
@[simp] theorem State.msi_reqs (s : State) (v : Nat) : (s.msi v).reqs = s.reqs := rfl
@[simp] theorem State.msi_runs (s : State) (v : Nat) : (s.msi v).runs = s.runs := rfl
@[simp] theorem State.msi_launches (s : State) (v : Nat) : (s.msi v).launches = s.launches := rfl
@[simp] theorem State.msi_slots (s : State) (v : Nat) : (s.msi v).slots = s.slots := rfl
@[simp] theorem State.msi_mem (s : State) (v : Nat) : (s.msi v).mem = s.mem := rfl
@[simp] theorem State.msi_ways (s : State) (v : Nat) : (s.msi v).ways = s.ways := rfl
@[simp] theorem State.msi_poisoned (s : State) (v : Nat) : (s.msi v).poisoned = s.poisoned := rfl
@[simp] theorem State.msi_code (s : State) (v : Nat) : (s.msi v).code = s.code := rfl
@[simp] theorem State.msi_codeKeys (s : State) (v : Nat) : (s.msi v).codeKeys = s.codeKeys := rfl
@[simp] theorem State.msi_imem (s : State) (v : Nat) : (s.msi v).imem = s.imem := rfl
@[simp] theorem State.msi_l1 (s : State) (v : Nat) : (s.msi v).l1 = s.l1 := rfl
@[simp] theorem State.msi_tlb (s : State) (v : Nat) : (s.msi v).tlb = s.tlb := rfl
@[simp] theorem State.msi_shorts (s : State) (v : Nat) : (s.msi v).shorts = s.shorts := rfl
@[simp] theorem State.msi_marks (s : State) (v : Nat) : (s.msi v).marks = s.marks := rfl
@[simp] theorem State.msi_keystones (s : State) (v : Nat) : (s.msi v).keystones = s.keystones := rfl
@[simp] theorem State.msi_reductions (s : State) (v : Nat) : (s.msi v).reductions = s.reductions := rfl
@[simp] theorem State.msi_seqs (s : State) (v : Nat) : (s.msi v).seqs = s.seqs := rfl
@[simp] theorem State.msi_ashlars (s : State) (v : Nat) : (s.msi v).ashlars = s.ashlars := rfl
@[simp] theorem State.msi_courses (s : State) (v : Nat) : (s.msi v).courses = s.courses := rfl
@[simp] theorem State.msi_dies (s : State) (v : Nat) : (s.msi v).dies = s.dies := rfl
@[simp] theorem State.msi_link (s : State) (v : Nat) : (s.msi v).link = s.link := rfl
@[simp] theorem State.msi_plumb (s : State) (v : Nat) : (s.msi v).plumb = s.plumb := rfl
@[simp] theorem State.msi_window (s : State) (v : Nat) : (s.msi v).window = s.window := rfl
@[simp] theorem State.msi_free (s : State) (v : Nat) : (s.msi v).free = s.free := rfl

/-! ### modPlumb -/

@[simp] theorem State.modPlumb_now (s : State) (f : Plumb → Plumb) : (s.modPlumb f).now = s.now := rfl
@[simp] theorem State.modPlumb_tape (s : State) (f : Plumb → Plumb) : (s.modPlumb f).tape = s.tape := rfl
@[simp] theorem State.modPlumb_evt (s : State) (f : Plumb → Plumb) : (s.modPlumb f).evt = s.evt := rfl
@[simp] theorem State.modPlumb_cur (s : State) (f : Plumb → Plumb) : (s.modPlumb f).cur = s.cur := rfl
@[simp] theorem State.modPlumb_nextId (s : State) (f : Plumb → Plumb) : (s.modPlumb f).nextId = s.nextId := rfl
@[simp] theorem State.modPlumb_runCounter (s : State) (f : Plumb → Plumb) : (s.modPlumb f).runCounter = s.runCounter := rfl
@[simp] theorem State.modPlumb_waves (s : State) (f : Plumb → Plumb) : (s.modPlumb f).waves = s.waves := rfl
@[simp] theorem State.modPlumb_reqs (s : State) (f : Plumb → Plumb) : (s.modPlumb f).reqs = s.reqs := rfl
@[simp] theorem State.modPlumb_runs (s : State) (f : Plumb → Plumb) : (s.modPlumb f).runs = s.runs := rfl
@[simp] theorem State.modPlumb_launches (s : State) (f : Plumb → Plumb) : (s.modPlumb f).launches = s.launches := rfl
@[simp] theorem State.modPlumb_slots (s : State) (f : Plumb → Plumb) : (s.modPlumb f).slots = s.slots := rfl
@[simp] theorem State.modPlumb_mem (s : State) (f : Plumb → Plumb) : (s.modPlumb f).mem = s.mem := rfl
@[simp] theorem State.modPlumb_ways (s : State) (f : Plumb → Plumb) : (s.modPlumb f).ways = s.ways := rfl
@[simp] theorem State.modPlumb_poisoned (s : State) (f : Plumb → Plumb) : (s.modPlumb f).poisoned = s.poisoned := rfl
@[simp] theorem State.modPlumb_code (s : State) (f : Plumb → Plumb) : (s.modPlumb f).code = s.code := rfl
@[simp] theorem State.modPlumb_codeKeys (s : State) (f : Plumb → Plumb) : (s.modPlumb f).codeKeys = s.codeKeys := rfl
@[simp] theorem State.modPlumb_imem (s : State) (f : Plumb → Plumb) : (s.modPlumb f).imem = s.imem := rfl
@[simp] theorem State.modPlumb_l1 (s : State) (f : Plumb → Plumb) : (s.modPlumb f).l1 = s.l1 := rfl
@[simp] theorem State.modPlumb_tlb (s : State) (f : Plumb → Plumb) : (s.modPlumb f).tlb = s.tlb := rfl
@[simp] theorem State.modPlumb_shorts (s : State) (f : Plumb → Plumb) : (s.modPlumb f).shorts = s.shorts := rfl
@[simp] theorem State.modPlumb_marks (s : State) (f : Plumb → Plumb) : (s.modPlumb f).marks = s.marks := rfl
@[simp] theorem State.modPlumb_keystones (s : State) (f : Plumb → Plumb) : (s.modPlumb f).keystones = s.keystones := rfl
@[simp] theorem State.modPlumb_reductions (s : State) (f : Plumb → Plumb) : (s.modPlumb f).reductions = s.reductions := rfl
@[simp] theorem State.modPlumb_seqs (s : State) (f : Plumb → Plumb) : (s.modPlumb f).seqs = s.seqs := rfl
@[simp] theorem State.modPlumb_ashlars (s : State) (f : Plumb → Plumb) : (s.modPlumb f).ashlars = s.ashlars := rfl
@[simp] theorem State.modPlumb_courses (s : State) (f : Plumb → Plumb) : (s.modPlumb f).courses = s.courses := rfl
@[simp] theorem State.modPlumb_dies (s : State) (f : Plumb → Plumb) : (s.modPlumb f).dies = s.dies := rfl
@[simp] theorem State.modPlumb_link (s : State) (f : Plumb → Plumb) : (s.modPlumb f).link = s.link := rfl
@[simp] theorem State.modPlumb_host (s : State) (f : Plumb → Plumb) : (s.modPlumb f).host = s.host := rfl
@[simp] theorem State.modPlumb_window (s : State) (f : Plumb → Plumb) : (s.modPlumb f).window = s.window := rfl
@[simp] theorem State.modPlumb_free (s : State) (f : Plumb → Plumb) : (s.modPlumb f).free = s.free := rfl

/-! ### modGroup -/

@[simp] theorem State.modGroup_now (s : State) (g : Nat) (f : Group → Group) : (s.modGroup g f).now = s.now := rfl
@[simp] theorem State.modGroup_tape (s : State) (g : Nat) (f : Group → Group) : (s.modGroup g f).tape = s.tape := rfl
@[simp] theorem State.modGroup_evt (s : State) (g : Nat) (f : Group → Group) : (s.modGroup g f).evt = s.evt := rfl
@[simp] theorem State.modGroup_cur (s : State) (g : Nat) (f : Group → Group) : (s.modGroup g f).cur = s.cur := rfl
@[simp] theorem State.modGroup_nextId (s : State) (g : Nat) (f : Group → Group) : (s.modGroup g f).nextId = s.nextId := rfl
@[simp] theorem State.modGroup_runCounter (s : State) (g : Nat) (f : Group → Group) : (s.modGroup g f).runCounter = s.runCounter := rfl
@[simp] theorem State.modGroup_waves (s : State) (g : Nat) (f : Group → Group) : (s.modGroup g f).waves = s.waves := rfl
@[simp] theorem State.modGroup_reqs (s : State) (g : Nat) (f : Group → Group) : (s.modGroup g f).reqs = s.reqs := rfl
@[simp] theorem State.modGroup_runs (s : State) (g : Nat) (f : Group → Group) : (s.modGroup g f).runs = s.runs := rfl
@[simp] theorem State.modGroup_launches (s : State) (g : Nat) (f : Group → Group) : (s.modGroup g f).launches = s.launches := rfl
@[simp] theorem State.modGroup_slots (s : State) (g : Nat) (f : Group → Group) : (s.modGroup g f).slots = s.slots := rfl
@[simp] theorem State.modGroup_mem (s : State) (g : Nat) (f : Group → Group) : (s.modGroup g f).mem = s.mem := rfl
@[simp] theorem State.modGroup_ways (s : State) (g : Nat) (f : Group → Group) : (s.modGroup g f).ways = s.ways := rfl
@[simp] theorem State.modGroup_poisoned (s : State) (g : Nat) (f : Group → Group) : (s.modGroup g f).poisoned = s.poisoned := rfl
@[simp] theorem State.modGroup_code (s : State) (g : Nat) (f : Group → Group) : (s.modGroup g f).code = s.code := rfl
@[simp] theorem State.modGroup_codeKeys (s : State) (g : Nat) (f : Group → Group) : (s.modGroup g f).codeKeys = s.codeKeys := rfl
@[simp] theorem State.modGroup_imem (s : State) (g : Nat) (f : Group → Group) : (s.modGroup g f).imem = s.imem := rfl
@[simp] theorem State.modGroup_l1 (s : State) (g : Nat) (f : Group → Group) : (s.modGroup g f).l1 = s.l1 := rfl
@[simp] theorem State.modGroup_tlb (s : State) (g : Nat) (f : Group → Group) : (s.modGroup g f).tlb = s.tlb := rfl
@[simp] theorem State.modGroup_shorts (s : State) (g : Nat) (f : Group → Group) : (s.modGroup g f).shorts = s.shorts := rfl
@[simp] theorem State.modGroup_marks (s : State) (g : Nat) (f : Group → Group) : (s.modGroup g f).marks = s.marks := rfl
@[simp] theorem State.modGroup_keystones (s : State) (g : Nat) (f : Group → Group) : (s.modGroup g f).keystones = s.keystones := rfl
@[simp] theorem State.modGroup_reductions (s : State) (g : Nat) (f : Group → Group) : (s.modGroup g f).reductions = s.reductions := rfl
@[simp] theorem State.modGroup_seqs (s : State) (g : Nat) (f : Group → Group) : (s.modGroup g f).seqs = s.seqs := rfl
@[simp] theorem State.modGroup_ashlars (s : State) (g : Nat) (f : Group → Group) : (s.modGroup g f).ashlars = s.ashlars := rfl
@[simp] theorem State.modGroup_courses (s : State) (g : Nat) (f : Group → Group) : (s.modGroup g f).courses = s.courses := rfl
@[simp] theorem State.modGroup_dies (s : State) (g : Nat) (f : Group → Group) : (s.modGroup g f).dies = s.dies := rfl
@[simp] theorem State.modGroup_host (s : State) (g : Nat) (f : Group → Group) : (s.modGroup g f).host = s.host := rfl
@[simp] theorem State.modGroup_plumb (s : State) (g : Nat) (f : Group → Group) : (s.modGroup g f).plumb = s.plumb := rfl
@[simp] theorem State.modGroup_window (s : State) (g : Nat) (f : Group → Group) : (s.modGroup g f).window = s.window := rfl
@[simp] theorem State.modGroup_free (s : State) (g : Nat) (f : Group → Group) : (s.modGroup g f).free = s.free := rfl

/-! ### cornerAdd -/

@[simp] theorem State.cornerAdd_now (s : State) (d e c v : Nat) : (s.cornerAdd d e c v).now = s.now := rfl
@[simp] theorem State.cornerAdd_tape (s : State) (d e c v : Nat) : (s.cornerAdd d e c v).tape = s.tape := rfl
@[simp] theorem State.cornerAdd_evt (s : State) (d e c v : Nat) : (s.cornerAdd d e c v).evt = s.evt := rfl
@[simp] theorem State.cornerAdd_cur (s : State) (d e c v : Nat) : (s.cornerAdd d e c v).cur = s.cur := rfl
@[simp] theorem State.cornerAdd_nextId (s : State) (d e c v : Nat) : (s.cornerAdd d e c v).nextId = s.nextId := rfl
@[simp] theorem State.cornerAdd_runCounter (s : State) (d e c v : Nat) : (s.cornerAdd d e c v).runCounter = s.runCounter := rfl
@[simp] theorem State.cornerAdd_waves (s : State) (d e c v : Nat) : (s.cornerAdd d e c v).waves = s.waves := rfl
@[simp] theorem State.cornerAdd_reqs (s : State) (d e c v : Nat) : (s.cornerAdd d e c v).reqs = s.reqs := rfl
@[simp] theorem State.cornerAdd_runs (s : State) (d e c v : Nat) : (s.cornerAdd d e c v).runs = s.runs := rfl
@[simp] theorem State.cornerAdd_launches (s : State) (d e c v : Nat) : (s.cornerAdd d e c v).launches = s.launches := rfl
@[simp] theorem State.cornerAdd_slots (s : State) (d e c v : Nat) : (s.cornerAdd d e c v).slots = s.slots := rfl
@[simp] theorem State.cornerAdd_mem (s : State) (d e c v : Nat) : (s.cornerAdd d e c v).mem = s.mem := rfl
@[simp] theorem State.cornerAdd_ways (s : State) (d e c v : Nat) : (s.cornerAdd d e c v).ways = s.ways := rfl
@[simp] theorem State.cornerAdd_poisoned (s : State) (d e c v : Nat) : (s.cornerAdd d e c v).poisoned = s.poisoned := rfl
@[simp] theorem State.cornerAdd_code (s : State) (d e c v : Nat) : (s.cornerAdd d e c v).code = s.code := rfl
@[simp] theorem State.cornerAdd_codeKeys (s : State) (d e c v : Nat) : (s.cornerAdd d e c v).codeKeys = s.codeKeys := rfl
@[simp] theorem State.cornerAdd_imem (s : State) (d e c v : Nat) : (s.cornerAdd d e c v).imem = s.imem := rfl
@[simp] theorem State.cornerAdd_l1 (s : State) (d e c v : Nat) : (s.cornerAdd d e c v).l1 = s.l1 := rfl
@[simp] theorem State.cornerAdd_tlb (s : State) (d e c v : Nat) : (s.cornerAdd d e c v).tlb = s.tlb := rfl
@[simp] theorem State.cornerAdd_shorts (s : State) (d e c v : Nat) : (s.cornerAdd d e c v).shorts = s.shorts := rfl
@[simp] theorem State.cornerAdd_marks (s : State) (d e c v : Nat) : (s.cornerAdd d e c v).marks = s.marks := rfl
@[simp] theorem State.cornerAdd_keystones (s : State) (d e c v : Nat) : (s.cornerAdd d e c v).keystones = s.keystones := rfl
@[simp] theorem State.cornerAdd_reductions (s : State) (d e c v : Nat) : (s.cornerAdd d e c v).reductions = s.reductions := rfl
@[simp] theorem State.cornerAdd_seqs (s : State) (d e c v : Nat) : (s.cornerAdd d e c v).seqs = s.seqs := rfl
@[simp] theorem State.cornerAdd_ashlars (s : State) (d e c v : Nat) : (s.cornerAdd d e c v).ashlars = s.ashlars := rfl
@[simp] theorem State.cornerAdd_courses (s : State) (d e c v : Nat) : (s.cornerAdd d e c v).courses = s.courses := rfl
@[simp] theorem State.cornerAdd_link (s : State) (d e c v : Nat) : (s.cornerAdd d e c v).link = s.link := rfl
@[simp] theorem State.cornerAdd_host (s : State) (d e c v : Nat) : (s.cornerAdd d e c v).host = s.host := rfl
@[simp] theorem State.cornerAdd_plumb (s : State) (d e c v : Nat) : (s.cornerAdd d e c v).plumb = s.plumb := rfl
@[simp] theorem State.cornerAdd_window (s : State) (d e c v : Nat) : (s.cornerAdd d e c v).window = s.window := rfl
@[simp] theorem State.cornerAdd_free (s : State) (d e c v : Nat) : (s.cornerAdd d e c v).free = s.free := rfl

/-! ### postDrop -/

@[simp] theorem State.postDrop_now (s : State) (n : Nat) : (s.postDrop n).now = s.now := rfl
@[simp] theorem State.postDrop_tape (s : State) (n : Nat) : (s.postDrop n).tape = s.tape := rfl
@[simp] theorem State.postDrop_evt (s : State) (n : Nat) : (s.postDrop n).evt = s.evt := rfl
@[simp] theorem State.postDrop_cur (s : State) (n : Nat) : (s.postDrop n).cur = s.cur := rfl
@[simp] theorem State.postDrop_nextId (s : State) (n : Nat) : (s.postDrop n).nextId = s.nextId := rfl
@[simp] theorem State.postDrop_runCounter (s : State) (n : Nat) : (s.postDrop n).runCounter = s.runCounter := rfl
@[simp] theorem State.postDrop_waves (s : State) (n : Nat) : (s.postDrop n).waves = s.waves := rfl
@[simp] theorem State.postDrop_reqs (s : State) (n : Nat) : (s.postDrop n).reqs = s.reqs := rfl
@[simp] theorem State.postDrop_runs (s : State) (n : Nat) : (s.postDrop n).runs = s.runs := rfl
@[simp] theorem State.postDrop_launches (s : State) (n : Nat) : (s.postDrop n).launches = s.launches := rfl
@[simp] theorem State.postDrop_mem (s : State) (n : Nat) : (s.postDrop n).mem = s.mem := rfl
@[simp] theorem State.postDrop_ways (s : State) (n : Nat) : (s.postDrop n).ways = s.ways := rfl
@[simp] theorem State.postDrop_poisoned (s : State) (n : Nat) : (s.postDrop n).poisoned = s.poisoned := rfl
@[simp] theorem State.postDrop_code (s : State) (n : Nat) : (s.postDrop n).code = s.code := rfl
@[simp] theorem State.postDrop_codeKeys (s : State) (n : Nat) : (s.postDrop n).codeKeys = s.codeKeys := rfl
@[simp] theorem State.postDrop_imem (s : State) (n : Nat) : (s.postDrop n).imem = s.imem := rfl
@[simp] theorem State.postDrop_l1 (s : State) (n : Nat) : (s.postDrop n).l1 = s.l1 := rfl
@[simp] theorem State.postDrop_tlb (s : State) (n : Nat) : (s.postDrop n).tlb = s.tlb := rfl
@[simp] theorem State.postDrop_shorts (s : State) (n : Nat) : (s.postDrop n).shorts = s.shorts := rfl
@[simp] theorem State.postDrop_marks (s : State) (n : Nat) : (s.postDrop n).marks = s.marks := rfl
@[simp] theorem State.postDrop_keystones (s : State) (n : Nat) : (s.postDrop n).keystones = s.keystones := rfl
@[simp] theorem State.postDrop_reductions (s : State) (n : Nat) : (s.postDrop n).reductions = s.reductions := rfl
@[simp] theorem State.postDrop_seqs (s : State) (n : Nat) : (s.postDrop n).seqs = s.seqs := rfl
@[simp] theorem State.postDrop_ashlars (s : State) (n : Nat) : (s.postDrop n).ashlars = s.ashlars := rfl
@[simp] theorem State.postDrop_courses (s : State) (n : Nat) : (s.postDrop n).courses = s.courses := rfl
@[simp] theorem State.postDrop_dies (s : State) (n : Nat) : (s.postDrop n).dies = s.dies := rfl
@[simp] theorem State.postDrop_link (s : State) (n : Nat) : (s.postDrop n).link = s.link := rfl
@[simp] theorem State.postDrop_host (s : State) (n : Nat) : (s.postDrop n).host = s.host := rfl
@[simp] theorem State.postDrop_plumb (s : State) (n : Nat) : (s.postDrop n).plumb = s.plumb := rfl
@[simp] theorem State.postDrop_window (s : State) (n : Nat) : (s.postDrop n).window = s.window := rfl
@[simp] theorem State.postDrop_free (s : State) (n : Nat) : (s.postDrop n).free = s.free := rfl

/-! ### modSlice -/

@[simp] theorem State.modSlice_now (s : State) (d n : Nat) (f : Slice → Slice) : (s.modSlice d n f).now = s.now := rfl
@[simp] theorem State.modSlice_tape (s : State) (d n : Nat) (f : Slice → Slice) : (s.modSlice d n f).tape = s.tape := rfl
@[simp] theorem State.modSlice_evt (s : State) (d n : Nat) (f : Slice → Slice) : (s.modSlice d n f).evt = s.evt := rfl
@[simp] theorem State.modSlice_cur (s : State) (d n : Nat) (f : Slice → Slice) : (s.modSlice d n f).cur = s.cur := rfl
@[simp] theorem State.modSlice_nextId (s : State) (d n : Nat) (f : Slice → Slice) : (s.modSlice d n f).nextId = s.nextId := rfl
@[simp] theorem State.modSlice_runCounter (s : State) (d n : Nat) (f : Slice → Slice) : (s.modSlice d n f).runCounter = s.runCounter := rfl
@[simp] theorem State.modSlice_waves (s : State) (d n : Nat) (f : Slice → Slice) : (s.modSlice d n f).waves = s.waves := rfl
@[simp] theorem State.modSlice_reqs (s : State) (d n : Nat) (f : Slice → Slice) : (s.modSlice d n f).reqs = s.reqs := rfl
@[simp] theorem State.modSlice_runs (s : State) (d n : Nat) (f : Slice → Slice) : (s.modSlice d n f).runs = s.runs := rfl
@[simp] theorem State.modSlice_launches (s : State) (d n : Nat) (f : Slice → Slice) : (s.modSlice d n f).launches = s.launches := rfl
@[simp] theorem State.modSlice_slots (s : State) (d n : Nat) (f : Slice → Slice) : (s.modSlice d n f).slots = s.slots := rfl
@[simp] theorem State.modSlice_mem (s : State) (d n : Nat) (f : Slice → Slice) : (s.modSlice d n f).mem = s.mem := rfl
@[simp] theorem State.modSlice_ways (s : State) (d n : Nat) (f : Slice → Slice) : (s.modSlice d n f).ways = s.ways := rfl
@[simp] theorem State.modSlice_poisoned (s : State) (d n : Nat) (f : Slice → Slice) : (s.modSlice d n f).poisoned = s.poisoned := rfl
@[simp] theorem State.modSlice_code (s : State) (d n : Nat) (f : Slice → Slice) : (s.modSlice d n f).code = s.code := rfl
@[simp] theorem State.modSlice_codeKeys (s : State) (d n : Nat) (f : Slice → Slice) : (s.modSlice d n f).codeKeys = s.codeKeys := rfl
@[simp] theorem State.modSlice_imem (s : State) (d n : Nat) (f : Slice → Slice) : (s.modSlice d n f).imem = s.imem := rfl
@[simp] theorem State.modSlice_l1 (s : State) (d n : Nat) (f : Slice → Slice) : (s.modSlice d n f).l1 = s.l1 := rfl
@[simp] theorem State.modSlice_tlb (s : State) (d n : Nat) (f : Slice → Slice) : (s.modSlice d n f).tlb = s.tlb := rfl
@[simp] theorem State.modSlice_shorts (s : State) (d n : Nat) (f : Slice → Slice) : (s.modSlice d n f).shorts = s.shorts := rfl
@[simp] theorem State.modSlice_marks (s : State) (d n : Nat) (f : Slice → Slice) : (s.modSlice d n f).marks = s.marks := rfl
@[simp] theorem State.modSlice_keystones (s : State) (d n : Nat) (f : Slice → Slice) : (s.modSlice d n f).keystones = s.keystones := rfl
@[simp] theorem State.modSlice_reductions (s : State) (d n : Nat) (f : Slice → Slice) : (s.modSlice d n f).reductions = s.reductions := rfl
@[simp] theorem State.modSlice_seqs (s : State) (d n : Nat) (f : Slice → Slice) : (s.modSlice d n f).seqs = s.seqs := rfl
@[simp] theorem State.modSlice_ashlars (s : State) (d n : Nat) (f : Slice → Slice) : (s.modSlice d n f).ashlars = s.ashlars := rfl
@[simp] theorem State.modSlice_courses (s : State) (d n : Nat) (f : Slice → Slice) : (s.modSlice d n f).courses = s.courses := rfl
@[simp] theorem State.modSlice_link (s : State) (d n : Nat) (f : Slice → Slice) : (s.modSlice d n f).link = s.link := rfl
@[simp] theorem State.modSlice_host (s : State) (d n : Nat) (f : Slice → Slice) : (s.modSlice d n f).host = s.host := rfl
@[simp] theorem State.modSlice_plumb (s : State) (d n : Nat) (f : Slice → Slice) : (s.modSlice d n f).plumb = s.plumb := rfl
@[simp] theorem State.modSlice_window (s : State) (d n : Nat) (f : Slice → Slice) : (s.modSlice d n f).window = s.window := rfl
@[simp] theorem State.modSlice_free (s : State) (d n : Nat) (f : Slice → Slice) : (s.modSlice d n f).free = s.free := rfl

/-! ### modArray -/

@[simp] theorem State.modArray_now (s : State) (a : Nat) (f : MatArray → MatArray) : (s.modArray a f).now = s.now := rfl
@[simp] theorem State.modArray_tape (s : State) (a : Nat) (f : MatArray → MatArray) : (s.modArray a f).tape = s.tape := rfl
@[simp] theorem State.modArray_evt (s : State) (a : Nat) (f : MatArray → MatArray) : (s.modArray a f).evt = s.evt := rfl
@[simp] theorem State.modArray_cur (s : State) (a : Nat) (f : MatArray → MatArray) : (s.modArray a f).cur = s.cur := rfl
@[simp] theorem State.modArray_nextId (s : State) (a : Nat) (f : MatArray → MatArray) : (s.modArray a f).nextId = s.nextId := rfl
@[simp] theorem State.modArray_runCounter (s : State) (a : Nat) (f : MatArray → MatArray) : (s.modArray a f).runCounter = s.runCounter := rfl
@[simp] theorem State.modArray_waves (s : State) (a : Nat) (f : MatArray → MatArray) : (s.modArray a f).waves = s.waves := rfl
@[simp] theorem State.modArray_reqs (s : State) (a : Nat) (f : MatArray → MatArray) : (s.modArray a f).reqs = s.reqs := rfl
@[simp] theorem State.modArray_runs (s : State) (a : Nat) (f : MatArray → MatArray) : (s.modArray a f).runs = s.runs := rfl
@[simp] theorem State.modArray_launches (s : State) (a : Nat) (f : MatArray → MatArray) : (s.modArray a f).launches = s.launches := rfl
@[simp] theorem State.modArray_slots (s : State) (a : Nat) (f : MatArray → MatArray) : (s.modArray a f).slots = s.slots := rfl
@[simp] theorem State.modArray_mem (s : State) (a : Nat) (f : MatArray → MatArray) : (s.modArray a f).mem = s.mem := rfl
@[simp] theorem State.modArray_ways (s : State) (a : Nat) (f : MatArray → MatArray) : (s.modArray a f).ways = s.ways := rfl
@[simp] theorem State.modArray_poisoned (s : State) (a : Nat) (f : MatArray → MatArray) : (s.modArray a f).poisoned = s.poisoned := rfl
@[simp] theorem State.modArray_code (s : State) (a : Nat) (f : MatArray → MatArray) : (s.modArray a f).code = s.code := rfl
@[simp] theorem State.modArray_codeKeys (s : State) (a : Nat) (f : MatArray → MatArray) : (s.modArray a f).codeKeys = s.codeKeys := rfl
@[simp] theorem State.modArray_imem (s : State) (a : Nat) (f : MatArray → MatArray) : (s.modArray a f).imem = s.imem := rfl
@[simp] theorem State.modArray_l1 (s : State) (a : Nat) (f : MatArray → MatArray) : (s.modArray a f).l1 = s.l1 := rfl
@[simp] theorem State.modArray_tlb (s : State) (a : Nat) (f : MatArray → MatArray) : (s.modArray a f).tlb = s.tlb := rfl
@[simp] theorem State.modArray_shorts (s : State) (a : Nat) (f : MatArray → MatArray) : (s.modArray a f).shorts = s.shorts := rfl
@[simp] theorem State.modArray_marks (s : State) (a : Nat) (f : MatArray → MatArray) : (s.modArray a f).marks = s.marks := rfl
@[simp] theorem State.modArray_keystones (s : State) (a : Nat) (f : MatArray → MatArray) : (s.modArray a f).keystones = s.keystones := rfl
@[simp] theorem State.modArray_reductions (s : State) (a : Nat) (f : MatArray → MatArray) : (s.modArray a f).reductions = s.reductions := rfl
@[simp] theorem State.modArray_seqs (s : State) (a : Nat) (f : MatArray → MatArray) : (s.modArray a f).seqs = s.seqs := rfl
@[simp] theorem State.modArray_courses (s : State) (a : Nat) (f : MatArray → MatArray) : (s.modArray a f).courses = s.courses := rfl
@[simp] theorem State.modArray_dies (s : State) (a : Nat) (f : MatArray → MatArray) : (s.modArray a f).dies = s.dies := rfl
@[simp] theorem State.modArray_link (s : State) (a : Nat) (f : MatArray → MatArray) : (s.modArray a f).link = s.link := rfl
@[simp] theorem State.modArray_host (s : State) (a : Nat) (f : MatArray → MatArray) : (s.modArray a f).host = s.host := rfl
@[simp] theorem State.modArray_plumb (s : State) (a : Nat) (f : MatArray → MatArray) : (s.modArray a f).plumb = s.plumb := rfl
@[simp] theorem State.modArray_window (s : State) (a : Nat) (f : MatArray → MatArray) : (s.modArray a f).window = s.window := rfl
@[simp] theorem State.modArray_free (s : State) (a : Nat) (f : MatArray → MatArray) : (s.modArray a f).free = s.free := rfl

/-! ### noteWrite -/

@[simp] theorem State.noteWrite_now (s : State) (l : Nat) : (s.noteWrite l).now = s.now := rfl
@[simp] theorem State.noteWrite_tape (s : State) (l : Nat) : (s.noteWrite l).tape = s.tape := rfl
@[simp] theorem State.noteWrite_evt (s : State) (l : Nat) : (s.noteWrite l).evt = s.evt := rfl
@[simp] theorem State.noteWrite_cur (s : State) (l : Nat) : (s.noteWrite l).cur = s.cur := rfl
@[simp] theorem State.noteWrite_nextId (s : State) (l : Nat) : (s.noteWrite l).nextId = s.nextId := rfl
@[simp] theorem State.noteWrite_runCounter (s : State) (l : Nat) : (s.noteWrite l).runCounter = s.runCounter := rfl
@[simp] theorem State.noteWrite_waves (s : State) (l : Nat) : (s.noteWrite l).waves = s.waves := rfl
@[simp] theorem State.noteWrite_reqs (s : State) (l : Nat) : (s.noteWrite l).reqs = s.reqs := rfl
@[simp] theorem State.noteWrite_runs (s : State) (l : Nat) : (s.noteWrite l).runs = s.runs := rfl
@[simp] theorem State.noteWrite_launches (s : State) (l : Nat) : (s.noteWrite l).launches = s.launches := rfl
@[simp] theorem State.noteWrite_slots (s : State) (l : Nat) : (s.noteWrite l).slots = s.slots := rfl
@[simp] theorem State.noteWrite_mem (s : State) (l : Nat) : (s.noteWrite l).mem = s.mem := rfl
@[simp] theorem State.noteWrite_poisoned (s : State) (l : Nat) : (s.noteWrite l).poisoned = s.poisoned := rfl
@[simp] theorem State.noteWrite_code (s : State) (l : Nat) : (s.noteWrite l).code = s.code := rfl
@[simp] theorem State.noteWrite_codeKeys (s : State) (l : Nat) : (s.noteWrite l).codeKeys = s.codeKeys := rfl
@[simp] theorem State.noteWrite_imem (s : State) (l : Nat) : (s.noteWrite l).imem = s.imem := rfl
@[simp] theorem State.noteWrite_l1 (s : State) (l : Nat) : (s.noteWrite l).l1 = s.l1 := rfl
@[simp] theorem State.noteWrite_tlb (s : State) (l : Nat) : (s.noteWrite l).tlb = s.tlb := rfl
@[simp] theorem State.noteWrite_shorts (s : State) (l : Nat) : (s.noteWrite l).shorts = s.shorts := rfl
@[simp] theorem State.noteWrite_marks (s : State) (l : Nat) : (s.noteWrite l).marks = s.marks := rfl
@[simp] theorem State.noteWrite_keystones (s : State) (l : Nat) : (s.noteWrite l).keystones = s.keystones := rfl
@[simp] theorem State.noteWrite_reductions (s : State) (l : Nat) : (s.noteWrite l).reductions = s.reductions := rfl
@[simp] theorem State.noteWrite_seqs (s : State) (l : Nat) : (s.noteWrite l).seqs = s.seqs := rfl
@[simp] theorem State.noteWrite_ashlars (s : State) (l : Nat) : (s.noteWrite l).ashlars = s.ashlars := rfl
@[simp] theorem State.noteWrite_courses (s : State) (l : Nat) : (s.noteWrite l).courses = s.courses := rfl
@[simp] theorem State.noteWrite_dies (s : State) (l : Nat) : (s.noteWrite l).dies = s.dies := rfl
@[simp] theorem State.noteWrite_link (s : State) (l : Nat) : (s.noteWrite l).link = s.link := rfl
@[simp] theorem State.noteWrite_host (s : State) (l : Nat) : (s.noteWrite l).host = s.host := rfl
@[simp] theorem State.noteWrite_plumb (s : State) (l : Nat) : (s.noteWrite l).plumb = s.plumb := rfl
@[simp] theorem State.noteWrite_window (s : State) (l : Nat) : (s.noteWrite l).window = s.window := rfl
@[simp] theorem State.noteWrite_free (s : State) (l : Nat) : (s.noteWrite l).free = s.free := rfl

/-! ### keepCode -/

@[simp] theorem State.keepCode_now (s : State) (a n : Nat) : (s.keepCode a n).now = s.now := rfl
@[simp] theorem State.keepCode_tape (s : State) (a n : Nat) : (s.keepCode a n).tape = s.tape := rfl
@[simp] theorem State.keepCode_evt (s : State) (a n : Nat) : (s.keepCode a n).evt = s.evt := rfl
@[simp] theorem State.keepCode_cur (s : State) (a n : Nat) : (s.keepCode a n).cur = s.cur := rfl
@[simp] theorem State.keepCode_nextId (s : State) (a n : Nat) : (s.keepCode a n).nextId = s.nextId := rfl
@[simp] theorem State.keepCode_runCounter (s : State) (a n : Nat) : (s.keepCode a n).runCounter = s.runCounter := rfl
@[simp] theorem State.keepCode_waves (s : State) (a n : Nat) : (s.keepCode a n).waves = s.waves := rfl
@[simp] theorem State.keepCode_reqs (s : State) (a n : Nat) : (s.keepCode a n).reqs = s.reqs := rfl
@[simp] theorem State.keepCode_runs (s : State) (a n : Nat) : (s.keepCode a n).runs = s.runs := rfl
@[simp] theorem State.keepCode_launches (s : State) (a n : Nat) : (s.keepCode a n).launches = s.launches := rfl
@[simp] theorem State.keepCode_slots (s : State) (a n : Nat) : (s.keepCode a n).slots = s.slots := rfl
@[simp] theorem State.keepCode_mem (s : State) (a n : Nat) : (s.keepCode a n).mem = s.mem := rfl
@[simp] theorem State.keepCode_ways (s : State) (a n : Nat) : (s.keepCode a n).ways = s.ways := rfl
@[simp] theorem State.keepCode_poisoned (s : State) (a n : Nat) : (s.keepCode a n).poisoned = s.poisoned := rfl
@[simp] theorem State.keepCode_codeKeys (s : State) (a n : Nat) : (s.keepCode a n).codeKeys = s.codeKeys := rfl
@[simp] theorem State.keepCode_imem (s : State) (a n : Nat) : (s.keepCode a n).imem = s.imem := rfl
@[simp] theorem State.keepCode_l1 (s : State) (a n : Nat) : (s.keepCode a n).l1 = s.l1 := rfl
@[simp] theorem State.keepCode_tlb (s : State) (a n : Nat) : (s.keepCode a n).tlb = s.tlb := rfl
@[simp] theorem State.keepCode_shorts (s : State) (a n : Nat) : (s.keepCode a n).shorts = s.shorts := rfl
@[simp] theorem State.keepCode_marks (s : State) (a n : Nat) : (s.keepCode a n).marks = s.marks := rfl
@[simp] theorem State.keepCode_keystones (s : State) (a n : Nat) : (s.keepCode a n).keystones = s.keystones := rfl
@[simp] theorem State.keepCode_reductions (s : State) (a n : Nat) : (s.keepCode a n).reductions = s.reductions := rfl
@[simp] theorem State.keepCode_seqs (s : State) (a n : Nat) : (s.keepCode a n).seqs = s.seqs := rfl
@[simp] theorem State.keepCode_ashlars (s : State) (a n : Nat) : (s.keepCode a n).ashlars = s.ashlars := rfl
@[simp] theorem State.keepCode_courses (s : State) (a n : Nat) : (s.keepCode a n).courses = s.courses := rfl
@[simp] theorem State.keepCode_dies (s : State) (a n : Nat) : (s.keepCode a n).dies = s.dies := rfl
@[simp] theorem State.keepCode_link (s : State) (a n : Nat) : (s.keepCode a n).link = s.link := rfl
@[simp] theorem State.keepCode_host (s : State) (a n : Nat) : (s.keepCode a n).host = s.host := rfl
@[simp] theorem State.keepCode_plumb (s : State) (a n : Nat) : (s.keepCode a n).plumb = s.plumb := rfl
@[simp] theorem State.keepCode_window (s : State) (a n : Nat) : (s.keepCode a n).window = s.window := rfl
@[simp] theorem State.keepCode_free (s : State) (a n : Nat) : (s.keepCode a n).free = s.free := rfl

/-! ### unmark -/

@[simp] theorem State.unmark_now (s : State) (k : LineKind) (l : Nat) : (s.unmark k l).now = s.now := rfl
@[simp] theorem State.unmark_tape (s : State) (k : LineKind) (l : Nat) : (s.unmark k l).tape = s.tape := rfl
@[simp] theorem State.unmark_evt (s : State) (k : LineKind) (l : Nat) : (s.unmark k l).evt = s.evt := rfl
@[simp] theorem State.unmark_cur (s : State) (k : LineKind) (l : Nat) : (s.unmark k l).cur = s.cur := rfl
@[simp] theorem State.unmark_nextId (s : State) (k : LineKind) (l : Nat) : (s.unmark k l).nextId = s.nextId := rfl
@[simp] theorem State.unmark_runCounter (s : State) (k : LineKind) (l : Nat) : (s.unmark k l).runCounter = s.runCounter := rfl
@[simp] theorem State.unmark_waves (s : State) (k : LineKind) (l : Nat) : (s.unmark k l).waves = s.waves := rfl
@[simp] theorem State.unmark_reqs (s : State) (k : LineKind) (l : Nat) : (s.unmark k l).reqs = s.reqs := rfl
@[simp] theorem State.unmark_runs (s : State) (k : LineKind) (l : Nat) : (s.unmark k l).runs = s.runs := rfl
@[simp] theorem State.unmark_launches (s : State) (k : LineKind) (l : Nat) : (s.unmark k l).launches = s.launches := rfl
@[simp] theorem State.unmark_slots (s : State) (k : LineKind) (l : Nat) : (s.unmark k l).slots = s.slots := rfl
@[simp] theorem State.unmark_mem (s : State) (k : LineKind) (l : Nat) : (s.unmark k l).mem = s.mem := rfl
@[simp] theorem State.unmark_ways (s : State) (k : LineKind) (l : Nat) : (s.unmark k l).ways = s.ways := rfl
@[simp] theorem State.unmark_poisoned (s : State) (k : LineKind) (l : Nat) : (s.unmark k l).poisoned = s.poisoned := rfl
@[simp] theorem State.unmark_code (s : State) (k : LineKind) (l : Nat) : (s.unmark k l).code = s.code := rfl
@[simp] theorem State.unmark_codeKeys (s : State) (k : LineKind) (l : Nat) : (s.unmark k l).codeKeys = s.codeKeys := rfl
@[simp] theorem State.unmark_imem (s : State) (k : LineKind) (l : Nat) : (s.unmark k l).imem = s.imem := rfl
@[simp] theorem State.unmark_l1 (s : State) (k : LineKind) (l : Nat) : (s.unmark k l).l1 = s.l1 := rfl
@[simp] theorem State.unmark_tlb (s : State) (k : LineKind) (l : Nat) : (s.unmark k l).tlb = s.tlb := rfl
@[simp] theorem State.unmark_shorts (s : State) (k : LineKind) (l : Nat) : (s.unmark k l).shorts = s.shorts := rfl
@[simp] theorem State.unmark_keystones (s : State) (k : LineKind) (l : Nat) : (s.unmark k l).keystones = s.keystones := rfl
@[simp] theorem State.unmark_reductions (s : State) (k : LineKind) (l : Nat) : (s.unmark k l).reductions = s.reductions := rfl
@[simp] theorem State.unmark_seqs (s : State) (k : LineKind) (l : Nat) : (s.unmark k l).seqs = s.seqs := rfl
@[simp] theorem State.unmark_ashlars (s : State) (k : LineKind) (l : Nat) : (s.unmark k l).ashlars = s.ashlars := rfl
@[simp] theorem State.unmark_courses (s : State) (k : LineKind) (l : Nat) : (s.unmark k l).courses = s.courses := rfl
@[simp] theorem State.unmark_dies (s : State) (k : LineKind) (l : Nat) : (s.unmark k l).dies = s.dies := rfl
@[simp] theorem State.unmark_link (s : State) (k : LineKind) (l : Nat) : (s.unmark k l).link = s.link := rfl
@[simp] theorem State.unmark_host (s : State) (k : LineKind) (l : Nat) : (s.unmark k l).host = s.host := rfl
@[simp] theorem State.unmark_plumb (s : State) (k : LineKind) (l : Nat) : (s.unmark k l).plumb = s.plumb := rfl
@[simp] theorem State.unmark_window (s : State) (k : LineKind) (l : Nat) : (s.unmark k l).window = s.window := rfl
@[simp] theorem State.unmark_free (s : State) (k : LineKind) (l : Nat) : (s.unmark k l).free = s.free := rfl

/-! ### rewatch -/

@[simp] theorem State.rewatch_now (s : State) (k d l : Nat) : (s.rewatch k d l).now = s.now := rfl
@[simp] theorem State.rewatch_tape (s : State) (k d l : Nat) : (s.rewatch k d l).tape = s.tape := rfl
@[simp] theorem State.rewatch_evt (s : State) (k d l : Nat) : (s.rewatch k d l).evt = s.evt := rfl
@[simp] theorem State.rewatch_cur (s : State) (k d l : Nat) : (s.rewatch k d l).cur = s.cur := rfl
@[simp] theorem State.rewatch_nextId (s : State) (k d l : Nat) : (s.rewatch k d l).nextId = s.nextId := rfl
@[simp] theorem State.rewatch_runCounter (s : State) (k d l : Nat) : (s.rewatch k d l).runCounter = s.runCounter := rfl
@[simp] theorem State.rewatch_reqs (s : State) (k d l : Nat) : (s.rewatch k d l).reqs = s.reqs := rfl
@[simp] theorem State.rewatch_runs (s : State) (k d l : Nat) : (s.rewatch k d l).runs = s.runs := rfl
@[simp] theorem State.rewatch_launches (s : State) (k d l : Nat) : (s.rewatch k d l).launches = s.launches := rfl
@[simp] theorem State.rewatch_slots (s : State) (k d l : Nat) : (s.rewatch k d l).slots = s.slots := rfl
@[simp] theorem State.rewatch_mem (s : State) (k d l : Nat) : (s.rewatch k d l).mem = s.mem := rfl
@[simp] theorem State.rewatch_ways (s : State) (k d l : Nat) : (s.rewatch k d l).ways = s.ways := rfl
@[simp] theorem State.rewatch_poisoned (s : State) (k d l : Nat) : (s.rewatch k d l).poisoned = s.poisoned := rfl
@[simp] theorem State.rewatch_code (s : State) (k d l : Nat) : (s.rewatch k d l).code = s.code := rfl
@[simp] theorem State.rewatch_codeKeys (s : State) (k d l : Nat) : (s.rewatch k d l).codeKeys = s.codeKeys := rfl
@[simp] theorem State.rewatch_imem (s : State) (k d l : Nat) : (s.rewatch k d l).imem = s.imem := rfl
@[simp] theorem State.rewatch_l1 (s : State) (k d l : Nat) : (s.rewatch k d l).l1 = s.l1 := rfl
@[simp] theorem State.rewatch_tlb (s : State) (k d l : Nat) : (s.rewatch k d l).tlb = s.tlb := rfl
@[simp] theorem State.rewatch_shorts (s : State) (k d l : Nat) : (s.rewatch k d l).shorts = s.shorts := rfl
@[simp] theorem State.rewatch_marks (s : State) (k d l : Nat) : (s.rewatch k d l).marks = s.marks := rfl
@[simp] theorem State.rewatch_keystones (s : State) (k d l : Nat) : (s.rewatch k d l).keystones = s.keystones := rfl
@[simp] theorem State.rewatch_reductions (s : State) (k d l : Nat) : (s.rewatch k d l).reductions = s.reductions := rfl
@[simp] theorem State.rewatch_seqs (s : State) (k d l : Nat) : (s.rewatch k d l).seqs = s.seqs := rfl
@[simp] theorem State.rewatch_ashlars (s : State) (k d l : Nat) : (s.rewatch k d l).ashlars = s.ashlars := rfl
@[simp] theorem State.rewatch_courses (s : State) (k d l : Nat) : (s.rewatch k d l).courses = s.courses := rfl
@[simp] theorem State.rewatch_dies (s : State) (k d l : Nat) : (s.rewatch k d l).dies = s.dies := rfl
@[simp] theorem State.rewatch_link (s : State) (k d l : Nat) : (s.rewatch k d l).link = s.link := rfl
@[simp] theorem State.rewatch_host (s : State) (k d l : Nat) : (s.rewatch k d l).host = s.host := rfl
@[simp] theorem State.rewatch_plumb (s : State) (k d l : Nat) : (s.rewatch k d l).plumb = s.plumb := rfl
@[simp] theorem State.rewatch_window (s : State) (k d l : Nat) : (s.rewatch k d l).window = s.window := rfl
@[simp] theorem State.rewatch_free (s : State) (k d l : Nat) : (s.rewatch k d l).free = s.free := rfl

/-! ### Accessors after an update -/

/-- A search by number after an update by number that keeps numbers. -/
theorem find_updWhere {α : Type} (num : α → Nat) (f : α → α) (l : List α) (i j : Nat) (hf : ∀ x, num x = i → num (f x) = i) :
    (updWhere (num · == i) f l).find? (num · == j)
      = if j = i then (l.find? (num · == i)).map f else l.find? (num · == j) := by
  unfold updWhere
  induction l with
  | nil => simp
  | cons a t ih =>
    simp only [List.map_cons, List.find?_cons]
    by_cases hi : num a = i
    · simp only [hi, beq_self_eq_true, if_true, hf a hi]
      by_cases hj : j = i
      · subst hj
        simp
      · simp only [if_neg hj] at ih ⊢
        have h1 : (i == j) = false := by simpa using fun h => hj h.symm
        simp only [h1]
        exact ih
    · have h1 : (num a == i) = false := by simpa using hi
      simp only [h1, Bool.false_eq_true, if_false]
      by_cases hj : num a = j
      · have h2 : j ≠ i := fun h => hi (hj.trans h)
        simp [hj, h2]
      · have h3 : (num a == j) = false := by simpa using hj
        simp only [h3]
        exact ih

/-- The wave put back is found under its number, and every other wave as before. -/
theorem setWave_wave? (s : State) (w : Wave) (j : Nat) :
    (s.setWave w).wave? j = if j = w.id then (s.wave? w.id).map (fun _ => w) else s.wave? j :=
  find_updWhere Wave.id (fun _ => w) s.waves w.id j fun _ _ => rfl

/-- A wave changed under its number. -/
theorem modWave_wave? (s : State) (i j : Nat) (f : Wave → Wave) (hf : ∀ w, (f w).id = w.id) :
    (s.modWave i f).wave? j = if j = i then (s.wave? i).map f else s.wave? j :=
  find_updWhere Wave.id f s.waves i j fun x hx => (hf x).trans hx

/-- A run changed under its number. -/
theorem modRun_run? (s : State) (i j : Nat) (f : Run → Run) (hf : ∀ r, (f r).id = r.id) :
    (s.modRun i f).run? j = if j = i then (s.run? i).map f else s.run? j :=
  find_updWhere Run.id f s.runs i j fun x hx => (hf x).trans hx

/-- An element of a list changed at a place. -/
theorem getD_modify {α : Type} (l : List α) (i j : Nat) (f : α → α) (d : α) :
    (l.modify i f).getD j d = if i = j ∧ j < l.length then f (l.getD j d) else l.getD j d := by
  simp only [List.getD_eq_getElem?_getD, List.getElem?_modify]
  by_cases h : i = j
  · subst h
    by_cases hl : i < l.length
    · simp [hl]
    · simp [hl]
  · simp [h]

/-- An ashlar changed. -/
theorem modAshlar_ashlar (s : State) (a b : Nat) (f : Ashlar → Ashlar) :
    (s.modAshlar a f).ashlar b = if a = b ∧ b < s.ashlars.length then f (s.ashlar b) else s.ashlar b :=
  getD_modify s.ashlars a b f Ashlar.reset

/-- A course changed. -/
theorem modCourse_course (s : State) (a b : Nat) (f : Course → Course) :
    (s.modCourse a f).course b = if a = b ∧ b < s.courses.length then f (s.course b) else s.course b :=
  getD_modify s.courses a b f Course.reset

/-- A die changed. -/
theorem modDie_die (s : State) (a b : Nat) (f : Die → Die) :
    (s.modDie a f).die b = if a = b ∧ b < s.dies.length then f (s.die b) else s.die b :=
  getD_modify s.dies a b f Die.reset

/-- A slot changed. -/
theorem modSlot_slot (s : State) (a b : Nat) (f : Slot → Slot) :
    (s.modSlot a f).slot b = if a = b ∧ b < s.slots.length then f (s.slot b) else s.slot b :=
  getD_modify s.slots a b f {}

/-- A lane changed. -/
theorem modLane_lane (w : Wave) (a b : Nat) (f : Lane → Lane) :
    (w.modLane a f).lane b = if a = b ∧ b < w.lanesN then f (w.lane b) else w.lane b :=
  getD_modify w.lanes a b f {}

/-! ### The canonical form of memory -/

/-- The updates of everything but memory keep the canonical form. -/
theorem memOk_of_mem {s t : State} (h : t.mem = s.mem) (hw : s.memOk) : t.memOk := by
  unfold State.memOk at *
  rw [h]
  exact hw

end Sys2Proof.Machine
end

