-- ==== Sys2Proof/Laws/Ops.lean ====
section
/-! SUPPORT. Everything the shared operations can do, said once for each: issuing, faults, outstanding instructions, requests, and one
step of the machine. -/

namespace Sys2Proof.Machine

/-! ### Issuing -/

/-- What issuing a word can answer. -/
theorem issue_cases {s : State} {k : Chk} {f : Ctx → Mask → Ctx} {t : State} (h : issue s k f = .next t) :
    ∃ x, s.ctx? = some x ∧ (t = x.illegal.done ∨ t = (x.raiseAll x.live cPrivilege).done ∨ t = (x.raiseAll (x.act k.pr) cRegIndex).done
      ∨ t = s ∨ (x.act k.pr ≠ 0 ∧ t = (f x (x.act k.pr)).done)) := by
  unfold issue at h
  split at h
  · cases h
  · next x hx =>
    refine ⟨x, hx, ?_⟩
    split at h
    · exact .inl (Host.Outcome.next.inj h).symm
    · split at h
      · exact .inr (.inl (Host.Outcome.next.inj h).symm)
      · dsimp only at h
        split at h
        · exact .inr (.inr (.inl (Host.Outcome.next.inj h).symm))
        · split at h
          · exact .inr (.inr (.inr (.inl (Host.Outcome.next.inj h).symm)))
          · next ha => exact .inr (.inr (.inr (.inr ⟨ha, (Host.Outcome.next.inj h).symm⟩)))

/-- Putting a context back changes the waves alone. -/
@[simp] theorem done_mem (x : Ctx) : x.done.mem = x.s.mem := rfl
@[simp] theorem done_now (x : Ctx) : x.done.now = x.s.now := rfl
@[simp] theorem done_reqs (x : Ctx) : x.done.reqs = x.s.reqs := rfl
@[simp] theorem done_runs (x : Ctx) : x.done.runs = x.s.runs := rfl
@[simp] theorem done_cur (x : Ctx) : x.done.cur = x.s.cur := rfl

/-- A context put back is found under its wave's number, and every other wave as before. -/
theorem done_wave? (x : Ctx) (j : Nat) :
    x.done.wave? j = if j = x.w.id then (x.s.wave? x.w.id).map (fun _ => { x.w with clause := some x.c }) else x.s.wave? j :=
  setWave_wave? x.s { x.w with clause := some x.c } j

/-- The wave of a context is found under its own number, which is the one in focus. -/
theorem ctx_id {s : State} {x : Ctx} (h : s.ctx? = some x) : s.cur = some x.w.id ∧ s.wave? x.w.id = some x.w := by
  obtain ⟨-, id, hc, hw, -⟩ := ctx_iff.1 h
  have : x.w.id = id := by
    have := List.find?_some hw
    simpa using this
  exact this ▸ ⟨hc, hw⟩

/-! ### Pending results -/

/-- Queuing a result leaves the state and the wave as they are. -/
theorem put_state (x : Ctx) (d : Dst) : (x.put d).s = x.s ∧ (x.put d).w = x.w := by
  rw [put_eq]
  exact ⟨rfl, rfl⟩

/-- Queuing results leaves the state and the wave as they are. -/
theorem puts_state (x : Ctx) (ds : List Dst) : (x.puts ds).s = x.s ∧ (x.puts ds).w = x.w := by
  rw [puts_eq]
  exact ⟨rfl, rfl⟩

/-! ### Faults at issue -/

/-- Lanes changed one after another keep everything of a wave but its lanes. -/
theorem modLanes_fold (fs : List LaneFault) (g : LaneFault → Lane → Lane) (w : Wave) :
    ∃ ls, fs.foldl (fun (w : Wave) f => w.modLane f.lane (g f)) w = { w with lanes := ls } := by
  induction fs generalizing w with
  | nil => exact ⟨w.lanes, rfl⟩
  | cons f t ih =>
    obtain ⟨ls, h⟩ := ih (w.modLane f.lane (g f))
    exact ⟨ls, by rw [List.foldl_cons, h]; rfl⟩

/-- Raising faults changes the lanes of the wave, the lanes out of the clause, and the next number; nothing else. -/
theorem raise_eq (x : Ctx) (m : Mask) (fs : List LaneFault) :
    ∃ ls n, x.raise m fs = { x with
      s := { x.s with nextId := n }, w := { x.w with lanes := ls }, c := { x.c with out := x.c.out ||| maskOf (fs.map (·.lane)) } } := by
  unfold Ctx.raise
  split
  · next h =>
    have : fs = [] := by simpa using h
    subst this
    refine ⟨x.w.lanes, x.s.nextId, ?_⟩
    have h0 : x.c.out ||| maskOf (([] : List LaneFault).map (·.lane)) = x.c.out := BitVec.or_zero
    rw [h0]
  · obtain ⟨ls, h⟩ := modLanes_fold fs (fun f n => { n with fault := some {
        set := x.s.nextId, cls := f.cls, code := f.code, late := f.late, service := f.service, index := x.c.index, pc := x.c.pc
        header := x.c.raw, word := x.c.word, amask := m, addr := f.addr, raised := f.raised
        resumePc := (x.resume f.lane).1, resumeIdx := (x.resume f.lane).2 } }) x.w
    exact ⟨ls, x.s.nextId + 1, by rw [h]⟩

/-! ### Outstanding instructions and requests -/

/-- An outstanding instruction is added to the wave, its scoreboard counted up; nothing else changes but the next number. -/
theorem newOp_eq (x : Ctx) (m : Mask) (w : Wait) (ds : List (Nat × Dst)) (rs : List Nat) (all : Option Mask) :
    ∃ o, (x.newOp m w ds rs all) = ({ x with
      s := { x.s with nextId := x.s.nextId + 1 }
      w := { x.w with ops := x.w.ops ++ [o], sb := x.w.sb.modify x.c.hdr.sb (· + 1) } }, x.s.nextId)
      ∧ o.id = x.s.nextId ∧ o.sb = x.c.hdr.sb ∧ o.lanes = m ∧ o.wait = w ∧ o.dsts = ds :=
  ⟨_, rfl, rfl, rfl, rfl, rfl, rfl⟩

/-- A request is added last; nothing else changes but the next number and, for a request that goes to a home in a packet of its own, the
packet number of its pair (R21). -/
theorem addReq_eq (x : Ctx) (m : Mask) (path : Nat) (rd wr st : Bool) (op : Option Nat) (extra : List (Nat × Mask)) (b : ReqBody) :
    ∃ r qs, (x.addReq m path rd wr st op extra b)
      = ({ x with s := { x.s with nextId := x.s.nextId + 1, reqs := x.s.reqs ++ [r], seqs := qs } }, x.s.nextId)
      ∧ r.id = x.s.nextId ∧ r.body = b ∧ r.path = path ∧ r.lanes = m ∧ r.wave = x.w.id ∧ r.op = op := by
  unfold Ctx.addReq
  cases x.s.bodyHome b x.w.die <;> exact ⟨_, _, rfl, rfl, rfl, rfl, rfl, rfl, rfl⟩

/-! ### The step -/

/-- What one step can be: an event, an input, an idle move, or a wave's issue. -/
theorem step_cases {s t : State} (h : step s = .next t) :
    (∃ u id, s.nextAct = (u, .issue id) ∧ issueStep u id = .next t)
    ∨ (∃ u i e, s.nextAct = (u, .event i e) ∧ ((i.isWord = true ∧ t = u) ∨ (i.isWord = false ∧ exec i { u with evt := e } = .next t)))
    ∨ (∃ u v, s.nextAct = (u, .input v) ∧ t = u.outside v)
    ∨ (∃ u, s.nextAct = (u, .idle) ∧ t = u) := by
  unfold step at h
  split at h
  · next u id hn => exact .inl ⟨u, id, hn, h⟩
  · next u i e hn =>
    refine .inr (.inl ⟨u, i, e, hn, ?_⟩)
    split at h
    · next hw => exact .inl ⟨hw, (Host.Outcome.next.inj h).symm⟩
    · next hw => exact .inr ⟨by simpa using hw, h⟩
  · next u v hn => exact .inr (.inr (.inl ⟨u, v, hn, (Host.Outcome.next.inj h).symm⟩))
  · next u hn => exact .inr (.inr (.inr ⟨u, hn, (Host.Outcome.next.inj h).symm⟩))

/-- What an issue can be: what was found instead of an instruction, or the instruction's next state with its clause gone on. -/
theorem issueStep_cases {s t : State} {id : Nat} (h : issueStep s id = .next t) :
    (∃ u, s.fetchInstr id = (u, none) ∧ t = u)
    ∨ (∃ u i v, s.fetchInstr id = (u, some i) ∧ exec i u = .next v ∧ t = v.finishInstr id (s.atBoundary id)) := by
  unfold issueStep at h
  split at h
  · next u hn => exact .inl ⟨u, hn, (Host.Outcome.next.inj h).symm⟩
  · next u i hn =>
    split at h
    · next v hv => exact .inr ⟨u, i, v, hn, hv, (Host.Outcome.next.inj h).symm⟩
    · cases h
    · cases h

end Sys2Proof.Machine
end

