-- ==== Sys2Proof/Laws/PerInstr.lean ====
section
/-! SUPPORT. Laws of instructions as syntax, one lemma for each constructor. -/

/-! ### The word of an instruction has 32 bits: no field of an encoding is cut off -/

namespace Sys2Proof.Laws.WordFits

/-- The encoding of an instruction, where it has one, is below 2^32. -/
def Statement (i : Instr) : Prop := ∀ w, encodeNat i = some w → w < 2 ^ 32

theorem clauseHeader (n : BX) (e : PR) (w : SR) (s : PR) (v : PR) (r : BitVec 2) (f : BitVec 1) (y : BitVec 1) (d : BitVec 1) : Statement (.clauseHeader n e w s v r f y d) := by
  intro z hz; have hz := Option.some.inj hz; unfold word9 at hz; have := n.isLt; have := e.isLt; have := w.isLt; have := s.isLt; have := v.isLt; have := r.isLt; have := f.isLt; have := y.isLt; have := d.isLt; omega
theorem fadd (d : VR) (a : VR) (b : B8) (p : PR) : Statement (.fadd d a b p) := by
  intro z hz; have hz := Option.some.inj hz; unfold word4 at hz; have := d.isLt; have := a.isLt; have := b.isLt; have := p.isLt; omega
theorem fsub (d : VR) (a : VR) (b : B8) (p : PR) : Statement (.fsub d a b p) := by
  intro z hz; have hz := Option.some.inj hz; unfold word4 at hz; have := d.isLt; have := a.isLt; have := b.isLt; have := p.isLt; omega
theorem fmul (d : VR) (a : VR) (b : B8) (p : PR) : Statement (.fmul d a b p) := by
  intro z hz; have hz := Option.some.inj hz; unfold word4 at hz; have := d.isLt; have := a.isLt; have := b.isLt; have := p.isLt; omega
theorem ffma (d : VR) (a : VR) (b : B8) (p : PR) : Statement (.ffma d a b p) := by
  intro z hz; have hz := Option.some.inj hz; unfold word4 at hz; have := d.isLt; have := a.isLt; have := b.isLt; have := p.isLt; omega
theorem ffnma (d : VR) (a : VR) (b : B8) (p : PR) : Statement (.ffnma d a b p) := by
  intro z hz; have hz := Option.some.inj hz; unfold word4 at hz; have := d.isLt; have := a.isLt; have := b.isLt; have := p.isLt; omega
theorem fmin (d : VR) (a : VR) (b : B8) (p : PR) : Statement (.fmin d a b p) := by
  intro z hz; have hz := Option.some.inj hz; unfold word4 at hz; have := d.isLt; have := a.isLt; have := b.isLt; have := p.isLt; omega
theorem fmax (d : VR) (a : VR) (b : B8) (p : PR) : Statement (.fmax d a b p) := by
  intro z hz; have hz := Option.some.inj hz; unfold word4 at hz; have := d.isLt; have := a.isLt; have := b.isLt; have := p.isLt; omega
theorem fdot2 (d : VR) (a : VR) (b : B8) (p : PR) : Statement (.fdot2 d a b p) := by
  intro z hz; have hz := Option.some.inj hz; unfold word4 at hz; have := d.isLt; have := a.isLt; have := b.isLt; have := p.isLt; omega
theorem fscale (d : VR) (a : VR) (b : B8) (p : PR) : Statement (.fscale d a b p) := by
  intro z hz; have hz := Option.some.inj hz; unfold word4 at hz; have := d.isLt; have := a.isLt; have := b.isLt; have := p.isLt; omega
theorem rcp (d : VR) (a : VR) (p : PR) : Statement (.rcp d a p) := by
  intro z hz; have hz := Option.some.inj hz; unfold word3 at hz; have := d.isLt; have := a.isLt; have := p.isLt; omega
theorem rsq (d : VR) (a : VR) (p : PR) : Statement (.rsq d a p) := by
  intro z hz; have hz := Option.some.inj hz; unfold word3 at hz; have := d.isLt; have := a.isLt; have := p.isLt; omega
theorem sqrt (d : VR) (a : VR) (p : PR) : Statement (.sqrt d a p) := by
  intro z hz; have hz := Option.some.inj hz; unfold word3 at hz; have := d.isLt; have := a.isLt; have := p.isLt; omega
theorem exp2 (d : VR) (a : VR) (p : PR) : Statement (.exp2 d a p) := by
  intro z hz; have hz := Option.some.inj hz; unfold word3 at hz; have := d.isLt; have := a.isLt; have := p.isLt; omega
theorem log2 (d : VR) (a : VR) (p : PR) : Statement (.log2 d a p) := by
  intro z hz; have hz := Option.some.inj hz; unfold word3 at hz; have := d.isLt; have := a.isLt; have := p.isLt; omega
theorem sin (d : VR) (a : VR) (p : PR) : Statement (.sin d a p) := by
  intro z hz; have hz := Option.some.inj hz; unfold word3 at hz; have := d.isLt; have := a.isLt; have := p.isLt; omega
theorem cos (d : VR) (a : VR) (p : PR) : Statement (.cos d a p) := by
  intro z hz; have hz := Option.some.inj hz; unfold word3 at hz; have := d.isLt; have := a.isLt; have := p.isLt; omega
theorem tanh (d : VR) (a : VR) (p : PR) : Statement (.tanh d a p) := by
  intro z hz; have hz := Option.some.inj hz; unfold word3 at hz; have := d.isLt; have := a.isLt; have := p.isLt; omega
theorem floor (d : VR) (a : VR) (p : PR) : Statement (.floor d a p) := by
  intro z hz; have hz := Option.some.inj hz; unfold word3 at hz; have := d.isLt; have := a.isLt; have := p.isLt; omega
theorem ceil (d : VR) (a : VR) (p : PR) : Statement (.ceil d a p) := by
  intro z hz; have hz := Option.some.inj hz; unfold word3 at hz; have := d.isLt; have := a.isLt; have := p.isLt; omega
theorem trunc (d : VR) (a : VR) (p : PR) : Statement (.trunc d a p) := by
  intro z hz; have hz := Option.some.inj hz; unfold word3 at hz; have := d.isLt; have := a.isLt; have := p.isLt; omega
theorem rint (d : VR) (a : VR) (p : PR) : Statement (.rint d a p) := by
  intro z hz; have hz := Option.some.inj hz; unfold word3 at hz; have := d.isLt; have := a.isLt; have := p.isLt; omega
theorem fract (d : VR) (a : VR) (p : PR) : Statement (.fract d a p) := by
  intro z hz; have hz := Option.some.inj hz; unfold word3 at hz; have := d.isLt; have := a.isLt; have := p.isLt; omega
theorem fcmp (d : PR) (c : BX) (a : VR) (b : B8) (p : PR) : Statement (.fcmp d c a b p) := by
  intro z hz; have hz := Option.some.inj hz; unfold word5 at hz; have := d.isLt; have := c.isLt; have := a.isLt; have := b.isLt; have := p.isLt; omega
theorem fabs (d : VR) (a : VR) (p : PR) : Statement (.fabs d a p) := by
  intro z hz; have hz := Option.some.inj hz; unfold word3 at hz; have := d.isLt; have := a.isLt; have := p.isLt; omega
theorem fneg (d : VR) (a : VR) (p : PR) : Statement (.fneg d a p) := by
  intro z hz; have hz := Option.some.inj hz; unfold word3 at hz; have := d.isLt; have := a.isLt; have := p.isLt; omega
theorem fclass (d : VR) (a : VR) (p : PR) : Statement (.fclass d a p) := by
  intro z hz; have hz := Option.some.inj hz; unfold word3 at hz; have := d.isLt; have := a.isLt; have := p.isLt; omega
theorem fsat (d : VR) (a : VR) (p : PR) : Statement (.fsat d a p) := by
  intro z hz; have hz := Option.some.inj hz; unfold word3 at hz; have := d.isLt; have := a.isLt; have := p.isLt; omega
theorem fcopysign (d : VR) (a : VR) (b : B8) (p : PR) : Statement (.fcopysign d a b p) := by
  intro z hz; have hz := Option.some.inj hz; unfold word4 at hz; have := d.isLt; have := a.isLt; have := b.isLt; have := p.isLt; omega
theorem cvt (d : VR) (a : VR) (c : BitVec 5) (x : PR) (p : PR) : Statement (.cvt d a c x p) := by
  intro z hz; have hz := Option.some.inj hz; unfold word5 at hz; have := d.isLt; have := a.isLt; have := c.isLt; have := x.isLt; have := p.isLt; omega
theorem cvtpk (d : VR) (a : VR) (b : B8) (p : PR) : Statement (.cvtpk d a b p) := by
  intro z hz; have hz := Option.some.inj hz; unfold word4 at hz; have := d.isLt; have := a.isLt; have := b.isLt; have := p.isLt; omega
theorem iadd (d : VR) (a : VR) (b : B8) (p : PR) : Statement (.iadd d a b p) := by
  intro z hz; have hz := Option.some.inj hz; unfold word4 at hz; have := d.isLt; have := a.isLt; have := b.isLt; have := p.isLt; omega
theorem isub (d : VR) (a : VR) (b : B8) (p : PR) : Statement (.isub d a b p) := by
  intro z hz; have hz := Option.some.inj hz; unfold word4 at hz; have := d.isLt; have := a.isLt; have := b.isLt; have := p.isLt; omega
theorem imul (d : VR) (a : VR) (b : B8) (p : PR) : Statement (.imul d a b p) := by
  intro z hz; have hz := Option.some.inj hz; unfold word4 at hz; have := d.isLt; have := a.isLt; have := b.isLt; have := p.isLt; omega
theorem imulhi (d : VR) (a : VR) (b : B8) (p : PR) : Statement (.imulhi d a b p) := by
  intro z hz; have hz := Option.some.inj hz; unfold word4 at hz; have := d.isLt; have := a.isLt; have := b.isLt; have := p.isLt; omega
theorem umulhi (d : VR) (a : VR) (b : B8) (p : PR) : Statement (.umulhi d a b p) := by
  intro z hz; have hz := Option.some.inj hz; unfold word4 at hz; have := d.isLt; have := a.isLt; have := b.isLt; have := p.isLt; omega
theorem imad (d : VR) (a : VR) (b : B8) (p : PR) : Statement (.imad d a b p) := by
  intro z hz; have hz := Option.some.inj hz; unfold word4 at hz; have := d.isLt; have := a.isLt; have := b.isLt; have := p.isLt; omega
theorem imin (d : VR) (a : VR) (b : B8) (p : PR) : Statement (.imin d a b p) := by
  intro z hz; have hz := Option.some.inj hz; unfold word4 at hz; have := d.isLt; have := a.isLt; have := b.isLt; have := p.isLt; omega
theorem imax (d : VR) (a : VR) (b : B8) (p : PR) : Statement (.imax d a b p) := by
  intro z hz; have hz := Option.some.inj hz; unfold word4 at hz; have := d.isLt; have := a.isLt; have := b.isLt; have := p.isLt; omega
theorem umin (d : VR) (a : VR) (b : B8) (p : PR) : Statement (.umin d a b p) := by
  intro z hz; have hz := Option.some.inj hz; unfold word4 at hz; have := d.isLt; have := a.isLt; have := b.isLt; have := p.isLt; omega
theorem umax (d : VR) (a : VR) (b : B8) (p : PR) : Statement (.umax d a b p) := by
  intro z hz; have hz := Option.some.inj hz; unfold word4 at hz; have := d.isLt; have := a.isLt; have := b.isLt; have := p.isLt; omega
theorem vand (d : VR) (a : VR) (b : B8) (p : PR) : Statement (.vand d a b p) := by
  intro z hz; have hz := Option.some.inj hz; unfold word4 at hz; have := d.isLt; have := a.isLt; have := b.isLt; have := p.isLt; omega
theorem vor (d : VR) (a : VR) (b : B8) (p : PR) : Statement (.vor d a b p) := by
  intro z hz; have hz := Option.some.inj hz; unfold word4 at hz; have := d.isLt; have := a.isLt; have := b.isLt; have := p.isLt; omega
theorem vxor (d : VR) (a : VR) (b : B8) (p : PR) : Statement (.vxor d a b p) := by
  intro z hz; have hz := Option.some.inj hz; unfold word4 at hz; have := d.isLt; have := a.isLt; have := b.isLt; have := p.isLt; omega
theorem andn (d : VR) (a : VR) (b : B8) (p : PR) : Statement (.andn d a b p) := by
  intro z hz; have hz := Option.some.inj hz; unfold word4 at hz; have := d.isLt; have := a.isLt; have := b.isLt; have := p.isLt; omega
theorem shl (d : VR) (a : VR) (b : B8) (p : PR) : Statement (.shl d a b p) := by
  intro z hz; have hz := Option.some.inj hz; unfold word4 at hz; have := d.isLt; have := a.isLt; have := b.isLt; have := p.isLt; omega
theorem shr (d : VR) (a : VR) (b : B8) (p : PR) : Statement (.shr d a b p) := by
  intro z hz; have hz := Option.some.inj hz; unfold word4 at hz; have := d.isLt; have := a.isLt; have := b.isLt; have := p.isLt; omega
theorem sar (d : VR) (a : VR) (b : B8) (p : PR) : Statement (.sar d a b p) := by
  intro z hz; have hz := Option.some.inj hz; unfold word4 at hz; have := d.isLt; have := a.isLt; have := b.isLt; have := p.isLt; omega
theorem iaddi (d : VR) (a : VR) (imm : B8) (p : PR) : Statement (.iaddi d a imm p) := by
  intro z hz; have hz := Option.some.inj hz; unfold word4 at hz; have := d.isLt; have := a.isLt; have := imm.isLt; have := p.isLt; omega
theorem andi (d : VR) (a : VR) (imm : B8) (p : PR) : Statement (.andi d a imm p) := by
  intro z hz; have hz := Option.some.inj hz; unfold word4 at hz; have := d.isLt; have := a.isLt; have := imm.isLt; have := p.isLt; omega
theorem shli (d : VR) (a : VR) (n : BitVec 5) (p : PR) : Statement (.shli d a n p) := by
  intro z hz; have hz := Option.some.inj hz; unfold word4 at hz; have := d.isLt; have := a.isLt; have := n.isLt; have := p.isLt; omega
theorem shri (d : VR) (a : VR) (n : BitVec 5) (p : PR) : Statement (.shri d a n p) := by
  intro z hz; have hz := Option.some.inj hz; unfold word4 at hz; have := d.isLt; have := a.isLt; have := n.isLt; have := p.isLt; omega
theorem sari (d : VR) (a : VR) (n : BitVec 5) (p : PR) : Statement (.sari d a n p) := by
  intro z hz; have hz := Option.some.inj hz; unfold word4 at hz; have := d.isLt; have := a.isLt; have := n.isLt; have := p.isLt; omega
theorem rotri (d : VR) (a : VR) (n : BitVec 5) (p : PR) : Statement (.rotri d a n p) := by
  intro z hz; have hz := Option.some.inj hz; unfold word4 at hz; have := d.isLt; have := a.isLt; have := n.isLt; have := p.isLt; omega
theorem popc (d : VR) (a : VR) (p : PR) : Statement (.popc d a p) := by
  intro z hz; have hz := Option.some.inj hz; unfold word3 at hz; have := d.isLt; have := a.isLt; have := p.isLt; omega
theorem clz (d : VR) (a : VR) (p : PR) : Statement (.clz d a p) := by
  intro z hz; have hz := Option.some.inj hz; unfold word3 at hz; have := d.isLt; have := a.isLt; have := p.isLt; omega
theorem ctz (d : VR) (a : VR) (p : PR) : Statement (.ctz d a p) := by
  intro z hz; have hz := Option.some.inj hz; unfold word3 at hz; have := d.isLt; have := a.isLt; have := p.isLt; omega
theorem brev (d : VR) (a : VR) (p : PR) : Statement (.brev d a p) := by
  intro z hz; have hz := Option.some.inj hz; unfold word3 at hz; have := d.isLt; have := a.isLt; have := p.isLt; omega
theorem iabs (d : VR) (a : VR) (p : PR) : Statement (.iabs d a p) := by
  intro z hz; have hz := Option.some.inj hz; unfold word3 at hz; have := d.isLt; have := a.isLt; have := p.isLt; omega
theorem ineg (d : VR) (a : VR) (p : PR) : Statement (.ineg d a p) := by
  intro z hz; have hz := Option.some.inj hz; unfold word3 at hz; have := d.isLt; have := a.isLt; have := p.isLt; omega
theorem bswap (d : VR) (a : VR) (p : PR) : Statement (.bswap d a p) := by
  intro z hz; have hz := Option.some.inj hz; unfold word3 at hz; have := d.isLt; have := a.isLt; have := p.isLt; omega
theorem bfe (d : VR) (a : VR) (b : B8) (p : PR) : Statement (.bfe d a b p) := by
  intro z hz; have hz := Option.some.inj hz; unfold word4 at hz; have := d.isLt; have := a.isLt; have := b.isLt; have := p.isLt; omega
theorem bfi (d : VR) (a : VR) (b : B8) (p : PR) : Statement (.bfi d a b p) := by
  intro z hz; have hz := Option.some.inj hz; unfold word4 at hz; have := d.isLt; have := a.isLt; have := b.isLt; have := p.isLt; omega
theorem idot4 (d : VR) (a : VR) (b : B8) (p : PR) : Statement (.idot4 d a b p) := by
  intro z hz; have hz := Option.some.inj hz; unfold word4 at hz; have := d.isLt; have := a.isLt; have := b.isLt; have := p.isLt; omega
theorem vwri (d : VR) (a : VR) (imm : B8) (p : PR) : Statement (.vwri d a imm p) := by
  intro z hz; have hz := Option.some.inj hz; unfold word4 at hz; have := d.isLt; have := a.isLt; have := imm.isLt; have := p.isLt; omega
theorem icmp (d : PR) (c : BX) (a : VR) (b : B8) (p : PR) : Statement (.icmp d c a b p) := by
  intro z hz; have hz := Option.some.inj hz; unfold word5 at hz; have := d.isLt; have := c.isLt; have := a.isLt; have := b.isLt; have := p.isLt; omega
theorem sel (d : VR) (a : VR) (b : B8) (p : PR) : Statement (.sel d a b p) := by
  intro z hz; have hz := Option.some.inj hz; unfold word4 at hz; have := d.isLt; have := a.isLt; have := b.isLt; have := p.isLt; omega
theorem pand (d : PR) (a : PR) (b : PR) (p : PR) : Statement (.pand d a b p) := by
  intro z hz; have hz := Option.some.inj hz; unfold word4 at hz; have := d.isLt; have := a.isLt; have := b.isLt; have := p.isLt; omega
theorem por (d : PR) (a : PR) (b : PR) (p : PR) : Statement (.por d a b p) := by
  intro z hz; have hz := Option.some.inj hz; unfold word4 at hz; have := d.isLt; have := a.isLt; have := b.isLt; have := p.isLt; omega
theorem pxor (d : PR) (a : PR) (b : PR) (p : PR) : Statement (.pxor d a b p) := by
  intro z hz; have hz := Option.some.inj hz; unfold word4 at hz; have := d.isLt; have := a.isLt; have := b.isLt; have := p.isLt; omega
theorem pnot (d : PR) (a : PR) (p : PR) : Statement (.pnot d a p) := by
  intro z hz; have hz := Option.some.inj hz; unfold word3 at hz; have := d.isLt; have := a.isLt; have := p.isLt; omega
theorem pmov (d : PR) (a : PR) (p : PR) : Statement (.pmov d a p) := by
  intro z hz; have hz := Option.some.inj hz; unfold word3 at hz; have := d.isLt; have := a.isLt; have := p.isLt; omega
theorem pset (d : PR) (p : PR) : Statement (.pset d p) := by
  intro z hz; have hz := Option.some.inj hz; unfold word2 at hz; have := d.isLt; have := p.isLt; omega
theorem pclr (d : PR) (p : PR) : Statement (.pclr d p) := by
  intro z hz; have hz := Option.some.inj hz; unfold word2 at hz; have := d.isLt; have := p.isLt; omega
theorem pleader (d : PR) (a : PR) (p : PR) : Statement (.pleader d a p) := by
  intro z hz; have hz := Option.some.inj hz; unfold word3 at hz; have := d.isLt; have := a.isLt; have := p.isLt; omega
theorem vmov (d : VR) (b : B8) (p : PR) : Statement (.vmov d b p) := by
  intro z hz; have hz := Option.some.inj hz; unfold word3 at hz; have := d.isLt; have := b.isLt; have := p.isLt; omega
theorem vshfl (d : VR) (a : VR) (b : B8) (p : PR) : Statement (.vshfl d a b p) := by
  intro z hz; have hz := Option.some.inj hz; unfold word4 at hz; have := d.isLt; have := a.isLt; have := b.isLt; have := p.isLt; omega
theorem laneid (d : VR) (p : PR) : Statement (.laneid d p) := by
  intro z hz; have hz := Option.some.inj hz; unfold word2 at hz; have := d.isLt; have := p.isLt; omega
theorem redAdd (d : VR) (a : VR) (p : PR) : Statement (.redAdd d a p) := by
  intro z hz; have hz := Option.some.inj hz; unfold word3 at hz; have := d.isLt; have := a.isLt; have := p.isLt; omega
theorem redFadd (d : VR) (a : VR) (p : PR) : Statement (.redFadd d a p) := by
  intro z hz; have hz := Option.some.inj hz; unfold word3 at hz; have := d.isLt; have := a.isLt; have := p.isLt; omega
theorem redMin (d : VR) (a : VR) (x : PR) (p : PR) : Statement (.redMin d a x p) := by
  intro z hz; have hz := Option.some.inj hz; unfold word4 at hz; have := d.isLt; have := a.isLt; have := x.isLt; have := p.isLt; omega
theorem redMax (d : VR) (a : VR) (x : PR) (p : PR) : Statement (.redMax d a x p) := by
  intro z hz; have hz := Option.some.inj hz; unfold word4 at hz; have := d.isLt; have := a.isLt; have := x.isLt; have := p.isLt; omega
theorem scanAdd (d : VR) (a : VR) (x : PR) (p : PR) : Statement (.scanAdd d a x p) := by
  intro z hz; have hz := Option.some.inj hz; unfold word4 at hz; have := d.isLt; have := a.isLt; have := x.isLt; have := p.isLt; omega
theorem ballot (d : VR) (a : VR) (x : PR) (p : PR) : Statement (.ballot d a x p) := by
  intro z hz; have hz := Option.some.inj hz; unfold word4 at hz; have := d.isLt; have := a.isLt; have := x.isLt; have := p.isLt; omega
theorem bcast (d : VR) (a : VR) (p : PR) : Statement (.bcast d a p) := by
  intro z hz; have hz := Option.some.inj hz; unfold word3 at hz; have := d.isLt; have := a.isLt; have := p.isLt; omega
theorem vrdi (d : VR) (a : VR) (imm : B8) (p : PR) : Statement (.vrdi d a imm p) := by
  intro z hz; have hz := Option.some.inj hz; unfold word4 at hz; have := d.isLt; have := a.isLt; have := imm.isLt; have := p.isLt; omega
theorem ldb (t : VR) (b : BX) (imm : VR) (o : BX) (p : PR) : Statement (.ldb t b imm o p) := by
  intro z hz; have hz := Option.some.inj hz; unfold word5 at hz; have := t.isLt; have := b.isLt; have := imm.isLt; have := o.isLt; have := p.isLt; omega
theorem ldsb (t : VR) (b : BX) (imm : VR) (o : BX) (p : PR) : Statement (.ldsb t b imm o p) := by
  intro z hz; have hz := Option.some.inj hz; unfold word5 at hz; have := t.isLt; have := b.isLt; have := imm.isLt; have := o.isLt; have := p.isLt; omega
theorem ldh (t : VR) (b : BX) (imm : VR) (o : BX) (p : PR) : Statement (.ldh t b imm o p) := by
  intro z hz; have hz := Option.some.inj hz; unfold word5 at hz; have := t.isLt; have := b.isLt; have := imm.isLt; have := o.isLt; have := p.isLt; omega
theorem ldsh (t : VR) (b : BX) (imm : VR) (o : BX) (p : PR) : Statement (.ldsh t b imm o p) := by
  intro z hz; have hz := Option.some.inj hz; unfold word5 at hz; have := t.isLt; have := b.isLt; have := imm.isLt; have := o.isLt; have := p.isLt; omega
theorem ldw (t : VR) (b : BX) (imm : VR) (o : BX) (p : PR) : Statement (.ldw t b imm o p) := by
  intro z hz; have hz := Option.some.inj hz; unfold word5 at hz; have := t.isLt; have := b.isLt; have := imm.isLt; have := o.isLt; have := p.isLt; omega
theorem ldw2 (t : VR) (b : BX) (imm : VR) (o : BX) (p : PR) : Statement (.ldw2 t b imm o p) := by
  intro z hz; have hz := Option.some.inj hz; unfold word5 at hz; have := t.isLt; have := b.isLt; have := imm.isLt; have := o.isLt; have := p.isLt; omega
theorem ldw4 (t : VR) (b : BX) (imm : VR) (o : BX) (p : PR) : Statement (.ldw4 t b imm o p) := by
  intro z hz; have hz := Option.some.inj hz; unfold word5 at hz; have := t.isLt; have := b.isLt; have := imm.isLt; have := o.isLt; have := p.isLt; omega
theorem stb (t : VR) (b : BX) (imm : VR) (o : BX) (p : PR) : Statement (.stb t b imm o p) := by
  intro z hz; have hz := Option.some.inj hz; unfold word5 at hz; have := t.isLt; have := b.isLt; have := imm.isLt; have := o.isLt; have := p.isLt; omega
theorem sth (t : VR) (b : BX) (imm : VR) (o : BX) (p : PR) : Statement (.sth t b imm o p) := by
  intro z hz; have hz := Option.some.inj hz; unfold word5 at hz; have := t.isLt; have := b.isLt; have := imm.isLt; have := o.isLt; have := p.isLt; omega
theorem stw (t : VR) (b : BX) (imm : VR) (o : BX) (p : PR) : Statement (.stw t b imm o p) := by
  intro z hz; have hz := Option.some.inj hz; unfold word5 at hz; have := t.isLt; have := b.isLt; have := imm.isLt; have := o.isLt; have := p.isLt; omega
theorem stw2 (t : VR) (b : BX) (imm : VR) (o : BX) (p : PR) : Statement (.stw2 t b imm o p) := by
  intro z hz; have hz := Option.some.inj hz; unfold word5 at hz; have := t.isLt; have := b.isLt; have := imm.isLt; have := o.isLt; have := p.isLt; omega
theorem stw4 (t : VR) (b : BX) (imm : VR) (o : BX) (p : PR) : Statement (.stw4 t b imm o p) := by
  intro z hz; have hz := Option.some.inj hz; unfold word5 at hz; have := t.isLt; have := b.isLt; have := imm.isLt; have := o.isLt; have := p.isLt; omega
theorem aadd (t : VR) (b : BX) (imm : VR) (s : PR) (x : BitVec 1) (p : PR) : Statement (.aadd t b imm s x p) := by
  intro z hz; have hz := Option.some.inj hz; unfold word6 at hz; have := t.isLt; have := b.isLt; have := imm.isLt; have := s.isLt; have := x.isLt; have := p.isLt; omega
theorem aimin (t : VR) (b : BX) (imm : VR) (s : PR) (x : BitVec 1) (p : PR) : Statement (.aimin t b imm s x p) := by
  intro z hz; have hz := Option.some.inj hz; unfold word6 at hz; have := t.isLt; have := b.isLt; have := imm.isLt; have := s.isLt; have := x.isLt; have := p.isLt; omega
theorem aimax (t : VR) (b : BX) (imm : VR) (s : PR) (x : BitVec 1) (p : PR) : Statement (.aimax t b imm s x p) := by
  intro z hz; have hz := Option.some.inj hz; unfold word6 at hz; have := t.isLt; have := b.isLt; have := imm.isLt; have := s.isLt; have := x.isLt; have := p.isLt; omega
theorem aumin (t : VR) (b : BX) (imm : VR) (s : PR) (x : BitVec 1) (p : PR) : Statement (.aumin t b imm s x p) := by
  intro z hz; have hz := Option.some.inj hz; unfold word6 at hz; have := t.isLt; have := b.isLt; have := imm.isLt; have := s.isLt; have := x.isLt; have := p.isLt; omega
theorem aumax (t : VR) (b : BX) (imm : VR) (s : PR) (x : BitVec 1) (p : PR) : Statement (.aumax t b imm s x p) := by
  intro z hz; have hz := Option.some.inj hz; unfold word6 at hz; have := t.isLt; have := b.isLt; have := imm.isLt; have := s.isLt; have := x.isLt; have := p.isLt; omega
theorem aand (t : VR) (b : BX) (imm : VR) (s : PR) (x : BitVec 1) (p : PR) : Statement (.aand t b imm s x p) := by
  intro z hz; have hz := Option.some.inj hz; unfold word6 at hz; have := t.isLt; have := b.isLt; have := imm.isLt; have := s.isLt; have := x.isLt; have := p.isLt; omega
theorem aor (t : VR) (b : BX) (imm : VR) (s : PR) (x : BitVec 1) (p : PR) : Statement (.aor t b imm s x p) := by
  intro z hz; have hz := Option.some.inj hz; unfold word6 at hz; have := t.isLt; have := b.isLt; have := imm.isLt; have := s.isLt; have := x.isLt; have := p.isLt; omega
theorem axor (t : VR) (b : BX) (imm : VR) (s : PR) (x : BitVec 1) (p : PR) : Statement (.axor t b imm s x p) := by
  intro z hz; have hz := Option.some.inj hz; unfold word6 at hz; have := t.isLt; have := b.isLt; have := imm.isLt; have := s.isLt; have := x.isLt; have := p.isLt; omega
theorem axch (t : VR) (b : BX) (imm : VR) (s : PR) (x : BitVec 1) (p : PR) : Statement (.axch t b imm s x p) := by
  intro z hz; have hz := Option.some.inj hz; unfold word6 at hz; have := t.isLt; have := b.isLt; have := imm.isLt; have := s.isLt; have := x.isLt; have := p.isLt; omega
theorem acas (t : VR) (b : BX) (imm : VR) (s : PR) (x : BitVec 1) (p : PR) : Statement (.acas t b imm s x p) := by
  intro z hz; have hz := Option.some.inj hz; unfold word6 at hz; have := t.isLt; have := b.isLt; have := imm.isLt; have := s.isLt; have := x.isLt; have := p.isLt; omega
theorem afadd (t : VR) (b : BX) (imm : VR) (s : PR) (x : BitVec 1) (p : PR) : Statement (.afadd t b imm s x p) := by
  intro z hz; have hz := Option.some.inj hz; unfold word6 at hz; have := t.isLt; have := b.isLt; have := imm.isLt; have := s.isLt; have := x.isLt; have := p.isLt; omega
theorem aor8w (t : VR) (b : BX) (imm : VR) (s : PR) (x : BitVec 1) (p : PR) : Statement (.aor8w t b imm s x p) := by
  intro z hz; have hz := Option.some.inj hz; unfold word6 at hz; have := t.isLt; have := b.isLt; have := imm.isLt; have := s.isLt; have := x.isLt; have := p.isLt; omega
theorem sld (t : VR) (b : BX) (imm : VR) (s : PR) (x : BitVec 1) (p : PR) : Statement (.sld t b imm s x p) := by
  intro z hz; have hz := Option.some.inj hz; unfold word6 at hz; have := t.isLt; have := b.isLt; have := imm.isLt; have := s.isLt; have := x.isLt; have := p.isLt; omega
theorem sst (t : VR) (b : BX) (imm : VR) (s : PR) (x : BitVec 1) (p : PR) : Statement (.sst t b imm s x p) := by
  intro z hz; have hz := Option.some.inj hz; unfold word6 at hz; have := t.isLt; have := b.isLt; have := imm.isLt; have := s.isLt; have := x.isLt; have := p.isLt; omega
theorem fence (s : PR) (a : SR) (b : SR) (k : BitVec 2) : Statement (.fence s a b k) := by
  intro z hz; have hz := Option.some.inj hz; unfold word4 at hz; have := s.isLt; have := a.isLt; have := b.isLt; have := k.isLt; omega
theorem monitor (d : SR) (a : SR) (b : BX) (c : BitVec 5) : Statement (.monitor d a b c) := by
  intro z hz; have hz := Option.some.inj hz; unfold word4 at hz; have := d.isLt; have := a.isLt; have := b.isLt; have := c.isLt; omega
theorem mwait (d : SR) (a : SR) : Statement (.mwait d a) := by
  intro z hz; have hz := Option.some.inj hz; unfold word2 at hz; have := d.isLt; have := a.isLt; omega
theorem mcancel (a : SR) (b : BX) : Statement (.mcancel a b) := by
  intro z hz; have hz := Option.some.inj hz; unfold word2 at hz; have := a.isLt; have := b.isLt; omega
theorem otake (t : VR) (k : VR) (p : PR) : Statement (.otake t k p) := by
  intro z hz; have hz := Option.some.inj hz; unfold word3 at hz; have := t.isLt; have := k.isLt; have := p.isLt; omega
theorem oenter (t : VR) (k : VR) (p : PR) : Statement (.oenter t k p) := by
  intro z hz; have hz := Option.some.inj hz; unfold word3 at hz; have := t.isLt; have := k.isLt; have := p.isLt; omega
theorem oleave (k : VR) (p : PR) : Statement (.oleave k p) := by
  intro z hz; have hz := Option.some.inj hz; unfold word2 at hz; have := k.isLt; have := p.isLt; omega
theorem otry (t : VR) (k : VR) (p : PR) : Statement (.otry t k p) := by
  intro z hz; have hz := Option.some.inj hz; unfold word3 at hz; have := t.isLt; have := k.isLt; have := p.isLt; omega
theorem obase (t : VR) (k : VR) (p : PR) : Statement (.obase t k p) := by
  intro z hz; have hz := Option.some.inj hz; unfold word3 at hz; have := t.isLt; have := k.isLt; have := p.isLt; omega
theorem oclose (k : VR) (p : PR) : Statement (.oclose k p) := by
  intro z hz; have hz := Option.some.inj hz; unfold word2 at hz; have := k.isLt; have := p.isLt; omega
theorem binit (a : VR) (x : BX) (p : PR) : Statement (.binit a x p) := by
  intro z hz; have hz := Option.some.inj hz; unfold word3 at hz; have := a.isLt; have := x.isLt; have := p.isLt; omega
theorem barrive (a : VR) (x : BX) (imm : VR) (p : PR) : Statement (.barrive a x imm p) := by
  intro z hz; have hz := Option.some.inj hz; unfold word4 at hz; have := a.isLt; have := x.isLt; have := imm.isLt; have := p.isLt; omega
theorem bwait (a : VR) (x : BX) (p : PR) : Statement (.bwait a x p) := by
  intro z hz; have hz := Option.some.inj hz; unfold word3 at hz; have := a.isLt; have := x.isLt; have := p.isLt; omega
theorem bsync (x : BX) (p : PR) : Statement (.bsync x p) := by
  intro z hz; have hz := Option.some.inj hz; unfold word2 at hz; have := x.isLt; have := p.isLt; omega
theorem brarrive (a : VR) (x : BX) (imm : SR) (p : PR) : Statement (.brarrive a x imm p) := by
  intro z hz; have hz := Option.some.inj hz; unfold word4 at hz; have := a.isLt; have := x.isLt; have := imm.isLt; have := p.isLt; omega
theorem btest (a : VR) (x : BX) (p : PR) : Statement (.btest a x p) := by
  intro z hz; have hz := Option.some.inj hz; unfold word3 at hz; have := a.isLt; have := x.isLt; have := p.isLt; omega
theorem ropen (a : VR) (o : PR) (p : PR) : Statement (.ropen a o p) := by
  intro z hz; have hz := Option.some.inj hz; unfold word3 at hz; have := a.isLt; have := o.isLt; have := p.isLt; omega
theorem rcontrib (a : VR) (p : PR) : Statement (.rcontrib a p) := by
  intro z hz; have hz := Option.some.inj hz; unfold word2 at hz; have := a.isLt; have := p.isLt; omega
theorem rclose (a : VR) (p : PR) : Statement (.rclose a p) := by
  intro z hz; have hz := Option.some.inj hz; unfold word2 at hz; have := a.isLt; have := p.isLt; omega
theorem sadd (d : SR) (a : SR) (b : B8) : Statement (.sadd d a b) := by
  intro z hz; have hz := Option.some.inj hz; unfold word3 at hz; have := d.isLt; have := a.isLt; have := b.isLt; omega
theorem ssub (d : SR) (a : SR) (b : B8) : Statement (.ssub d a b) := by
  intro z hz; have hz := Option.some.inj hz; unfold word3 at hz; have := d.isLt; have := a.isLt; have := b.isLt; omega
theorem smul (d : SR) (a : SR) (b : B8) : Statement (.smul d a b) := by
  intro z hz; have hz := Option.some.inj hz; unfold word3 at hz; have := d.isLt; have := a.isLt; have := b.isLt; omega
theorem smulhi (d : SR) (a : SR) (b : B8) : Statement (.smulhi d a b) := by
  intro z hz; have hz := Option.some.inj hz; unfold word3 at hz; have := d.isLt; have := a.isLt; have := b.isLt; omega
theorem sumulhi (d : SR) (a : SR) (b : B8) : Statement (.sumulhi d a b) := by
  intro z hz; have hz := Option.some.inj hz; unfold word3 at hz; have := d.isLt; have := a.isLt; have := b.isLt; omega
theorem sand (d : SR) (a : SR) (b : B8) : Statement (.sand d a b) := by
  intro z hz; have hz := Option.some.inj hz; unfold word3 at hz; have := d.isLt; have := a.isLt; have := b.isLt; omega
theorem sor (d : SR) (a : SR) (b : B8) : Statement (.sor d a b) := by
  intro z hz; have hz := Option.some.inj hz; unfold word3 at hz; have := d.isLt; have := a.isLt; have := b.isLt; omega
theorem sxor (d : SR) (a : SR) (b : B8) : Statement (.sxor d a b) := by
  intro z hz; have hz := Option.some.inj hz; unfold word3 at hz; have := d.isLt; have := a.isLt; have := b.isLt; omega
theorem sandn (d : SR) (a : SR) (b : B8) : Statement (.sandn d a b) := by
  intro z hz; have hz := Option.some.inj hz; unfold word3 at hz; have := d.isLt; have := a.isLt; have := b.isLt; omega
theorem sshl (d : SR) (a : SR) (b : B8) : Statement (.sshl d a b) := by
  intro z hz; have hz := Option.some.inj hz; unfold word3 at hz; have := d.isLt; have := a.isLt; have := b.isLt; omega
theorem sshr (d : SR) (a : SR) (b : B8) : Statement (.sshr d a b) := by
  intro z hz; have hz := Option.some.inj hz; unfold word3 at hz; have := d.isLt; have := a.isLt; have := b.isLt; omega
theorem ssar (d : SR) (a : SR) (b : B8) : Statement (.ssar d a b) := by
  intro z hz; have hz := Option.some.inj hz; unfold word3 at hz; have := d.isLt; have := a.isLt; have := b.isLt; omega
theorem smin (d : SR) (a : SR) (b : B8) : Statement (.smin d a b) := by
  intro z hz; have hz := Option.some.inj hz; unfold word3 at hz; have := d.isLt; have := a.isLt; have := b.isLt; omega
theorem smax (d : SR) (a : SR) (b : B8) : Statement (.smax d a b) := by
  intro z hz; have hz := Option.some.inj hz; unfold word3 at hz; have := d.isLt; have := a.isLt; have := b.isLt; omega
theorem sumin (d : SR) (a : SR) (b : B8) : Statement (.sumin d a b) := by
  intro z hz; have hz := Option.some.inj hz; unfold word3 at hz; have := d.isLt; have := a.isLt; have := b.isLt; omega
theorem sumax (d : SR) (a : SR) (b : B8) : Statement (.sumax d a b) := by
  intro z hz; have hz := Option.some.inj hz; unfold word3 at hz; have := d.isLt; have := a.isLt; have := b.isLt; omega
theorem smov (d : SR) (b : B8) : Statement (.smov d b) := by
  intro z hz; have hz := Option.some.inj hz; unfold word2 at hz; have := d.isLt; have := b.isLt; omega
theorem snot (d : SR) (b : B8) : Statement (.snot d b) := by
  intro z hz; have hz := Option.some.inj hz; unfold word2 at hz; have := d.isLt; have := b.isLt; omega
theorem sclz (d : SR) (b : B8) : Statement (.sclz d b) := by
  intro z hz; have hz := Option.some.inj hz; unfold word2 at hz; have := d.isLt; have := b.isLt; omega
theorem sctz (d : SR) (b : B8) : Statement (.sctz d b) := by
  intro z hz; have hz := Option.some.inj hz; unfold word2 at hz; have := d.isLt; have := b.isLt; omega
theorem spopc (d : SR) (b : B8) : Statement (.spopc d b) := by
  intro z hz; have hz := Option.some.inj hz; unfold word2 at hz; have := d.isLt; have := b.isLt; omega
theorem sbfe (d : SR) (a : SR) (b : B8) : Statement (.sbfe d a b) := by
  intro z hz; have hz := Option.some.inj hz; unfold word3 at hz; have := d.isLt; have := a.isLt; have := b.isLt; omega
theorem ssext32 (d : SR) (b : B8) : Statement (.ssext32 d b) := by
  intro z hz; have hz := Option.some.inj hz; unfold word2 at hz; have := d.isLt; have := b.isLt; omega
theorem szext32 (d : SR) (b : B8) : Statement (.szext32 d b) := by
  intro z hz; have hz := Option.some.inj hz; unfold word2 at hz; have := d.isLt; have := b.isLt; omega
theorem sdiv (d : SR) (a : SR) (b : B8) : Statement (.sdiv d a b) := by
  intro z hz; have hz := Option.some.inj hz; unfold word3 at hz; have := d.isLt; have := a.isLt; have := b.isLt; omega
theorem sdivu (d : SR) (a : SR) (b : B8) : Statement (.sdivu d a b) := by
  intro z hz; have hz := Option.some.inj hz; unfold word3 at hz; have := d.isLt; have := a.isLt; have := b.isLt; omega
theorem srem (d : SR) (a : SR) (b : B8) : Statement (.srem d a b) := by
  intro z hz; have hz := Option.some.inj hz; unfold word3 at hz; have := d.isLt; have := a.isLt; have := b.isLt; omega
theorem sremu (d : SR) (a : SR) (b : B8) : Statement (.sremu d a b) := by
  intro z hz; have hz := Option.some.inj hz; unfold word3 at hz; have := d.isLt; have := a.isLt; have := b.isLt; omega
theorem sseq (d : SR) (a : SR) (b : B8) : Statement (.sseq d a b) := by
  intro z hz; have hz := Option.some.inj hz; unfold word3 at hz; have := d.isLt; have := a.isLt; have := b.isLt; omega
theorem sne (d : SR) (a : SR) (b : B8) : Statement (.sne d a b) := by
  intro z hz; have hz := Option.some.inj hz; unfold word3 at hz; have := d.isLt; have := a.isLt; have := b.isLt; omega
theorem slt (d : SR) (a : SR) (b : B8) : Statement (.slt d a b) := by
  intro z hz; have hz := Option.some.inj hz; unfold word3 at hz; have := d.isLt; have := a.isLt; have := b.isLt; omega
theorem sle (d : SR) (a : SR) (b : B8) : Statement (.sle d a b) := by
  intro z hz; have hz := Option.some.inj hz; unfold word3 at hz; have := d.isLt; have := a.isLt; have := b.isLt; omega
theorem sltu (d : SR) (a : SR) (b : B8) : Statement (.sltu d a b) := by
  intro z hz; have hz := Option.some.inj hz; unfold word3 at hz; have := d.isLt; have := a.isLt; have := b.isLt; omega
theorem sleu (d : SR) (a : SR) (b : B8) : Statement (.sleu d a b) := by
  intro z hz; have hz := Option.some.inj hz; unfold word3 at hz; have := d.isLt; have := a.isLt; have := b.isLt; omega
theorem ssel (d : SR) (a : SR) (b : B8) : Statement (.ssel d a b) := by
  intro z hz; have hz := Option.some.inj hz; unfold word3 at hz; have := d.isLt; have := a.isLt; have := b.isLt; omega
theorem sldw (d : SR) (a : SR) (b : BX) (imm : BitVec 5) : Statement (.sldw d a b imm) := by
  intro z hz; have hz := Option.some.inj hz; unfold word4 at hz; have := d.isLt; have := a.isLt; have := b.isLt; have := imm.isLt; omega
theorem sldd (d : SR) (a : SR) (b : BX) (imm : BitVec 5) : Statement (.sldd d a b imm) := by
  intro z hz; have hz := Option.some.inj hz; unfold word4 at hz; have := d.isLt; have := a.isLt; have := b.isLt; have := imm.isLt; omega
theorem sstw (d : SR) (a : SR) (b : BX) (imm : BitVec 5) : Statement (.sstw d a b imm) := by
  intro z hz; have hz := Option.some.inj hz; unfold word4 at hz; have := d.isLt; have := a.isLt; have := b.isLt; have := imm.isLt; omega
theorem sstd (d : SR) (a : SR) (b : BX) (imm : BitVec 5) : Statement (.sstd d a b imm) := by
  intro z hz; have hz := Option.some.inj hz; unfold word4 at hz; have := d.isLt; have := a.isLt; have := b.isLt; have := imm.isLt; omega
theorem sldwa (d : SR) (a : SR) (b : BX) (imm : BitVec 5) : Statement (.sldwa d a b imm) := by
  intro z hz; have hz := Option.some.inj hz; unfold word4 at hz; have := d.isLt; have := a.isLt; have := b.isLt; have := imm.isLt; omega
theorem sstdr (d : SR) (a : SR) (b : BX) (imm : BitVec 5) : Statement (.sstdr d a b imm) := by
  intro z hz; have hz := Option.some.inj hz; unfold word4 at hz; have := d.isLt; have := a.isLt; have := b.isLt; have := imm.isLt; omega
theorem sget (d : SR) (n : B8) : Statement (.sget d n) := by
  intro z hz; have hz := Option.some.inj hz; unfold word2 at hz; have := d.isLt; have := n.isLt; omega
theorem sset (a : SR) (n : B8) : Statement (.sset a n) := by
  intro z hz; have hz := Option.some.inj hz; unfold word2 at hz; have := a.isLt; have := n.isLt; omega
theorem sreadv (d : SR) (a : SR) (v : B8) : Statement (.sreadv d a v) := by
  intro z hz; have hz := Option.some.inj hz; unfold word3 at hz; have := d.isLt; have := a.isLt; have := v.isLt; omega
theorem sreadp (d : SR) (n : B8) : Statement (.sreadp d n) := by
  intro z hz; have hz := Option.some.inj hz; unfold word2 at hz; have := d.isLt; have := n.isLt; omega
theorem sfadd (d : SR) (a : SR) (b : B8) : Statement (.sfadd d a b) := by
  intro z hz; have hz := Option.some.inj hz; unfold word3 at hz; have := d.isLt; have := a.isLt; have := b.isLt; omega
theorem sfsub (d : SR) (a : SR) (b : B8) : Statement (.sfsub d a b) := by
  intro z hz; have hz := Option.some.inj hz; unfold word3 at hz; have := d.isLt; have := a.isLt; have := b.isLt; omega
theorem sfmul (d : SR) (a : SR) (b : B8) : Statement (.sfmul d a b) := by
  intro z hz; have hz := Option.some.inj hz; unfold word3 at hz; have := d.isLt; have := a.isLt; have := b.isLt; omega
theorem sffma (d : SR) (a : SR) (b : B8) : Statement (.sffma d a b) := by
  intro z hz; have hz := Option.some.inj hz; unfold word3 at hz; have := d.isLt; have := a.isLt; have := b.isLt; omega
theorem sfmin (d : SR) (a : SR) (b : B8) : Statement (.sfmin d a b) := by
  intro z hz; have hz := Option.some.inj hz; unfold word3 at hz; have := d.isLt; have := a.isLt; have := b.isLt; omega
theorem sfmax (d : SR) (a : SR) (b : B8) : Statement (.sfmax d a b) := by
  intro z hz; have hz := Option.some.inj hz; unfold word3 at hz; have := d.isLt; have := a.isLt; have := b.isLt; omega
theorem sfcvtfi (d : SR) (b : B8) : Statement (.sfcvtfi d b) := by
  intro z hz; have hz := Option.some.inj hz; unfold word2 at hz; have := d.isLt; have := b.isLt; omega
theorem sfcvtif (d : SR) (b : B8) : Statement (.sfcvtif d b) := by
  intro z hz; have hz := Option.some.inj hz; unfold word2 at hz; have := d.isLt; have := b.isLt; omega
theorem sflt (d : SR) (a : SR) (b : B8) : Statement (.sflt d a b) := by
  intro z hz; have hz := Option.some.inj hz; unfold word3 at hz; have := d.isLt; have := a.isLt; have := b.isLt; omega
theorem sfeq (d : SR) (a : SR) (b : B8) : Statement (.sfeq d a b) := by
  intro z hz; have hz := Option.some.inj hz; unfold word3 at hz; have := d.isLt; have := a.isLt; have := b.isLt; omega
theorem sfrcp (d : SR) (b : B8) : Statement (.sfrcp d b) := by
  intro z hz; have hz := Option.some.inj hz; unfold word2 at hz; have := d.isLt; have := b.isLt; omega
theorem sbyte (d : SR) (b : B8) : Statement (.sbyte d b) := by
  intro z hz; have hz := Option.some.inj hz; unfold word2 at hz; have := d.isLt; have := b.isLt; omega
theorem mldw (a : VR) (p : PR) : Statement (.mldw a p) := by
  intro z hz; have hz := Option.some.inj hz; unfold word2 at hz; have := a.isLt; have := p.isLt; omega
theorem mswap (p : PR) : Statement (.mswap p) := by
  intro z hz; have hz := Option.some.inj hz; unfold word1 at hz; have := p.isLt; omega
theorem mstream (a : VR) (p : PR) : Statement (.mstream a p) := by
  intro z hz; have hz := Option.some.inj hz; unfold word2 at hz; have := a.isLt; have := p.isLt; omega
theorem mdrain (p : PR) : Statement (.mdrain p) := by
  intro z hz; have hz := Option.some.inj hz; unfold word1 at hz; have := p.isLt; omega
theorem cpload (a : VR) (p : PR) : Statement (.cpload a p) := by
  intro z hz; have hz := Option.some.inj hz; unfold word2 at hz; have := a.isLt; have := p.isLt; omega
theorem cploadm (a : VR) (p : PR) : Statement (.cploadm a p) := by
  intro z hz; have hz := Option.some.inj hz; unfold word2 at hz; have := a.isLt; have := p.isLt; omega
theorem cpstore (a : VR) (p : PR) : Statement (.cpstore a p) := by
  intro z hz; have hz := Option.some.inj hz; unfold word2 at hz; have := a.isLt; have := p.isLt; omega
theorem cpgath (a : VR) (p : PR) : Statement (.cpgath a p) := by
  intro z hz; have hz := Option.some.inj hz; unfold word2 at hz; have := a.isLt; have := p.isLt; omega
theorem cpscat (a : VR) (p : PR) : Statement (.cpscat a p) := by
  intro z hz; have hz := Option.some.inj hz; unfold word2 at hz; have := a.isLt; have := p.isLt; omega
theorem cpcommit (p : PR) : Statement (.cpcommit p) := by
  intro z hz; have hz := Option.some.inj hz; unfold word1 at hz; have := p.isLt; omega
theorem cpwait (n : VR) (p : PR) : Statement (.cpwait n p) := by
  intro z hz; have hz := Option.some.inj hz; unfold word2 at hz; have := n.isLt; have := p.isLt; omega
theorem qappend (a : VR) (e : PR) (c : BX) (p : PR) : Statement (.qappend a e c p) := by
  intro z hz; have hz := Option.some.inj hz; unfold word4 at hz; have := a.isLt; have := e.isLt; have := c.isLt; have := p.isLt; omega
theorem qappendl (a : VR) (e : PR) (c : BX) (p : PR) : Statement (.qappendl a e c p) := by
  intro z hz; have hz := Option.some.inj hz; unfold word4 at hz; have := a.isLt; have := e.isLt; have := c.isLt; have := p.isLt; omega
theorem qrsv (a : VR) (e : PR) (n : B8) (p : PR) : Statement (.qrsv a e n p) := by
  intro z hz; have hz := Option.some.inj hz; unfold word4 at hz; have := a.isLt; have := e.isLt; have := n.isLt; have := p.isLt; omega
theorem qflush (e : PR) (p : PR) : Statement (.qflush e p) := by
  intro z hz; have hz := Option.some.inj hz; unfold word2 at hz; have := e.isLt; have := p.isLt; omega
theorem qleft (a : VR) (e : PR) (p : PR) : Statement (.qleft a e p) := by
  intro z hz; have hz := Option.some.inj hz; unfold word3 at hz; have := a.isLt; have := e.isLt; have := p.isLt; omega
theorem glaunch (a : VR) (p : PR) : Statement (.glaunch a p) := by
  intro z hz; have hz := Option.some.inj hz; unfold word2 at hz; have := a.isLt; have := p.isLt; omega
theorem gcancel (a : VR) (p : PR) : Statement (.gcancel a p) := by
  intro z hz; have hz := Option.some.inj hz; unfold word2 at hz; have := a.isLt; have := p.isLt; omega
theorem gstatus (a : VR) (p : PR) : Statement (.gstatus a p) := by
  intro z hz; have hz := Option.some.inj hz; unfold word2 at hz; have := a.isLt; have := p.isLt; omega
theorem bra (d : B8) (p : PR) : Statement (.bra d p) := by
  intro z hz; have hz := Option.some.inj hz; unfold word2 at hz; have := d.isLt; have := p.isLt; omega
theorem braZ (d : B8) (s : SR) (p : PR) : Statement (.braZ d s p) := by
  intro z hz; have hz := Option.some.inj hz; unfold word3 at hz; have := d.isLt; have := s.isLt; have := p.isLt; omega
theorem braNz (d : B8) (s : SR) (p : PR) : Statement (.braNz d s p) := by
  intro z hz; have hz := Option.some.inj hz; unfold word3 at hz; have := d.isLt; have := s.isLt; have := p.isLt; omega
theorem braLt (d : B8) (s : SR) (p : PR) : Statement (.braLt d s p) := by
  intro z hz; have hz := Option.some.inj hz; unfold word3 at hz; have := d.isLt; have := s.isLt; have := p.isLt; omega
theorem braGe (d : B8) (s : SR) (p : PR) : Statement (.braGe d s p) := by
  intro z hz; have hz := Option.some.inj hz; unfold word3 at hz; have := d.isLt; have := s.isLt; have := p.isLt; omega
theorem brk (k : SR) (p : PR) : Statement (.brk k p) := by
  intro z hz; have hz := Option.some.inj hz; unfold word2 at hz; have := k.isLt; have := p.isLt; omega
theorem jmpv (a : VR) (p : PR) : Statement (.jmpv a p) := by
  intro z hz; have hz := Option.some.inj hz; unfold word2 at hz; have := a.isLt; have := p.isLt; omega
theorem callDisp (d : B8) (a : VR) (p : PR) : Statement (.callDisp d a p) := by
  intro z hz; have hz := Option.some.inj hz; unfold word3 at hz; have := d.isLt; have := a.isLt; have := p.isLt; omega
theorem callk (k : SR) (a : VR) (p : PR) : Statement (.callk k a p) := by
  intro z hz; have hz := Option.some.inj hz; unfold word3 at hz; have := k.isLt; have := a.isLt; have := p.isLt; omega
theorem icall (a : VR) (p : PR) : Statement (.icall a p) := by
  intro z hz; have hz := Option.some.inj hz; unfold word2 at hz; have := a.isLt; have := p.isLt; omega
theorem retLink (a : VR) (p : PR) : Statement (.retLink a p) := by
  intro z hz; have hz := Option.some.inj hz; unfold word2 at hz; have := a.isLt; have := p.isLt; omega
theorem markPush (d : B8) : Statement (.markPush d) := by
  intro z hz; have hz := Option.some.inj hz; unfold word1 at hz; have := d.isLt; omega
theorem enrol (j : PR) : Statement (.enrol j) := by
  intro z hz; have hz := Option.some.inj hz; unfold word1 at hz; have := j.isLt; omega
theorem rejoin (j : PR) : Statement (.rejoin j) := by
  intro z hz; have hz := Option.some.inj hz; unfold word1 at hz; have := j.isLt; omega
theorem strike (j : PR) : Statement (.strike j) := by
  intro z hz; have hz := Option.some.inj hz; unfold word1 at hz; have := j.isLt; omega
theorem jclr (j : PR) : Statement (.jclr j) := by
  intro z hz; have hz := Option.some.inj hz; unfold word1 at hz; have := j.isLt; omega
theorem sbwait (m : SR) : Statement (.sbwait m) := by
  intro z hz; have hz := Option.some.inj hz; unfold word1 at hz; have := m.isLt; omega
theorem fdecl (n : B8) : Statement (.fdecl n) := by
  intro z hz; have hz := Option.some.inj hz; unfold word1 at hz; have := n.isLt; omega
theorem vfpush (a : VR) (x : BX) (p : PR) : Statement (.vfpush a x p) := by
  intro z hz; have hz := Option.some.inj hz; unfold word3 at hz; have := a.isLt; have := x.isLt; have := p.isLt; omega
theorem vfpop (d : SR) : Statement (.vfpop d) := by
  intro z hz; have hz := Option.some.inj hz; unfold word1 at hz; have := d.isLt; omega
theorem vffree (d : SR) : Statement (.vffree d) := by
  intro z hz; have hz := Option.some.inj hz; unfold word1 at hz; have := d.isLt; omega
theorem qpush (a : VR) (q : BX) (p : PR) : Statement (.qpush a q p) := by
  intro z hz; have hz := Option.some.inj hz; unfold word3 at hz; have := a.isLt; have := q.isLt; have := p.isLt; omega
theorem qpop (a : VR) (q : BX) (x : BitVec 2) (p : PR) : Statement (.qpop a q x p) := by
  intro z hz; have hz := Option.some.inj hz; unfold word4 at hz; have := a.isLt; have := q.isLt; have := x.isLt; have := p.isLt; omega
theorem qpeek (a : VR) (q : BX) (x : BitVec 2) (p : PR) : Statement (.qpeek a q x p) := by
  intro z hz; have hz := Option.some.inj hz; unfold word4 at hz; have := a.isLt; have := q.isLt; have := x.isLt; have := p.isLt; omega
theorem qlevel (a : VR) (q : BX) (p : PR) : Statement (.qlevel a q p) := by
  intro z hz; have hz := Option.some.inj hz; unfold word3 at hz; have := a.isLt; have := q.isLt; have := p.isLt; omega
theorem treq (d : SR) (a : SR) : Statement (.treq d a) := by
  intro z hz; have hz := Option.some.inj hz; unfold word2 at hz; have := d.isLt; have := a.isLt; omega
theorem tstat (d : SR) : Statement (.tstat d) := by
  intro z hz; have hz := Option.some.inj hz; unfold word1 at hz; have := d.isLt; omega
theorem phint (c : BitVec 2) : Statement (.phint c) := by
  intro z hz; have hz := Option.some.inj hz; unfold word1 at hz; have := c.isLt; omega
theorem pgate (d : SR) (a : SR) : Statement (.pgate d a) := by
  intro z hz; have hz := Option.some.inj hz; unfold word2 at hz; have := d.isLt; have := a.isLt; omega
theorem pungate (d : SR) (a : SR) : Statement (.pungate d a) := by
  intro z hz; have hz := Option.some.inj hz; unfold word2 at hz; have := d.isLt; have := a.isLt; omega
theorem pvf (d : SR) (a : SR) : Statement (.pvf d a) := by
  intro z hz; have hz := Option.some.inj hz; unfold word2 at hz; have := d.isLt; have := a.isLt; omega
theorem trapi (c : B8) : Statement (.trapi c) := by
  intro z hz; have hz := Option.some.inj hz; unfold word1 at hz; have := c.isLt; omega
theorem tpred (d : PR) (p : PR) : Statement (.tpred d p) := by
  intro z hz; have hz := Option.some.inj hz; unfold word2 at hz; have := d.isLt; have := p.isLt; omega
theorem pref (l : BitVec 2) (n : SR) : Statement (.pref l n) := by
  intro z hz; have hz := Option.some.inj hz; unfold word2 at hz; have := l.isLt; have := n.isLt; omega
theorem clock (s : BitVec 2) (n : SR) : Statement (.clock s n) := by
  intro z hz; have hz := Option.some.inj hz; unfold word2 at hz; have := s.isLt; have := n.isLt; omega
theorem sleep (c : B8) : Statement (.sleep c) := by
  intro z hz; have hz := Option.some.inj hz; unfold word1 at hz; have := c.isLt; omega
theorem brkpt (c : B8) : Statement (.brkpt c) := by
  intro z hz; have hz := Option.some.inj hz; unfold word1 at hz; have := c.isLt; omega
theorem joinLanes : Statement .joinLanes := by
  intro z hz; have hz := Option.some.inj hz; unfold word0 at hz; omega
theorem reform : Statement .reform := by
  intro z hz; have hz := Option.some.inj hz; unfold word0 at hz; omega
theorem exitLanes : Statement .exitLanes := by
  intro z hz; have hz := Option.some.inj hz; unfold word0 at hz; omega
theorem yield : Statement .yield := by
  intro z hz; have hz := Option.some.inj hz; unfold word0 at hz; omega
theorem tretRetry : Statement .tretRetry := by
  intro z hz; have hz := Option.some.inj hz; unfold word0 at hz; omega
theorem tretAdvance : Statement .tretAdvance := by
  intro z hz; have hz := Option.some.inj hz; unfold word0 at hz; omega
theorem tretSkiplanes : Statement .tretSkiplanes := by
  intro z hz; have hz := Option.some.inj hz; unfold word0 at hz; omega
theorem nop : Statement .nop := by
  intro z hz; have hz := Option.some.inj hz; unfold word0 at hz; omega
theorem sleepEnd : Statement .sleepEnd := by intro z hz; cases hz
theorem resultArrival : Statement .resultArrival := by intro z hz; cases hz
theorem faultRouting : Statement .faultRouting := by intro z hz; cases hz
theorem watchdog : Statement .watchdog := by intro z hz; cases hz
theorem fsvcreplyResume : Statement .fsvcreplyResume := by intro z hz; cases hz
theorem fsvcreplyKill : Statement .fsvcreplyKill := by intro z hz; cases hz
theorem recordArrival : Statement .recordArrival := by intro z hz; cases hz
theorem batchageExpiry : Statement .batchageExpiry := by intro z hz; cases hz
theorem placement : Statement .placement := by intro z hz; cases hz
theorem rtWindowStart : Statement .rtWindowStart := by intro z hz; cases hz
theorem reformBinClose : Statement .reformBinClose := by intro z hz; cases hz
theorem waveRetirement : Statement .waveRetirement := by intro z hz; cases hz
theorem drainingStreamTimeout : Statement .drainingStreamTimeout := by intro z hz; cases hz
theorem runCompletion : Statement .runCompletion := by intro z hz; cases hz
theorem phaseStart : Statement .phaseStart := by intro z hz; cases hz
theorem runLaunch : Statement .runLaunch := by intro z hz; cases hz
theorem laneKill : Statement .laneKill := by intro z hz; cases hz
theorem rootQueueBind : Statement .rootQueueBind := by intro z hz; cases hz
theorem spillTimeout : Statement .spillTimeout := by intro z hz; cases hz
theorem splitChange : Statement .splitChange := by intro z hz; cases hz
theorem waitSaveTimeout : Statement .waitSaveTimeout := by intro z hz; cases hz
theorem contextSave : Statement .contextSave := by intro z hz; cases hz
theorem contextRestore : Statement .contextRestore := by intro z hz; cases hz
theorem memoryPacket : Statement .memoryPacket := by intro z hz; cases hz
theorem pageWalk : Statement .pageWalk := by intro z hz; cases hz
theorem shortStoreWaitEnd : Statement .shortStoreWaitEnd := by intro z hz; cases hz
theorem promotionRequest : Statement .promotionRequest := by intro z hz; cases hz
theorem promotionReply : Statement .promotionReply := by intro z hz; cases hz
theorem mwaitTimeout : Statement .mwaitTimeout := by intro z hz; cases hz
theorem keystoneRequest : Statement .keystoneRequest := by intro z hz; cases hz
theorem sectionStall : Statement .sectionStall := by intro z hz; cases hz
theorem barrierRequest : Statement .barrierRequest := by intro z hz; cases hz
theorem reductionRequest : Statement .reductionRequest := by intro z hz; cases hz
theorem engineCommandArrival : Statement .engineCommandArrival := by intro z hz; cases hz
theorem mldwFinish : Statement .mldwFinish := by intro z hz; cases hz
theorem mswapEffect : Statement .mswapEffect := by intro z hz; cases hz
theorem streamStart : Statement .streamStart := by intro z hz; cases hz
theorem matrixRowFinish : Statement .matrixRowFinish := by intro z hz; cases hz
theorem copyCompletion : Statement .copyCompletion := by intro z hz; cases hz
theorem multicastDelivery : Statement .multicastDelivery := by intro z hz; cases hz
theorem vfifoEntryAvailable : Statement .vfifoEntryAvailable := by intro z hz; cases hz
theorem vfifoBeatFail : Statement .vfifoBeatFail := by intro z hz; cases hz
theorem vfifoRepairComplete : Statement .vfifoRepairComplete := by intro z hz; cases hz
theorem linkTurnEnd : Statement .linkTurnEnd := by intro z hz; cases hz
theorem leaseTimeout : Statement .leaseTimeout := by intro z hz; cases hz
theorem flitReceive : Statement .flitReceive := by intro z hz; cases hz
theorem linkRecalibration : Statement .linkRecalibration := by intro z hz; cases hz
theorem recalibrationEnd : Statement .recalibrationEnd := by intro z hz; cases hz
theorem dieParkComplete : Statement .dieParkComplete := by intro z hz; cases hz
theorem railOff : Statement .railOff := by intro z hz; cases hz
theorem railReady : Statement .railReady := by intro z hz; cases hz
theorem sliceLeave : Statement .sliceLeave := by intro z hz; cases hz
theorem sliceJoin : Statement .sliceJoin := by intro z hz; cases hz
theorem bankRetirement : Statement .bankRetirement := by intro z hz; cases hz
theorem gainCellRefresh : Statement .gainCellRefresh := by intro z hz; cases hz
theorem patrolScrub : Statement .patrolScrub := by intro z hz; cases hz
theorem plumbTick : Statement .plumbTick := by intro z hz; cases hz
theorem vfChangeComplete : Statement .vfChangeComplete := by intro z hz; cases hz
theorem retentionEntry : Statement .retentionEntry := by intro z hz; cases hz
theorem hardwareTrip : Statement .hardwareTrip := by intro z hz; cases hz
theorem heartbeatMiss : Statement .heartbeatMiss := by intro z hz; cases hz
theorem warmReset : Statement .warmReset := by intro z hz; cases hz
theorem powerOnReset : Statement .powerOnReset := by intro z hz; cases hz
theorem bootImage : Statement .bootImage := by intro z hz; cases hz
theorem flashReadTimeout : Statement .flashReadTimeout := by intro z hz; cases hz
theorem setvf : Statement .setvf := by intro z hz; cases hz
theorem setcap : Statement .setcap := by intro z hz; cases hz
theorem measure : Statement .measure := by intro z hz; cases hz
theorem quote : Statement .quote := by intro z hz; cases hz
theorem telemetry : Statement .telemetry := by intro z hz; cases hz
theorem flashRead : Statement .flashRead := by intro z hz; cases hz
theorem flashProgram : Statement .flashProgram := by intro z hz; cases hz
theorem flashReboot : Statement .flashReboot := by intro z hz; cases hz
theorem cornerread : Statement .cornerread := by intro z hz; cases hz
theorem mailboxCompletion : Statement .mailboxCompletion := by intro z hz; cases hz
theorem rqtailWrite : Statement .rqtailWrite := by intro z hz; cases hz
theorem rqbaseWrite : Statement .rqbaseWrite := by intro z hz; cases hz
theorem rqsizeWrite : Statement .rqsizeWrite := by intro z hz; cases hz
theorem hostBar2Access : Statement .hostBar2Access := by intro z hz; cases hz
theorem registerWrite : Statement .registerWrite := by intro z hz; cases hz
theorem slotcmdPhase : Statement .slotcmdPhase := by intro z hz; cases hz
theorem slotcmdJob : Statement .slotcmdJob := by intro z hz; cases hz
theorem invctlGo : Statement .invctlGo := by intro z hz; cases hz
theorem invalidationComplete : Statement .invalidationComplete := by intro z hz; cases hz
theorem l1modeWrite : Statement .l1modeWrite := by intro z hz; cases hz
theorem l1modeChangeComplete : Statement .l1modeChangeComplete := by intro z hz; cases hz
theorem pmcselWrite : Statement .pmcselWrite := by intro z hz; cases hz
theorem pmcClear : Statement .pmcClear := by intro z hz; cases hz
theorem mlpartWrite : Statement .mlpartWrite := by intro z hz; cases hz
theorem partitionChangeComplete : Statement .partitionChangeComplete := by intro z hz; cases hz
theorem mlremapWrite : Statement .mlremapWrite := by intro z hz; cases hz
theorem remapComplete : Statement .remapComplete := by intro z hz; cases hz
theorem cmcfgWrite : Statement .cmcfgWrite := by intro z hz; cases hz
theorem cmheadWrite : Statement .cmheadWrite := by intro z hz; cases hz
theorem layergateReqWrite : Statement .layergateReqWrite := by intro z hz; cases hz
theorem binGroup : Statement .binGroup := by intro z hz; cases hz
theorem viewportClose : Statement .viewportClose := by intro z hz; cases hz
theorem tileFill : Statement .tileFill := by intro z hz; cases hz
theorem tileVisibility : Statement .tileVisibility := by intro z hz; cases hz
theorem classifierEmit : Statement .classifierEmit := by intro z hz; cases hz
theorem tileWriteback : Statement .tileWriteback := by intro z hz; cases hz
theorem rayBatch : Statement .rayBatch := by intro z hz; cases hz
theorem rayResult : Statement .rayResult := by intro z hz; cases hz
theorem matrixNodeBatch : Statement .matrixNodeBatch := by intro z hz; cases hz
theorem matrixNodeResult : Statement .matrixNodeResult := by intro z hz; cases hz
theorem packetAcknowledgement : Statement .packetAcknowledgement := by intro z hz; cases hz
theorem turnWaitEnd : Statement .turnWaitEnd := by intro z hz; cases hz
theorem voltageRampEnd : Statement .voltageRampEnd := by intro z hz; cases hz

end Sys2Proof.Laws.WordFits
end

