-- ==== Sys2Proof/Tests/Slice0.lean ====
section
/-! SUPPORT. Tests of the model: ill-formed terms that the check refuses, words written out from the encoding tables of the
spec, single steps, and for each statement with hypotheses a state and operands that meet them. -/

namespace Sys2Proof.Tests

open Sys2Proof Sys2Proof.Machine

-- One theorem at a time: their kernel evaluations wait for one another.
set_option Elab.async false

/-! ### Operand values that no word may hold (Table 17-3) -/

/-- A destination predicate of 0, a condition or an aux value not listed, an unassigned conversion (R156, R165). -/
theorem test_wf_predicates : ∀ i ∈ [Instr.fcmp 0 0 1 2 0, .fcmp 1 8 1 2 0, .icmp 0 0 1 2 0, .icmp 1 10 1 2 0, .pand 0 1 1 0, .por 0 1 1 0,
    .pxor 0 1 1 0, .pnot 0 1 0, .pmov 0 1 0, .pset 0 0, .pclr 0 0, .pleader 0 1 0, .tpred 0 0, .cvt 1 2 20 0 0, .cvt 1 2 0 4 0,
    .cvt 1 2 2 1 0, .cvt 1 2 6 1 0, .cvt 1 2 12 2 0, .redMin 1 2 3 0, .redMax 1 2 3 0, .scanAdd 1 2 2 0, .ballot 1 2 2 0],
    i.wellFormed = false := by decide

/-- A run of registers past v127, a reserved scope, a field out of its range (R155, R160). -/
theorem test_wf_ranges : ∀ i ∈ [Instr.ldw2 127 0 0 0 0, .ldw4 125 0 0 0 0, .stw2 127 0 0 0 0, .stw4 125 0 0 0 0, .acas 127 0 0 0 0 0,
    .acas 0 0 0 6 0 0, .aor8w 121 0 0 0 0 0, .aadd 0 0 0 6 0 0, .sld 0 0 0 7 0 0, .sst 0 0 0 6 0 0, .fence 6 1 1 0, .monitor 0 0 0 5,
    .otake 0 127 0, .oenter 0 127 0, .oleave 127 0, .otry 0 127 0, .obase 0 127 0, .oclose 127 0, .barrive 1 0 0 0, .ropen 123 0 0,
    .ropen 0 6 0, .rcontrib 126 0, .rclose 127 0, .sset 0 0x1C, .sset 0 0xC0, .sreadv 0 0 128, .sreadp 0 8, .cpload 124 0, .cploadm 124 0,
    .cpstore 124 0, .cpgath 124 0, .cpscat 124 0, .cpwait 16 0, .qrsv 0 0 0 0, .glaunch 127 0, .gcancel 127 0, .gstatus 127 0, .vfpop 57,
    .pref 2 0, .clock 2 0], i.wellFormed = false := by decide

/-! ### Words written out from Tables 7-3 and 7-5 to 7-9, each field with a bit pattern of its own -/

/-- Words of the vector words (Table 7-5). -/
def decodeVector1 : List (Word × Instr) := [
  (0x0165A4B3, .fadd 89 52 150 3), (0x0365A4B3, .fsub 89 52 150 3), (0x0565A4B3, .fmul 89 52 150 3),
  (0x0765A4B3, .ffma 89 52 150 3), (0x0965A4B3, .ffnma 89 52 150 3), (0x0B65A4B3, .fmin 89 52 150 3),
  (0x0D65A4B3, .fmax 89 52 150 3), (0x0F65A4B3, .fdot2 89 52 150 3), (0x1165A4B3, .fscale 89 52 150 3),
  (0x1365A005, .rcp 89 52 5), (0x1365A045, .rsq 89 52 5), (0x1365A085, .sqrt 89 52 5),
  (0x1365A0C5, .exp2 89 52 5), (0x1365A105, .log2 89 52 5), (0x1365A145, .sin 89 52 5),
  (0x1365A185, .cos 89 52 5), (0x1365A1C5, .tanh 89 52 5), (0x1565A005, .floor 89 52 5),
  (0x1565A045, .ceil 89 52 5), (0x1565A085, .trunc 89 52 5), (0x1565A0C5, .rint 89 52 5),
  (0x1565A105, .fract 89 52 5), (0x175ACB4D, .fcmp 5 6 89 105 5), (0x1965A005, .fabs 89 52 5),
  (0x1965A045, .fneg 89 52 5), (0x1965A085, .fclass 89 52 5), (0x1965A0C5, .fsat 89 52 5),
  (0x1B65A4B3, .fcopysign 89 52 150 3), (0x1D65A28D, .cvt 89 52 10 1 5), (0x1F65A4B3, .cvtpk 89 52 150 3),
  (0x2165A4B3, .iadd 89 52 150 3), (0x2365A4B3, .isub 89 52 150 3), (0x2565A4B3, .imul 89 52 150 3),
  (0x2765A4B3, .imulhi 89 52 150 3), (0x2965A4B3, .umulhi 89 52 150 3), (0x2B65A4B3, .imad 89 52 150 3),
  (0x2D65A4B3, .imin 89 52 150 3), (0x2F65A4B3, .imax 89 52 150 3), (0x3165A4B3, .umin 89 52 150 3),
  (0x3365A4B3, .umax 89 52 150 3)]

theorem test_decodeVector1 : decodeVector1.map (fun p => (decode p.1).toOption) = decodeVector1.map (fun p => some p.2) := by rfl

/-- Words of the vector words (Table 7-5). -/
def decodeVector2 : List (Word × Instr) := [
  (0x3565A4B3, .vand 89 52 150 3), (0x3765A4B3, .vor 89 52 150 3), (0x3965A4B3, .vxor 89 52 150 3),
  (0x3B65A4B3, .andn 89 52 150 3), (0x3D65A4B3, .shl 89 52 150 3), (0x3F65A4B3, .shr 89 52 150 3),
  (0x4165A4B3, .sar 89 52 150 3), (0x4365A4B3, .iaddi 89 52 150 3), (0x4565A4B3, .andi 89 52 150 3),
  (0x4765A583, .shli 89 52 22 3), (0x4765A58B, .shri 89 52 22 3), (0x4765A593, .sari 89 52 22 3),
  (0x4765A59B, .rotri 89 52 22 3), (0x4965A005, .popc 89 52 5), (0x4965A045, .clz 89 52 5),
  (0x4965A085, .ctz 89 52 5), (0x4965A0C5, .brev 89 52 5), (0x4965A105, .iabs 89 52 5),
  (0x4965A145, .ineg 89 52 5), (0x4965A185, .bswap 89 52 5), (0x4B65A4B3, .bfe 89 52 150 3),
  (0x4D65A4B3, .bfi 89 52 150 3), (0x4F65A4B3, .idot4 89 52 150 3), (0x5165A4B3, .vwri 89 52 150 3),
  (0x5366CB4D, .icmp 5 9 89 105 5), (0x5565A4B3, .sel 89 52 150 3), (0x575D0003, .pand 5 3 5 3),
  (0x575D0803, .por 5 3 5 3), (0x575D1003, .pxor 5 3 5 3), (0x57581805, .pnot 5 3 5),
  (0x57582005, .pmov 5 3 5), (0x57402803, .pset 5 3), (0x57403003, .pclr 5 3),
  (0x57583805, .pleader 5 3 5), (0x5964034D, .vmov 89 105 5), (0x5B65A4B3, .vshfl 89 52 150 3),
  (0x5D640003, .laneid 89 3), (0x5D65A045, .redAdd 89 52 5), (0x5D65A085, .redFadd 89 52 5),
  (0x5D65A0D3, .redMin 89 52 2 3)]

theorem test_decodeVector2 : decodeVector2.map (fun p => (decode p.1).toOption) = decodeVector2.map (fun p => some p.2) := by rfl

/-- Words of the vector words (Table 7-5). -/
def decodeVector3 : List (Word × Instr) := [
  (0x5D65A10B, .redMax 89 52 1 3), (0x5D65A14B, .scanAdd 89 52 1 3), (0x5D65A18B, .ballot 89 52 1 3),
  (0x5D65A1C5, .bcast 89 52 5), (0x5F65A4B3, .vrdi 89 52 150 3)]

theorem test_decodeVector3 : decodeVector3.map (fun p => (decode p.1).toOption) = decodeVector3.map (fun p => some p.2) := by rfl

/-- Words of the memory and synchronisation words (Table 7-6). -/
def decodeMemory1 : List (Word × Instr) := [
  (0x6165ACB5, .ldb 89 6 89 6 5), (0x6365ACB5, .ldsb 89 6 89 6 5), (0x6565ACB5, .ldh 89 6 89 6 5),
  (0x6765ACB5, .ldsh 89 6 89 6 5), (0x6965ACB5, .ldw 89 6 89 6 5), (0x6BF9ACB5, .ldw2 126 6 89 6 5),
  (0x6DF1ACB5, .ldw4 124 6 89 6 5), (0x6F65ACB5, .stb 89 6 89 6 5), (0x7165ACB5, .sth 89 6 89 6 5),
  (0x7365ACB5, .stw 89 6 89 6 5), (0x75F9ACB5, .stw2 126 6 89 6 5), (0x77F1ACB5, .stw4 124 6 89 6 5),
  (0x7965ACBB, .aadd 89 6 89 3 1 3), (0x7B65ACBB, .aimin 89 6 89 3 1 3), (0x7D65ACBB, .aimax 89 6 89 3 1 3),
  (0x7F65ACBB, .aumin 89 6 89 3 1 3), (0x8165ACBB, .aumax 89 6 89 3 1 3), (0x8365ACBB, .aand 89 6 89 3 1 3),
  (0x8565ACBB, .aor 89 6 89 3 1 3), (0x8765ACBB, .axor 89 6 89 3 1 3), (0x8965ACBB, .axch 89 6 89 3 1 3),
  (0x8BF9ACBB, .acas 126 6 89 3 1 3), (0x8D65ACBB, .afadd 89 6 89 3 1 3), (0x8FE1ACBB, .aor8w 120 6 89 3 1 3),
  (0x9165ACBB, .sld 89 6 89 3 1 3), (0x9365ACBB, .sst 89 6 89 3 1 3), (0x955AB500, .fence 5 26 45 1),
  (0x976B5A03, .monitor 45 26 13 3), (0x976B4020, .mwait 45 26), (0x9605AC40, .mcancel 45 6),
  (0x9965A005, .otake 89 52 5), (0x9965A085, .oenter 89 52 5), (0x9802C903, .oleave 89 3),
  (0x9965A185, .otry 89 52 5), (0x9965A205, .obase 89 52 5), (0x9802CA83, .oclose 89 3),
  (0x9A165805, .binit 89 6 5), (0x9A365B53, .barrive 89 6 106 3), (0x9A565805, .bwait 89 6 5),
  (0x9A603403, .bsync 13 3)]

theorem test_decodeMemory1 : decodeMemory1.map (fun p => (decode p.1).toOption) = decodeMemory1.map (fun p => some p.2) := by rfl

/-- Words of the memory and synchronisation words (Table 7-6). -/
def decodeMemory2 : List (Word × Instr) := [
  (0x9A96596B, .brarrive 89 6 45 3), (0x9AB65805, .btest 89 6 5), (0x9C1E402D, .ropen 121 5 5),
  (0x9C364003, .rcontrib 89 3), (0x9C564003, .rclose 89 3)]

theorem test_decodeMemory2 : decodeMemory2.map (fun p => (decode p.1).toOption) = decodeMemory2.map (fun p => some p.2) := by rfl

/-- Words of the scalar words (Table 7-7). -/
def decodeScalar1 : List (Word × Instr) := [
  (0xA16B52C0, .sadd 45 26 150), (0xA16B52C1, .ssub 45 26 150), (0xA16B52C2, .smul 45 26 150),
  (0xA16B52C3, .smulhi 45 26 150), (0xA16B52C4, .sumulhi 45 26 150), (0xA16B52C5, .sand 45 26 150),
  (0xA16B52C6, .sor 45 26 150), (0xA16B52C7, .sxor 45 26 150), (0xA16B52C8, .sandn 45 26 150),
  (0xA16B52C9, .sshl 45 26 150), (0xA16B52CA, .sshr 45 26 150), (0xA16B52CB, .ssar 45 26 150),
  (0xA16B52CC, .smin 45 26 150), (0xA16B52CD, .smax 45 26 150), (0xA16B52CE, .sumin 45 26 150),
  (0xA16B52CF, .sumax 45 26 150), (0xA1680D30, .smov 45 105), (0xA1680D31, .snot 45 105),
  (0xA1680D32, .sclz 45 105), (0xA1680D33, .sctz 45 105), (0xA1680D34, .spopc 45 105),
  (0xA16B52D5, .sbfe 45 26 150), (0xA1680D36, .ssext32 45 105), (0xA1680D37, .szext32 45 105),
  (0xA16B52D8, .sdiv 45 26 150), (0xA16B52D9, .sdivu 45 26 150), (0xA16B52DA, .srem 45 26 150),
  (0xA16B52DB, .sremu 45 26 150), (0xA36B52C0, .sseq 45 26 150), (0xA36B52C1, .sne 45 26 150),
  (0xA36B52C2, .slt 45 26 150), (0xA36B52C3, .sle 45 26 150), (0xA36B52C4, .sltu 45 26 150),
  (0xA36B52C5, .sleu 45 26 150), (0xA36B52C6, .ssel 45 26 150), (0xA56B5A09, .sldw 45 26 13 9),
  (0xA56B5A29, .sldd 45 26 13 9), (0xA56B5A49, .sstw 45 26 13 9), (0xA56B5A69, .sstd 45 26 13 9),
  (0xA56B5A89, .sldwa 45 26 13 9)]

theorem test_decodeScalar1 : decodeScalar1.map (fun p => (decode p.1).toOption) = decodeScalar1.map (fun p => some p.2) := by rfl

/-- Words of the scalar words (Table 7-7). -/
def decodeScalar2 : List (Word × Instr) := [
  (0xA56B5AA9, .sstdr 45 26 13 9), (0xA7680D20, .sget 45 105), (0xA605B0A1, .sset 45 133),
  (0xA76B4FA2, .sreadv 45 26 125), (0xA76800A3, .sreadp 45 5), (0xA96B52C0, .sfadd 45 26 150),
  (0xA96B52C1, .sfsub 45 26 150), (0xA96B52C2, .sfmul 45 26 150), (0xA96B52C3, .sffma 45 26 150),
  (0xA96B52C4, .sfmin 45 26 150), (0xA96B52C5, .sfmax 45 26 150), (0xA9680D26, .sfcvtfi 45 105),
  (0xA9680D27, .sfcvtif 45 105), (0xA96B52C8, .sflt 45 26 150), (0xA96B52C9, .sfeq 45 26 150),
  (0xA9680D2A, .sfrcp 45 105), (0xAB680D20, .sbyte 45 105)]

theorem test_decodeScalar2 : decodeScalar2.map (fun p => (decode p.1).toOption) = decodeScalar2.map (fun p => some p.2) := by rfl

/-- Words of the engine, record and graph words (Table 7-8). -/
def decodeEngine1 : List (Word × Instr) := [
  (0xB8164003, .mldw 89 3), (0xB8200005, .mswap 5), (0xB8564003, .mstream 89 3),
  (0xB8600005, .mdrain 5), (0xC0164003, .cpload 89 3), (0xC0364003, .cploadm 89 3),
  (0xC0564003, .cpstore 89 3), (0xC0764003, .cpgath 89 3), (0xC0964003, .cpscat 89 3),
  (0xC0A00005, .cpcommit 5), (0xC0C0006B, .cpwait 13 3), (0xC816586B, .qappend 89 3 13 3),
  (0xC836586B, .qappendl 89 3 13 3), (0xC8565CB3, .qrsv 89 3 150 3), (0xC8602803, .qflush 5 3),
  (0xC8965805, .qleft 89 3 5), (0xCA164003, .glaunch 89 3), (0xCA364003, .gcancel 89 3),
  (0xCA564003, .gstatus 89 3)]

theorem test_decodeEngine1 : decodeEngine1.map (fun p => (decode p.1).toOption) = decodeEngine1.map (fun p => some p.2) := by rfl

/-- Words of the control, FIFO, link, power, trap and MISC words (Tables 7-8 and 7-9). -/
def decodeControl1 : List (Word × Instr) := [
  (0xD12C0003, .bra 150 3), (0xD12CD105, .braZ 150 26 5), (0xD12CD205, .braNz 150 26 5),
  (0xD12CD305, .braLt 150 26 5), (0xD12CD405, .braGe 150 26 5), (0xD205A003, .brk 45 3),
  (0xD4001643, .jmpv 89 3), (0xD612CD05, .callDisp 150 52 5), (0xD625AD05, .callk 45 52 5),
  (0xD6401643, .icall 89 3), (0xD6601643, .retLink 89 3), (0xD8025800, .markPush 150),
  (0xD8200000, .joinLanes), (0xDA140000, .enrol 5), (0xDA340000, .rejoin 5),
  (0xDA540000, .strike 5), (0xDA740000, .jclr 5), (0xDC000000, .reform),
  (0xDC100000, .exitLanes), (0xDC200000, .yield), (0xDC32D000, .sbwait 45),
  (0xDE096000, .fdecl 150), (0xE0165805, .vfpush 89 6 5), (0xE02E0000, .vfpop 56),
  (0xE04B4000, .vffree 45), (0xE2165805, .qpush 89 6 5), (0xE2365813, .qpop 89 6 2 3),
  (0xE2565813, .qpeek 89 6 2 3), (0xE2765805, .qlevel 89 6 5), (0xE56B4000, .treq 45 26),
  (0xE5680020, .tstat 45), (0xE6000002, .phint 2), (0xE76B4020, .pgate 45 26),
  (0xE76B4040, .pungate 45 26), (0xE76B4060, .pvf 45 26), (0xE8096000, .trapi 150),
  (0xEA000000, .tretRetry), (0xEA100000, .tretAdvance), (0xEA200000, .tretSkiplanes),
  (0xED400003, .tpred 5 3)]

theorem test_decodeControl1 : decodeControl1.map (fun p => (decode p.1).toOption) = decodeControl1.map (fun p => some p.2) := by rfl

/-- Words of the control, FIFO, link, power, trap and MISC words (Tables 7-8 and 7-9). -/
def decodeControl2 : List (Word × Instr) := [
  (0xFC000000, .nop), (0xFC15A000, .pref 1 26), (0xFC25A000, .clock 1 26),
  (0xFC396000, .sleep 150), (0xFC496000, .brkpt 150)]

theorem test_decodeControl2 : decodeControl2.map (fun p => (decode p.1).toOption) = decodeControl2.map (fun p => some p.2) := by rfl

/-- Clause headers (R148, Table 7-1): each field alone, and the header of the manual's example. -/
def headerWords : List (Nat × Instr) := [(0xFEA42000, Instr.clauseHeader 5 1 2 0 0 0 0 0 0), (0xFE000000, .clauseHeader 0 0 0 0 0 0 0 0 0),
    (0xFFE00000, .clauseHeader 15 0 0 0 0 0 0 0 0), (0xFE1C0000, .clauseHeader 0 7 0 0 0 0 0 0 0),
    (0xFE03F000, .clauseHeader 0 0 63 0 0 0 0 0 0), (0xFE000E00, .clauseHeader 0 0 0 7 0 0 0 0 0),
    (0xFE0001C0, .clauseHeader 0 0 0 0 7 0 0 0 0), (0xFE000030, .clauseHeader 0 0 0 0 0 3 0 0 0),
    (0xFE00000E, .clauseHeader 0 0 0 0 0 0 1 1 1)]

theorem test_decode_headers : headerWords.map (fun p => decodeTableWord 32 p.1) = headerWords.map (fun p => some p.2) := by rfl

/-- Words that are no instructions (R165): reserved and unassigned primaries, sub-operations, conditions, aux values and must-be-zero
fields. -/
def refusedWords : List Word := [0x9E000000, 0xAC000000, 0xBA000000, 0xC2000000, 0xCC000000, 0xEE000000, 0xF0000000, 0xFA000000,
    0x12000200, 0x16300000, 0x1C000500, 0x46000020, 0x480001C0, 0x56804000, 0x5C000200, 0x98000300, 0x9AC00000, 0xA000001C, 0xA40000C0,
    0xA800000B, 0xB8800000, 0xC0E00000, 0xD0000500, 0xDC400000, 0xEA300000, 0xFC500000, 0xDE100000, 0xD0000008, 0x98000008, 0xE2800000]

theorem test_decode_refuses : refusedWords.map (fun w => (decode w).toOption.isNone) = refusedWords.map (fun _ => true) := by rfl

/-! ### States for the tests -/

/-- A one-word clause of 16 lanes. -/
def tClause : Clause := { pc := placeAt, hdr := headerOf 0xFE3C0000, raw := 0xFE3C0000, index := 0, lanes := 0xFFFF }

/-- Buffer records: b1 is space 0, b2 space 1, b3 space 2, each of bytes from address 0. -/
def tBufs : List DWord :=
  [0, 0, 0, 0, 0, 0xFFFFFFFF, 0x0000000100000000, 0, 0, 0xFFFFFFFF, 0x0001000100000000, 0, 0, 0xFFFFFFFF, 0x0002000100000000, 0]
    ++ List.replicate 48 0

/-- A wave of 16 lanes and 128 registers in that clause, numbered 1. -/
def tWave : Wave := { placeWave 1 1 .nop with clause := some tClause, b := tBufs }

/-- A control thread, numbered 1. -/
def tThread : Wave := { placeWave 1 1 (.vfpop 0) with clause := some { tClause with lanes := 1 }, b := tBufs }

/-- A wave in mask mode. -/
def tMask : Wave := { tWave with div := true }

/-- Registers of every lane set. -/
def put (w : Wave) (rs : List (Nat × Word)) : Wave :=
  { w with lanes := w.lanes.map fun l => { l with v := rs.foldl (fun v r => v.set r.1 r.2) l.v } }

/-- The device with one page at 0x10000, its one run and a wave in execution. -/
def tDev (w : Wave) : State := { State.reset.placed 0xFC000000 with waves := [w] }

/-- The context of its wave. -/
def tCtx (w : Wave) (c : Clause) : Ctx := ⟨tDev w, w, c⟩

/-- A wave in focus with a clause gives a context. -/
theorem ctx_of {s : State} {w : Wave} {c : Clause} (h1 : s.cur = some w.id) (h2 : s.wave? w.id = some w) (h3 : w.clause = some c) :
    s.ctx? = some ⟨s, w, c⟩ := ctx_iff.2 ⟨rfl, w.id, h1, h2, h3⟩

/-- The contexts of the tests. -/
theorem ctx_wave : (tDev tWave).ctx? = some (tCtx tWave tClause) := ctx_of rfl rfl rfl
theorem ctx_thread : (tDev tThread).ctx? = some (tCtx tThread { tClause with lanes := 1 }) := ctx_of rfl rfl rfl
theorem ctx_mask : (tDev tMask).ctx? = some (tCtx tMask tClause) := ctx_of rfl rfl rfl

/-- A wave with its registers set. -/
theorem ctx_put (rs : List (Nat × Word)) : (tDev (put tWave rs)).ctx? = some (tCtx (put tWave rs) tClause) := ctx_of rfl rfl rfl

/-! ### Hypotheses of the vector words -/

/-- Two vector sources, at the highest registers, with and without a predicate: VectorIntegerResults, VectorFieldAndUnaryResults,
PredicateAndMoveResults, VectorFloatResults, FloatPairAndCompareResults, IssueChecks. -/
theorem test_meets_vector : ∃ (s : State) (x : Ctx) (d a : VR) (b : B8), s.ctx? = some x ∧ x.mayIssue false 0 (regsVV d a b)
    ∧ d = 127 ∧ a = 127 ∧ b = 127 :=
  ⟨_, _, 127, 127, 127, ctx_wave, by unfold Ctx.mayIssue; decide +kernel, rfl, rfl, rfl⟩

/-- A wave whose lane 15 alone has p7. -/
def pWave : Wave := { tWave with lanes := tWave.lanes.modify 15 fun l => { l with p := 0x80 } }

theorem test_meets_predicate : ∃ (s : State) (x : Ctx) (d a : VR) (b : B8) (p : PR), s.ctx? = some x ∧ x.mayIssue false p (regsVV d a b)
    ∧ x.mayIssue false p [(d.toNat, 1), (a.toNat, 1)] ∧ x.mayIssue false p [] ∧ x.mayIssue false p ((a.toNat, 1) :: b8Regs b)
    ∧ p = 7 ∧ lanesOf (x.act p) = [15] :=
  ⟨tDev pWave, tCtx pWave tClause, 0, 1, 0x80, 7, ctx_of rfl rfl rfl, by unfold Ctx.mayIssue; decide +kernel,
    by unfold Ctx.mayIssue; decide +kernel, by unfold Ctx.mayIssue; decide +kernel, by unfold Ctx.mayIssue; decide +kernel, rfl,
    by decide +kernel⟩

/-- Float words where no raised flag traps: nothing is enabled (VectorFloatResults, FloatPairAndCompareResults, CrossLaneResults,
SpecialFunctionResults). -/
theorem test_meets_quiet : ∃ (s : State) (x : Ctx) (a : VR), s.ctx? = some x ∧ x.mayIssue false 0 [(a.toNat, 1), (a.toNat, 1)]
    ∧ (∀ f, x.quiet (x.act 0) f) ∧ ∀ g : Flags, x.w.fpe &&& g = 0 :=
  have h : (tCtx tWave tClause).w.fpe = 0 := by decide +kernel
  ⟨_, _, 127, ctx_wave, by unfold Ctx.mayIssue; decide +kernel, fun f l _ => by rw [h]; simp, fun g => by rw [h]; simp⟩

/-- A pair type for FDOT2 and CVTPK. -/
theorem test_meets_pair : ∃ (s : State) (x : Ctx) (d a : VR) (b : B8), s.ctx? = some x ∧ x.mayIssue false 0 (regsVV d a b)
    ∧ x.c.hdr.vt ≠ 0 ∧ ∀ f, x.quiet (x.act 0) f :=
  let c := { tClause with hdr := headerOf 0xFE3C0040 }
  let w := { tWave with clause := some c }
  have h : (tCtx w c).w.fpe = 0 := by decide +kernel
  ⟨tDev w, tCtx w c, 0, 1, 0x80, ctx_of rfl rfl rfl, by unfold Ctx.mayIssue; decide +kernel, by decide +kernel,
    fun f l _ => by rw [h]; simp⟩

/-- A float word that traps (FloatTrap): F32 infinity minus infinity raises NV, which %trapen.FPE enables. -/
def fpeWave : Wave := { put tWave [(1, 0x7F800000), (2, 0xFF800000)] with trapen := 0x3F0000 }

theorem test_meets_FloatTrap : ∃ (s : State) (x : Ctx) (d a : VR) (b : B8), s.ctx? = some x ∧ x.mayIssue false 0 (regsVV d a b)
    ∧ (lanesOf (x.act 0)).filter (fun l => x.w.fpe &&& (perEl x.fmt fun e =>
      x.fmt.add x.rm x.c.hdr.fz false (el x.fmt (x.vr l a) e) (el x.fmt (x.b8 b l) e)).2 != 0) ≠ [] :=
  ⟨tDev fpeWave, tCtx fpeWave tClause, 0, 1, 2, ctx_of rfl rfl rfl, by unfold Ctx.mayIssue; decide +kernel, by decide +kernel⟩

/-- Registers named by a value (IndirectRegisterResults): v[va] + imm8 is 127, the last below REGS. -/
theorem test_meets_IndirectRegister : ∃ (s : State) (x : Ctx) (d a : VR) (i : B8), s.ctx? = some x
    ∧ x.mayIssue false 0 [(d.toNat, 1), (a.toNat, 1)] ∧ ∀ l ∈ lanesOf (x.act 0), (x.vr l a).toNat + i.toNat < x.w.regs :=
  ⟨_, _, 0, 1, 127, ctx_put [(1, 0)], by unfold Ctx.mayIssue; decide +kernel, by decide +kernel⟩

/-- The same with a lane whose register is one beyond (IndirectRegisterResults). -/
theorem test_meets_IndirectRegisterFault : ∃ (s : State) (x : Ctx) (d a : VR) (i : B8), s.ctx? = some x
    ∧ x.mayIssue false 0 [(d.toNat, 1), (a.toNat, 1)]
    ∧ (lanesOf (x.act 0)).filter (fun l => decide (x.w.regs ≤ (x.vr l a).toNat + i.toNat)) = [3] :=
  let w := put tWave [(1, 0)]
  let v := { w with lanes := w.lanes.modify 3 fun l => { l with v := l.v.set 1 1 } }
  ⟨tDev v, tCtx v tClause, 0, 1, 127, ctx_of rfl rfl rfl, by unfold Ctx.mayIssue; decide +kernel, by decide +kernel⟩

/-- SEL reads its predicate, not Active (SelectResult). -/
theorem test_meets_Select : ∃ (s : State) (x : Ctx) (d a : VR) (b : B8) (p : PR), s.ctx? = some x ∧ x.mayIssue false 0 (regsVV d a b)
    ∧ p ≠ 0 ∧ (∃ l ∈ lanesOf x.live, (x.w.lane l).p.getLsbD p.toNat = true)
    ∧ ∃ l ∈ lanesOf x.live, (x.w.lane l).p.getLsbD p.toNat = false :=
  ⟨tDev pWave, tCtx pWave tClause, 0, 1, 2, 7, ctx_of rfl rfl rfl, by unfold Ctx.mayIssue; decide +kernel, by decide +kernel,
    ⟨15, by decide +kernel⟩, ⟨0, by decide +kernel⟩⟩

/-- A vector word in a control thread, and one that names a register at REGS, in a clause of single elements and of pairs (IssueChecks). -/
theorem test_meets_IssueChecks : (∃ (s : State) (x : Ctx), s.ctx? = some x ∧ x.w.isThread = true ∧ x.live ≠ 0)
    ∧ (∃ (s : State) (x : Ctx) (d a : VR) (b : B8), s.ctx? = some x ∧ x.w.isThread = false ∧ x.act 0 ≠ 0 ∧ x.c.hdr.vt = 0 ∧ x.live ≠ 0
      ∧ ∃ r ∈ regsVV d a b, x.w.regs < r.1 + r.2)
    ∧ ∃ (s : State) (x : Ctx) (d a : VR) (b : B8), s.ctx? = some x ∧ x.w.isThread = false ∧ x.act 0 ≠ 0 ∧ x.c.hdr.vt ≠ 0
      ∧ ∃ r ∈ regsVV d a b, x.w.regs < r.1 + r.2 :=
  let w := { tWave with regs := 16 }
  let v := { w with clause := some { tClause with hdr := { tClause.hdr with vt := 1 } } }
  ⟨⟨_, _, ctx_thread, by decide +kernel⟩,
    ⟨tDev w, tCtx w tClause, 16, 0, 0, ctx_of rfl rfl rfl, by decide +kernel, by decide +kernel, by decide +kernel, by decide +kernel,
      (16, 1), by decide +kernel⟩,
    ⟨tDev v, tCtx v { tClause with hdr := { tClause.hdr with vt := 1 } }, 16, 0, 0, ctx_of rfl rfl rfl, by decide +kernel, by decide +kernel,
      by decide +kernel, (16, 1), by decide +kernel⟩⟩

/-! ### Scalar and special-register words -/

/-- Scalar words, in a wave and in a control thread (ScalarIntegerResults, ScalarDivisionResults, ScalarFloatResults,
SpecialRegisterResults, SbyteResult, GraphWords). -/
theorem test_meets_scalar : (∃ (s : State) (x : Ctx), s.ctx? = some x ∧ x.mayIssue true 0 [] ∧ ∀ g : Flags, x.w.fpe &&& g = 0)
    ∧ ∃ (s : State) (x : Ctx), s.ctx? = some x ∧ x.mayIssue true 0 [] ∧ x.w.isThread = true :=
  have h : (tCtx tWave tClause).w.fpe = 0 := by decide +kernel
  ⟨⟨_, _, ctx_wave, by unfold Ctx.mayIssue; decide +kernel, fun g => by rw [h]; simp⟩,
    ⟨_, _, ctx_thread, by unfold Ctx.mayIssue; decide +kernel, by decide +kernel⟩⟩

/-- SSET of a system register by a system job, of a number that is read-only and of one that is reserved, and SREADV and SREADP
(SpecialRegisterResults). -/
theorem test_meets_SpecialRegister : (∃ (s : State) (x : Ctx) (n v : B8), s.ctx? = some x ∧ x.mayIssue true 0 [] ∧ rsNumber n.toNat = true
    ∧ x.sys = true ∧ reservedSpecial n.toNat = false ∧ writable n.toNat = true ∧ x.mayIssue false 0 [(v.toNat, 1)] ∧ x.mayIssue false 0 [])
    ∧ (rsNumber 0 = false ∧ reservedSpecial 0 = false ∧ writable 0 = false) ∧ reservedSpecial 0xFF = true :=
  ⟨⟨_, _, 0x62, 127, ctx_wave, by unfold Ctx.mayIssue; decide +kernel, by decide +kernel, by decide +kernel, by decide +kernel,
    by decide +kernel, by unfold Ctx.mayIssue; decide +kernel, by unfold Ctx.mayIssue; decide +kernel⟩, by decide, by decide⟩

/-- A word of primary 0x55 (SbyteResult). -/
theorem test_meets_Sbyte : (0xAA080A40 : Word).toNat / 2 ^ 25 = 0x55 ∧ (0xAA08_0A40 : Word).toNat % 2 ^ 5 = 0 := by decide

/-! ### Memory words -/

/-- Lanes that reach addresses of space 0 and of space 1 (LaneLoadsAndStores, AtomicAndStrongAccesses): the last registers that a
16-byte access may name, and the last bytes of the wave's scratch. -/
theorem test_meets_accesses : ∃ (s : State) (x : Ctx) (t v : VR) (b g : BX), s.ctx? = some x ∧ t = 124
    ∧ x.mayIssue false 0 [(t.toNat, 4), (v.toNat, 1)] ∧ x.mayIssue false 0 [(t.toNat, max 1 (16 / 4)), (v.toNat, 1)]
    ∧ x.reaches (x.act 0) b v 0 16 true false (fun _ => 0xFFF0) ∧ x.reaches (x.act 0) b v 0 16 false false (fun _ => 0xFFF0)
    ∧ x.reaches (x.act 0) g v 0 4 true true (fun _ => 0xFFF0) ∧ x.reaches (x.act 0) g v 0 4 false true (fun _ => 0xFFF0) :=
  ⟨_, _, 124, 5, 2, 1, ctx_put [(5, 0xFFF0)], rfl, by unfold Ctx.mayIssue; decide +kernel, by unfold Ctx.mayIssue; decide +kernel,
    by unfold Ctx.reaches; decide +kernel, by unfold Ctx.reaches; decide +kernel, by unfold Ctx.reaches; decide +kernel,
    by unfold Ctx.reaches; decide +kernel⟩

/-- The 32 bytes and eight registers of AOR8W. -/
theorem test_meets_aor8w : ∃ (s : State) (x : Ctx) (t v : VR) (g : BX), s.ctx? = some x ∧ t = 120
    ∧ x.mayIssue false 0 [(t.toNat, 8), (v.toNat, 1)] ∧ x.reaches (x.act 0) g v 0 32 true true (fun _ => 0x10020) :=
  ⟨_, _, 120, 5, 1, ctx_put [(5, 0x10020)], rfl, by unfold Ctx.mayIssue; decide +kernel, by unfold Ctx.reaches; decide +kernel⟩

/-- One lane beyond its scratch and the others within it (LaneAccessFaults). -/
def strayWave : Wave :=
  let w := put tWave [(5, 0xFFFC)]
  { w with lanes := w.lanes.modify 3 fun l => { l with v := l.v.set 5 0xFFFD } }

theorem test_meets_LaneAccessFaults : ∃ (s : State) (x : Ctx) (t v : VR) (b o : BX), s.ctx? = some x
    ∧ x.mayIssue false 0 [(t.toNat, 1), (v.toNat, 1)]
    ∧ (let acc := fun l => s.accessAt x.w (x.w.buf b.toNat) (x.vr l v).toNat o.toNat 4 false false
       (lanesOf (x.act 0)).filter (fun l => (acc l).isLeft) = [3] ∧ (lanesOf (x.act 0)).filter (fun l => (acc l).isRight) ≠ []) :=
  ⟨tDev strayWave, tCtx strayWave tClause, 0, 5, 2, 0, ctx_of rfl rfl rfl, by unfold Ctx.mayIssue; decide +kernel, by decide +kernel⟩

/-- Scalar accesses that pass and that fail (ScalarMemoryAccesses), and the words that set and end a watch (MonitorWords). -/
def sWave : Wave := { tWave with s := tWave.s.set 4 0x10008 }

theorem test_meets_ScalarMemory : ∃ (s : State) (x : Ctx) (a : SR) (b z : BX), s.ctx? = some x ∧ x.mayIssue true 0 []
    ∧ s.accessAt x.w (x.w.buf b.toNat) ((x.sr a).toNat % 2 ^ 32) 0 8 true true = .inr 0x10008
    ∧ s.accessAt x.w (x.w.buf b.toNat) ((x.sr a).toNat % 2 ^ 32) 0 8 false false = .inr 0x10008
    ∧ s.accessAt x.w (x.w.buf z.toNat) ((x.sr a).toNat % 2 ^ 32) 31 8 false false = .inl (6, 0)
    ∧ (x.w.buf b.toNat).space = 0 ∧ (x.w.buf b.toNat).short = false
    ∧ s.pathFault x.w.ashlar x.w.slot 0x10008 8 { read := true } = none :=
  ⟨tDev sWave, tCtx sWave tClause, 4, 1, 0, ctx_of rfl rfl rfl, by unfold Ctx.mayIssue; decide +kernel, by decide +kernel⟩

/-- A doubleword of stacked scratch, where banks are set aside for it. -/
def stackedDev : State :=
  { tDev tWave with
    dies := (tDev tWave).dies.map fun d => { d with slices := d.slices.map fun x => { x with scratch := 4, cache := 12 }, banks := [(0, 0)] } }

theorem test_meets_watch_stacked : ∃ (s : State) (x : Ctx) (a : SR) (b : BX), s.ctx? = some x ∧ x.mayIssue true 0 []
    ∧ (x.w.buf b.toNat).space = 2 ∧ (x.w.buf b.toNat).short = false
    ∧ s.accessAt x.w (x.w.buf b.toNat) ((x.sr a).toNat % 2 ^ 32) 0 8 true true = .inr 0
    ∧ s.accessAt x.w (x.w.buf b.toNat) ((x.sr a).toNat % 2 ^ 32) 0 8 false false = .inr 0 :=
  ⟨stackedDev, ⟨stackedDev, tWave, tClause⟩, 4, 3, ctx_of rfl rfl rfl, by unfold Ctx.mayIssue; decide +kernel, by decide +kernel⟩

/-- A wave that waits at a barrier. -/
def waitWave : Wave := { tWave with ops := [{ id := 9, sb := 0, lanes := 0xFFFF, wait := .barrier 0 0 }] }

/-- A request of the wave, and its wait at a barrier, that a fence awaits (FenceOrders). -/
def fencedDev : State :=
  { tDev waitWave with reqs := [{ id := 1, wave := 1, path := pathL, write := true, read := false, lanes := 0xFFFF
                                  body := .fence false false false 4 false }] }

theorem test_meets_Fence : ∃ (s : State) (x : Ctx) (src dst : SR), s.ctx? = some x ∧ x.mayIssue true 0 [] ∧ src ≠ 0 ∧ dst ≠ 0
    ∧ (∃ q ∈ x.s.reqs, q.wave = x.w.id ∧ q.lanes &&& x.live ≠ 0 ∧ src.getLsbD q.path = true ∧ q.write = true)
    ∧ ∃ o ∈ x.w.ops, o.lanes &&& x.live ≠ 0 ∧ ((o.path?.map src.getLsbD).getD false) = true :=
  ⟨fencedDev, ⟨fencedDev, waitWave, tClause⟩, 1, 0x3F, ctx_of rfl rfl rfl, by unfold Ctx.mayIssue; decide +kernel, by decide, by decide,
    ⟨_, List.mem_cons_self, by decide +kernel⟩, _, List.mem_cons_self, by decide +kernel⟩

/-! ### Hypotheses of sections, barriers, reductions, matrix and copy words -/

/-- A wave whose lanes hold sections, with a key in v2 and v3. -/
def heldWave (held : List (DWord × Word)) (hi : Word) : Wave :=
  let w := put tWave [(2, 5), (3, hi)]
  { w with lanes := w.lanes.map fun l => { l with held := held } }

/-- Keys below those of the fixed units, a greater key than the one held, and a key that is held (SectionWords). -/
theorem test_meets_SectionWords :
    (∃ (s : State) (x : Ctx) (t k : VR), s.ctx? = some x ∧ x.mayIssue false 0 [(k.toNat, 2), (t.toNat, 1)]
      ∧ (∀ l ∈ lanesOf (x.act 0), (x.vpair l k.toNat).toNat / 2 ^ 56 ≠ 255)
      ∧ ∀ l ∈ lanesOf (x.act 0), (x.w.lane l).mayEnter (x.vpair l k.toNat) = true)
    ∧ ∃ (s : State) (x : Ctx) (t k : VR), s.ctx? = some x ∧ x.mayIssue false 0 [(k.toNat, 2), (t.toNat, 1)]
      ∧ ∀ l ∈ lanesOf (x.act 0), (x.w.lane l).held.any (fun h => h.1 == x.vpair l k.toNat) = true :=
  let w := heldWave [(0xFEFFFFFF00000004, 0)] 0xFEFFFFFF
  let v := heldWave [(0xFEFFFFFF00000005, 0)] 0xFEFFFFFF
  ⟨⟨tDev w, tCtx w tClause, 127, 2, ctx_of rfl rfl rfl, by unfold Ctx.mayIssue; decide +kernel, by decide +kernel⟩,
    ⟨tDev v, tCtx v tClause, 127, 2, ctx_of rfl rfl rfl, by unfold Ctx.mayIssue; decide +kernel, by decide +kernel⟩⟩

/-- The same key again, two keys held, and a key not held (SectionOrderFault). -/
theorem test_meets_SectionOrderFault :
    (∃ (s : State) (x : Ctx) (t k : VR), s.ctx? = some x ∧ x.mayIssue false 0 [(k.toNat, 2), (t.toNat, 1)]
      ∧ (∀ l ∈ lanesOf (x.act 0), (x.w.lane l).held.length = 2 ∨ ∃ h, (x.w.lane l).held = [h] ∧ (x.vpair l k.toNat).toNat ≤ h.1.toNat))
    ∧ ∃ (s : State) (x : Ctx) (t k : VR), s.ctx? = some x ∧ x.mayIssue false 0 [(k.toNat, 2), (t.toNat, 1)]
      ∧ (∀ l ∈ lanesOf (x.act 0), (x.w.lane l).held.length = 2) ∧ ∀ l ∈ lanesOf (x.act 0), ∀ h ∈ (x.w.lane l).held, h.1 ≠ x.vpair l k.toNat :=
  let w := heldWave [(5, 0)] 0
  let v := heldWave [(4, 0), (6, 0)] 0
  have h : ∀ l ∈ lanesOf ((tCtx w tClause).act 0), (w.lane l).held = [(5, 0)] ∧ ((tCtx w tClause).vpair l 2).toNat ≤ 5 := by decide +kernel
  have k : ∀ l ∈ lanesOf ((tCtx v tClause).act 0), ((tCtx v tClause).w.lane l).held.length = 2
      ∧ (((tCtx v tClause).w.lane l).held.all fun h => h.1 != (tCtx v tClause).vpair l 2) = true := by decide +kernel
  ⟨⟨tDev w, tCtx w tClause, 127, 2, ctx_of rfl rfl rfl, by unfold Ctx.mayIssue; decide +kernel,
      fun l hl => .inr ⟨(5, 0), (h l hl).1, (h l hl).2⟩⟩,
    ⟨tDev v, tCtx v tClause, 127, 2, ctx_of rfl rfl rfl, by unfold Ctx.mayIssue; decide +kernel, fun l hl => (k l hl).1,
      fun l hl h hh => by simpa using List.all_eq_true.1 (k l hl).2 h hh⟩⟩

/-- Barrier words on an idle object, with and without a token, and on an object of another run (BarrierWords). -/
theorem test_meets_BarrierWords : (∃ (s : State) (x : Ctx) (a i : VR) (n : BX), s.ctx? = some x ∧ x.mayIssue true 0 [(a.toNat, 1)]
    ∧ x.mayIssue true 0 (if i.getLsbD 6 then [(a.toNat, 1)] else []) ∧ x.mayIssue true 0 [] ∧ x.barForeign n.toNat = false ∧ n = 15)
    ∧ ∃ (s : State) (x : Ctx) (a : VR) (n : BX), s.ctx? = some x ∧ x.mayIssue true 0 [(a.toNat, 1)] ∧ x.barForeign n.toNat = true :=
  let s := (tDev tWave).modBarrier 0 15 fun b => { b with state := .armed, run := 2, expect := 1 }
  ⟨⟨_, _, 127, 0x7F, 15, ctx_wave, by unfold Ctx.mayIssue; decide +kernel, by unfold Ctx.mayIssue; decide +kernel,
    by unfold Ctx.mayIssue; decide +kernel, by decide +kernel, rfl⟩,
    ⟨s, ⟨s, tWave, tClause⟩, 127, 15, ctx_of rfl rfl rfl, by unfold Ctx.mayIssue; decide +kernel, by decide +kernel⟩⟩

/-- A result address and a ring descriptor in the mapped page (ReductionWords). -/
theorem test_meets_ReductionWords : ∃ (s : State) (x : Ctx) (a : VR), s.ctx? = some x ∧ x.mayIssue true 0 [(a.toNat, 6)]
    ∧ (x.vpair (x.lead 0) a.toNat).toNat = 0x1FFFC ∧ s.pathFault x.w.ashlar x.w.slot 0x1FFFC 4 { write := true } = none
    ∧ (x.vpair (x.lead 0) (a.toNat + 2)).toNat = 0x1FFE0 ∧ s.pathFault x.w.ashlar x.w.slot 0x1FFE0 32 { read := true } = none :=
  ⟨_, _, 122, ctx_put [(122, 0x1FFFC), (124, 0x1FFE0)], by unfold Ctx.mayIssue; decide +kernel, by decide +kernel⟩

/-- A result address that is not aligned, and one in no page (ReductionWords). -/
theorem test_meets_ReductionFaults : (∃ (s : State) (x : Ctx) (a : VR), s.ctx? = some x ∧ x.mayIssue true 0 [(a.toNat, 6)]
      ∧ (x.vpair (x.lead 0) a.toNat).toNat % 4 ≠ 0)
    ∧ ∃ (s : State) (x : Ctx) (a : VR) (c : Nat × Nat), s.ctx? = some x ∧ x.mayIssue true 0 [(a.toNat, 6)]
      ∧ (x.vpair (x.lead 0) a.toNat).toNat % 4 = 0
      ∧ s.pathFault x.w.ashlar x.w.slot (x.vpair (x.lead 0) a.toNat).toNat 4 { write := true } = some c :=
  ⟨⟨_, _, 122, ctx_put [(122, 0x1FFFE)], by unfold Ctx.mayIssue; decide +kernel, by decide +kernel⟩,
    ⟨_, _, 122, (7, 0), ctx_put [(122, 0x20000)], by unfold Ctx.mayIssue; decide +kernel, by decide +kernel⟩⟩

/-- A device with bytes in the scratch of ashlar 0. -/
def scratchDev (w : Wave) (at_ : Nat) (bytes : List Byte) : State :=
  (tDev w).modAshlar 0 fun a => { a with scratch := a.scratch.writeN at_ bytes }

/-- The least parameter block: one row of BF16 from 0 to 0x1000, no scales, no bias, no ring. -/
def tBlock : List Byte :=
  [0, 0, 0, 0, 1, 0, 1, 0, 1, 1, 0xFF, 0xFF, 0xFF, 0xFF, 0, 0x10, 0, 0, 0, 0, 0xFF, 0xFF, 0xFF, 0xFF, 0, 0xFF, 0, 0] ++ List.replicate 36 0

/-- The least layout record: one element of 4 bytes, no ring; and the same as a multicast to itself. -/
def tLayout (mask bar : Byte) : List Byte :=
  [0, 0, 1, 0, 0, 0, 0, 0] ++ List.replicate 32 0 ++ [mask, 0, 0, 0, 0, 0, 0, 0, 4, 0, 0, 0, 0, 0, 2, 0, bar, 0xFF] ++ List.replicate 6 0

/-- The array bound to the wave's node, a block that passes its checks, and a wave of another node (MatrixAndCopyWords). -/
theorem test_meets_MatrixWords :
    (∃ (s : State) (x : Ctx) (a : VR), s.ctx? = some x ∧ x.mayIssue false 0 [(a.toNat, 1)] ∧ x.bound = true
      ∧ (x.vr (x.lead 0) a).toNat % 64 = 0 ∧ x.w.inRegion (x.vr (x.lead 0) a).toNat 4096 = true)
    ∧ (∃ (s : State) (x : Ctx) (a : VR), s.ctx? = some x ∧ x.mayIssue false 0 [(a.toNat, 1)] ∧ x.bound = true
      ∧ (x.vr (x.lead 0) a).toNat % 64 = 0 ∧ x.w.inScratch (x.vr (x.lead 0) a).toNat 64 = true
      ∧ (matBlock (x.scratchNow (x.vr (x.lead 0) a).toNat 64)).ok x.w = true)
    ∧ ∃ (s : State) (x : Ctx) (a : VR), s.ctx? = some x ∧ x.mayIssue false 0 [(a.toNat, 1)] ∧ x.bound = false :=
  let w := put tWave [(127, 0xF000)]
  let v := put tWave [(127, 0xFFC0)]
  let s := scratchDev v 0xFFC0 tBlock
  let u := { tWave with node := 1 }
  ⟨⟨tDev w, tCtx w tClause, 127, ctx_of rfl rfl rfl, by unfold Ctx.mayIssue; decide +kernel, by decide +kernel⟩,
    ⟨s, ⟨s, v, tClause⟩, 127, ctx_of rfl rfl rfl, by unfold Ctx.mayIssue; decide +kernel, by decide +kernel⟩,
    ⟨tDev u, tCtx u tClause, 127, ctx_of rfl rfl rfl, by unfold Ctx.mayIssue; decide +kernel, by decide +kernel⟩⟩

/-- A layout record for each kind of copy, in the last 64 bytes of scratch (MatrixAndCopyWords). -/
theorem test_meets_CopyWords : ∀ kind < 5, ∃ (s : State) (x : Ctx) (a : VR), s.ctx? = some x ∧ x.mayIssue true 0 [(a.toNat, 5)]
    ∧ (x.w.vreg (x.lead 0) a.toNat).toNat = 0xFFC0 ∧ x.w.inScratch 0xFFC0 64 = true
    ∧ (layout (x.scratchNow 0xFFC0 64)).ok x kind (x.w.vreg (x.lead 0) (a.toNat + 2)).toNat = true := by
  intro kind hk
  let w := put tWave [(123, 0xFFC0)]
  let s := fun m b => scratchDev w 0xFFC0 (tLayout m b)
  have h : ∀ k < 5, k ≠ 1 → (layout ((⟨s 0 0, w, tClause⟩ : Ctx).scratchNow 0xFFC0 64)).ok ⟨s 0 0, w, tClause⟩ k
    (w.vreg ((⟨s 0 0, w, tClause⟩ : Ctx).lead 0) 125).toNat = true := by decide +kernel
  by_cases h1 : kind = 1
  · subst h1
    exact ⟨s 1 0x80, ⟨s 1 0x80, w, tClause⟩, 123, ctx_of rfl rfl rfl, by unfold Ctx.mayIssue; decide +kernel, by decide +kernel⟩
  · exact ⟨s 0 0, ⟨s 0 0, w, tClause⟩, 123, ctx_of rfl rfl rfl, by unfold Ctx.mayIssue; decide +kernel, by decide +kernel,
      by decide +kernel, h kind hk h1⟩

/-! ### Hypotheses of control words -/

/-- Transfers by displacement, by a register and in a control thread (ControlTransfers). -/
theorem test_meets_ControlTransfers : (∃ (s : State) (x : Ctx) (a : VR), s.ctx? = some x ∧ x.mayIssue true 0 []
      ∧ x.mayIssue true 0 [(a.toNat, 1)] ∧ x.w.isThread = false)
    ∧ ∃ (s : State) (x : Ctx) (a : VR), s.ctx? = some x ∧ x.mayIssue true 0 [] ∧ x.mayIssue true 0 [(a.toNat, 1)] ∧ x.w.isThread = true :=
  ⟨⟨_, _, 127, ctx_wave, by unfold Ctx.mayIssue; decide +kernel, by unfold Ctx.mayIssue; decide +kernel, by decide +kernel⟩,
    ⟨_, _, 127, ctx_thread, by unfold Ctx.mayIssue; decide +kernel, by unfold Ctx.mayIssue; decide +kernel, by decide +kernel⟩⟩

/-- A function that declares n registers, a clause after the calling one. -/
def callDev (w : Wave) (n : B8) : State :=
  { tDev w with mem := (tDev w).mem.writeN 0x10010 (toBytes 4 0xFE3C0000 ++ toBytes 4 (encode (.fdecl n)).toNat) }

/-- A callee without FDECL, one that declares 128 registers, reached indirectly too, and one over the caller's 16 (Calls). -/
theorem test_meets_Calls :
    (∃ (s : State) (x : Ctx) (d : B8) (a : VR), s.ctx? = some x ∧ x.mayIssue true 0 [(a.toNat, 1)]
      ∧ x.callOk (((x.c.pc : Int) + d.toInt * 16) % 2 ^ 64).toNat false = true)
    ∧ (∃ (s : State) (x : Ctx) (a : VR), s.ctx? = some x ∧ x.mayIssue true 0 [(a.toNat, 1)] ∧ x.w.isThread = false
      ∧ ∀ l ∈ lanesOf (x.act 0), x.callOk (x.c.pc / 2 ^ 32 % 2 ^ 16 * 2 ^ 32 + (x.vr l a).toNat / 16 * 16) true = true)
    ∧ (∃ (x : Ctx) (t : Nat) (n : B8), x.w.isThread = false ∧ x.s.fetch x.w (t + 4) = .inr (encode (.fdecl n)))
    ∧ (∃ (x : Ctx) (t : Nat) (i : Word), x.w.isThread = false ∧ x.s.fetch x.w (t + 4) = .inr i
      ∧ (i.toNat / 2 ^ 20 ≠ 0x6F * 2 ^ 5 ∨ i.toNat % 2 ^ 12 ≠ 0))
    ∧ (∃ (s : State) (x : Ctx) (d : B8) (a : VR), s.ctx? = some x ∧ x.mayIssue false 0 [(a.toNat, 1)]
      ∧ x.callOk (((x.c.pc : Int) + d.toInt * 16) % 2 ^ 64).toNat false = false)
    ∧ (∃ (s : State) (x : Ctx) (a : VR), s.ctx? = some x ∧ x.mayIssue false 0 [(a.toNat, 1)]
      ∧ ∀ l ∈ lanesOf (x.act 0), x.callOk (x.c.pc / 2 ^ 32 % 2 ^ 16 * 2 ^ 32 + (x.vr l a).toNat / 16 * 16) true = false)
    ∧ ∃ (s : State) (x : Ctx) (a : VR), s.ctx? = some x ∧ x.mayIssue false 0 [(a.toNat, 1)]
      ∧ (lanesOf (x.act 0)).filter (fun l => !x.callOk (x.c.pc / 2 ^ 32 % 2 ^ 16 * 2 ^ 32 + (x.vr l a).toNat / 16 * 16) true) = [3] :=
  let w := put tWave [(9, 0x10010)]
  let s := callDev w 128
  let m := { w with lanes := w.lanes.modify 3 fun l => { l with v := l.v.set 9 0x10000 } }
  let sm := callDev m 128
  let v := { tWave with regs := 16 }
  let u := callDev v 17
  ⟨⟨_, _, 0, 127, ctx_wave, by unfold Ctx.mayIssue; decide +kernel, by decide +kernel⟩,
    ⟨s, ⟨s, w, tClause⟩, 9, ctx_of rfl rfl rfl, by unfold Ctx.mayIssue; decide +kernel, by decide +kernel⟩,
    ⟨⟨s, w, tClause⟩, 0x10010, 128, by decide +kernel⟩,
    ⟨⟨tDev tWave, tWave, tClause⟩, 0x10000, 0xFC000000, by decide +kernel⟩,
    ⟨u, ⟨u, v, tClause⟩, 1, 0, ctx_of rfl rfl rfl, by unfold Ctx.mayIssue; decide +kernel, by decide +kernel⟩,
    ⟨_, _, 9, ctx_put [(9, 0x10000)], by unfold Ctx.mayIssue; decide +kernel, by decide +kernel⟩,
    ⟨sm, ⟨sm, m, tClause⟩, 9, ctx_of rfl rfl rfl, by unfold Ctx.mayIssue; decide +kernel, by decide +kernel⟩⟩

/-- Stacks of 31 and of 32 entries, and mask mode (ReconvergenceWords). -/
theorem test_meets_Reconvergence :
    (∃ (s : State) (x : Ctx), s.ctx? = some x ∧ x.mayIssue false 0 [] ∧ x.w.isThread = false ∧ x.w.div = false ∧ x.w.stack.length < 32
      ∧ x.w.stack.length = 31)
    ∧ (∃ (s : State) (x : Ctx), s.ctx? = some x ∧ x.mayIssue false 0 [] ∧ x.w.isThread = false ∧ x.w.div = false ∧ 32 ≤ x.w.stack.length)
    ∧ ∃ (s : State) (x : Ctx), s.ctx? = some x ∧ x.mayIssue false 0 [] ∧ x.w.isThread = false ∧ x.w.div = true :=
  let w := { tWave with stack := List.replicate 31 (0, 0xFFFF) }
  let v := { tWave with stack := List.replicate 32 (0, 0xFFFF) }
  ⟨⟨tDev w, tCtx w tClause, ctx_of rfl rfl rfl, by unfold Ctx.mayIssue; decide +kernel, by decide +kernel⟩,
    ⟨tDev v, tCtx v tClause, ctx_of rfl rfl rfl, by unfold Ctx.mayIssue; decide +kernel, by decide +kernel⟩,
    ⟨_, _, ctx_mask, by unfold Ctx.mayIssue; decide +kernel, by decide +kernel⟩⟩

/-- A wave whose lanes all run a handler. -/
def handlerWave : Wave := { tWave with lanes := tWave.lanes.map fun l => { l with handler := true } }

/-- Debugging off and on, lanes with and without sections, in and out of a handler (WaveTrapAndMiscWords). -/
theorem test_meets_WaveTrap :
    (∃ (s : State) (x : Ctx), s.ctx? = some x ∧ x.mayIssue true 0 [] ∧ (s.slot x.w.slot).debug = false)
    ∧ (∃ (s : State) (x : Ctx), s.ctx? = some x ∧ x.mayIssue true 0 [] ∧ (s.slot x.w.slot).debug = true)
    ∧ (∃ (s : State) (x : Ctx), s.ctx? = some x ∧ x.mayIssue false 0 [] ∧ ∀ l ∈ lanesOf x.live, (x.w.lane l).held = [])
    ∧ (∃ (s : State) (x : Ctx), s.ctx? = some x ∧ x.mayIssue false 0 [] ∧ ∀ l ∈ lanesOf x.live, (x.w.lane l).held ≠ [])
    ∧ (∃ (s : State) (x : Ctx), s.ctx? = some x ∧ x.mayIssue false 0 [] ∧ x.w.isThread = false
      ∧ ∀ l ∈ lanesOf x.live, (x.w.lane l).handler = true)
    ∧ ∃ (s : State) (x : Ctx), s.ctx? = some x ∧ x.mayIssue false 0 [] ∧ x.w.isThread = false
      ∧ ¬∀ l ∈ lanesOf x.live, (x.w.lane l).handler = true :=
  let s := (tDev tWave).modSlot 0 fun z => { z with debug := true }
  let w := heldWave [(5, 0)] 0
  ⟨⟨_, _, ctx_wave, by unfold Ctx.mayIssue; decide +kernel, by decide +kernel⟩,
    ⟨s, ⟨s, tWave, tClause⟩, ctx_of rfl rfl rfl, by unfold Ctx.mayIssue; decide +kernel, by decide +kernel⟩,
    ⟨_, _, ctx_wave, by unfold Ctx.mayIssue; decide +kernel, by decide +kernel⟩,
    ⟨tDev w, tCtx w tClause, ctx_of rfl rfl rfl, by unfold Ctx.mayIssue; decide +kernel, by decide +kernel⟩,
    ⟨tDev handlerWave, tCtx handlerWave tClause, ctx_of rfl rfl rfl, by unfold Ctx.mayIssue; decide +kernel, by decide +kernel⟩,
    ⟨_, _, ctx_wave, by unfold Ctx.mayIssue; decide +kernel, by decide +kernel⟩⟩

/-- PREF of a line that does not translate, at the last unit address, and of one that does (WaveTrapAndMiscWords). -/
theorem test_meets_Pref :
    (∃ (s : State) (x : Ctx) (n : SR), s.ctx? = some x ∧ x.mayIssue true 0 []
      ∧ ∀ l, s.look x.w.ashlar x.w.slot ((x.w.sreg n.toNat).toNat / 64 * 64) ≠ .leaf l)
    ∧ ∃ (s : State) (x : Ctx) (n : SR) (l : Leaf), s.ctx? = some x ∧ x.mayIssue true 0 []
      ∧ s.look x.w.ashlar x.w.slot ((x.w.sreg n.toNat).toNat / 64 * 64) = .leaf l
      ∧ l.r = true ∧ reservedPa (l.pa ((x.w.sreg n.toNat).toNat / 64 * 64)) = false
      ∧ inHost (l.pa ((x.w.sreg n.toNat).toNat / 64 * 64)) = false ∧ s.bad (l.pa ((x.w.sreg n.toNat).toNat / 64 * 64) / 64) = false
      ∧ s.host.invgo = false ∧ l.cp ≤ 1 ∧ (s.course (courseOf x.w.ashlar)).fused = false
      ∧ ∀ k ∈ s.l1, k.cache = x.w.ashlar → k.line ≠ l.pa ((x.w.sreg n.toNat).toNat / 64 * 64) / 64 :=
  let w := { tWave with s := tWave.s.set 4 0xFFFFFFFFFFFFFFFF }
  have h : (tDev w).look 0 0 ((w.sreg 4).toNat / 64 * 64) = .invalid := by decide +kernel
  ⟨⟨tDev w, tCtx w tClause, 4, ctx_of rfl rfl rfl, by unfold Ctx.mayIssue; decide +kernel, fun l e => by
      have e' : (tDev w).look 0 0 ((w.sreg 4).toNat / 64 * 64) = .leaf l := e
      rw [h] at e'; cases e'⟩,
    ⟨tDev sWave, tCtx sWave tClause, 4, ⟨0, placeLeaf, 0, 3⟩, ctx_of rfl rfl rfl, by unfold Ctx.mayIssue; decide +kernel,
      by decide +kernel⟩⟩

/-! ### Hypotheses of link, power and privileged words -/

/-- The device with a scalar value in s4, and the link as given. -/
def linkDev (v : DWord) (f : Link → Link) : State :=
  let w := { tWave with s := tWave.s.set 4 v }
  { tDev w with link := f (tDev w).link }

/-- The context of linkDev. -/
def linkCtx (v : DWord) (f : Link → Link) : Ctx := ⟨linkDev v f, { tWave with s := tWave.s.set 4 v }, tClause⟩

/-- TREQ: a withdrawal, without and with the job's lease and beside a request of another; splits 1 and 15; 14 beside eight requests of
the die; 2 beside seven and a lease of another job, and without a lease; and 14 of the job that holds the lease (LinkAndPowerWords). -/
theorem test_meets_Treq :
    (∀ v ∈ [(0 : DWord), 1, 15], ∃ (s : State) (x : Ctx) (a : SR), s.ctx? = some x ∧ x.mayIssue true 0 [] ∧ x.sr a = v)
    ∧ (∃ (s : State) (x : Ctx) (a : SR), s.ctx? = some x ∧ x.mayIssue true 0 [] ∧ x.sr a = 14
      ∧ (∀ m t, s.link.lease ≠ some (x.w.slot, m, t))
      ∧ 8 ≤ ((s.link.pending.filter fun q => q.slot != x.w.slot).filter fun q => q.die == x.w.die).length)
    ∧ (∃ (s : State) (x : Ctx) (a : SR), s.ctx? = some x ∧ x.mayIssue true 0 [] ∧ x.sr a = 2
      ∧ (∀ m t, s.link.lease ≠ some (x.w.slot, m, t)) ∧ s.link.lease ≠ none
      ∧ ((s.link.pending.filter fun q => q.slot != x.w.slot).filter fun q => q.die == x.w.die).length = 7)
    ∧ (∃ (s : State) (x : Ctx) (a : SR) (m t : Nat), s.ctx? = some x ∧ x.mayIssue true 0 [] ∧ x.sr a = 14
      ∧ s.link.lease = some (x.w.slot, m, t))
    ∧ (∃ (s : State) (x : Ctx) (a : SR) (m t : Nat), s.ctx? = some x ∧ x.mayIssue true 0 [] ∧ x.sr a = 0
      ∧ s.link.lease = some (x.w.slot, m, t) ∧ (s.link.pending.filter fun q => q.slot != x.w.slot) ≠ [])
    ∧ (∃ (s : State) (x : Ctx) (a : SR) (m t : Nat), s.ctx? = some x ∧ x.mayIssue true 0 [] ∧ x.sr a = 0
      ∧ s.link.lease = some (x.w.slot, m, t) ∧ (s.link.pending.filter fun q => q.slot != x.w.slot) = [])
    ∧ ∃ (s : State) (x : Ctx) (a : SR), s.ctx? = some x ∧ x.mayIssue true 0 [] ∧ x.sr a = 2 ∧ s.link.lease = none := by
  refine ⟨fun v hv => ?_, ⟨linkDev 14 fun l => { l with pending := (List.range 8).map fun i => LinkReq.mk (i + 1) 0 9 0 },
    linkCtx 14 fun l => { l with pending := (List.range 8).map fun i => LinkReq.mk (i + 1) 0 9 0 }, 4, ctx_of rfl rfl rfl,
    by unfold Ctx.mayIssue; decide +kernel, by decide +kernel, (by intro m t e; cases e), by decide +kernel⟩,
    ⟨linkDev 2 fun l => { l with pending := (List.range 7).map fun i => LinkReq.mk (i + 1) 0 9 0, lease := some (63, 9, 0) },
    linkCtx 2 fun l => { l with pending := (List.range 7).map fun i => LinkReq.mk (i + 1) 0 9 0, lease := some (63, 9, 0) }, 4,
    ctx_of rfl rfl rfl, by unfold Ctx.mayIssue; decide +kernel, by decide +kernel, (by intro m t e; cases e), (by intro e; cases e),
    by decide +kernel⟩,
    ⟨linkDev 14 fun l => { l with lease := some (0, 9, 0) }, linkCtx 14 fun l => { l with lease := some (0, 9, 0) }, 4, 9, 0,
    ctx_of rfl rfl rfl, by unfold Ctx.mayIssue; decide +kernel, by decide +kernel, rfl⟩,
    ⟨linkDev 0 fun l => { l with lease := some (0, 9, 0), pending := [LinkReq.mk 5 1 4 0] },
    linkCtx 0 fun l => { l with lease := some (0, 9, 0), pending := [LinkReq.mk 5 1 4 0] }, 4, 9, 0,
    ctx_of rfl rfl rfl, by unfold Ctx.mayIssue; decide +kernel, by decide +kernel, rfl, by decide +kernel⟩,
    ⟨linkDev 0 fun l => { l with lease := some (0, 9, 0) }, linkCtx 0 fun l => { l with lease := some (0, 9, 0) }, 4, 9, 0,
    ctx_of rfl rfl rfl, by unfold Ctx.mayIssue; decide +kernel, by decide +kernel, rfl, by decide +kernel⟩,
    ⟨linkDev 2 id, linkCtx 2 id, 4, ctx_of rfl rfl rfl, by unfold Ctx.mayIssue; decide +kernel, by decide +kernel, rfl⟩⟩
  have h : (linkCtx v id).sr 4 = v := by
    simp only [List.mem_cons, List.not_mem_nil, or_false] at hv
    rcases hv with rfl | rfl | rfl <;> decide +kernel
  have hm : (linkCtx v id).mayIssue true 0 [] := by
    simp only [List.mem_cons, List.not_mem_nil, or_false] at hv
    rcases hv with rfl | rfl | rfl <;> (unfold Ctx.mayIssue; decide +kernel)
  exact ⟨linkDev v id, linkCtx v id, 4, ctx_of rfl rfl rfl, hm, h⟩

/-- A die's gates as given, with the gate word's operand in s4. -/
def gateDev (v : DWord) (f : Gate → Gate) : State :=
  let w := { tWave with s := tWave.s.set 4 v }
  { tDev w with dies := (tDev w).dies.map fun d => { d with gates := d.gates.map f } }

/-- PGATE and PUNGATE: a bad argument, die A's other layers, a busy gate, a gate already as asked, and one that is not
(LinkAndPowerWords). -/
theorem test_meets_gates :
    (∃ (s : State) (x : Ctx) (a : SR), s.ctx? = some x ∧ x.mayIssue true 0 [] ∧ (s.slot x.w.slot).sys = true ∧ x.sr a = 3)
    ∧ (∃ (s : State) (x : Ctx) (a : SR), s.ctx? = some x ∧ x.mayIssue true 0 [] ∧ (s.slot x.w.slot).sys = true ∧ x.sr a = 2)
    ∧ (∃ (s : State) (x : Ctx) (a : SR), s.ctx? = some x ∧ x.mayIssue true 0 [] ∧ (s.slot x.w.slot).sys = true ∧ x.sr a = 0x102
      ∧ (s.die 1).gates.any (·.busy) = true)
    ∧ (∃ (s : State) (x : Ctx) (a : SR), s.ctx? = some x ∧ x.mayIssue true 0 [] ∧ (s.slot x.w.slot).sys = true ∧ x.sr a = 1
      ∧ (s.die 0).gates.any (·.busy) = false ∧ (s.gate 0 1).gated = true ∧ 1 < (s.die 0).gates.length ∧ 0 < s.dies.length)
    ∧ ∃ (s : State) (x : Ctx) (a : SR), s.ctx? = some x ∧ x.mayIssue true 0 [] ∧ (s.slot x.w.slot).sys = true ∧ x.sr a = 0x102
      ∧ (s.die 1).gates.any (·.busy) = false ∧ (s.gate 1 2).gated = false ∧ 2 < (s.die 1).gates.length ∧ 1 < s.dies.length :=
  let y := fun (v : DWord) (f : Gate → Gate) => (⟨gateDev v f, { tWave with s := tWave.s.set 4 v }, tClause⟩ : Ctx)
  ⟨⟨gateDev 3 id, y 3 id, 4, ctx_of rfl rfl rfl, by unfold Ctx.mayIssue; decide +kernel, by decide +kernel⟩,
    ⟨gateDev 2 id, y 2 id, 4, ctx_of rfl rfl rfl, by unfold Ctx.mayIssue; decide +kernel, by decide +kernel⟩,
    ⟨gateDev 0x102 fun g => { g with busy := true }, y 0x102 fun g => { g with busy := true }, 4, ctx_of rfl rfl rfl,
      by unfold Ctx.mayIssue; decide +kernel, by decide +kernel⟩,
    ⟨gateDev 1 fun g => { g with gated := true }, y 1 fun g => { g with gated := true }, 4, ctx_of rfl rfl rfl,
      by unfold Ctx.mayIssue; decide +kernel, by decide +kernel⟩,
    ⟨gateDev 0x102 id, y 0x102 id, 4, ctx_of rfl rfl rfl, by unfold Ctx.mayIssue; decide +kernel, by decide +kernel⟩⟩

/-- A job without system privilege, and a system job with the argument 0 (PrivilegeFaults). -/
theorem test_meets_Privilege :
    (∃ (s : State) (x : Ctx), s.ctx? = some x ∧ x.mayIssue true 0 [] ∧ (s.slot x.w.slot).sys = false)
    ∧ ∃ (s : State) (x : Ctx) (a : SR), s.ctx? = some x ∧ x.mayIssue true 0 [] ∧ (s.slot x.w.slot).sys = true ∧ x.sr a = 0 :=
  let s := (tDev tWave).modSlot 0 fun z => { z with sys := false }
  ⟨⟨s, ⟨s, tWave, tClause⟩, ctx_of rfl rfl rfl, by unfold Ctx.mayIssue; decide +kernel, by decide +kernel⟩,
    ⟨_, _, 4, ctx_wave, by unfold Ctx.mayIssue; decide +kernel, by decide +kernel⟩⟩

/-! ### Hypotheses of record, queue and graph words -/

/-- A wave with slots on edge 7. -/
def slotWave (left : Nat) : Wave := { tWave with resv := [{ edge := 7, die := 1, left := left }] }

/-- QAPPEND of 16 records a lane with exactly the slots, with one slot too few for the last lane, and with one too few for any; QAPPENDL
likewise; an unused edge; records that pass v127 (AppendWords). -/
theorem test_meets_AppendWords :
    (∀ n ∈ [(256 : Nat), 255, 15], ∃ (s : State) (x : Ctx) (a : VR) (e : PR) (c : BX), s.ctx? = some x
      ∧ x.mayIssue true 0 (appendRegs s a e.toNat c.toNat) ∧ x.appendRange a e.toNat c.toNat = false ∧ (x.edge e.toNat).emits ≠ 0
      ∧ (∀ r ∈ x.w.resv, r.edge = e.toNat → r.die = 1) ∧ (c.toNat + 1) * (lanesOf (x.act 0)).length = 256
      ∧ x.w.slotsLeft e.toNat = n ∧ c = 15 ∧ a = 64 ∧ x.mayIssue true 0 [(a.toNat, 1)])
    ∧ (∃ (s : State) (x : Ctx) (a : VR) (e : PR) (c : BX), s.ctx? = some x ∧ x.mayIssue true 0 [(a.toNat, 1)]
      ∧ (x.edge e.toNat).emits ≠ 0 ∧ (∀ r ∈ x.w.resv, r.edge = e.toNat → r.die = 1) ∧ c.toNat + 1 ≤ x.w.slotsLeft e.toNat
      ∧ (x.vr (x.lead 0) a).toNat % 16 = 0 ∧ x.w.inScratch (x.vr (x.lead 0) a).toNat ((c.toNat + 1) * x.recSize e.toNat) = true)
    ∧ (∃ (s : State) (x : Ctx) (a : VR) (e : PR) (c : BX), s.ctx? = some x ∧ x.mayIssue true 0 [(a.toNat, 1)]
      ∧ (x.edge e.toNat).emits = 0 ∧ x.mayIssue true 0 (appendRegs s a e.toNat c.toNat))
    ∧ ∃ (s : State) (x : Ctx) (a : VR) (e : PR) (c : BX), s.ctx? = some x ∧ x.w.isThread = false ∧ x.appendRange a e.toNat c.toNat = true := by
  let u := put (slotWave 16) [(9, 0xFF00)]
  let z := { tWave with run := 5 }
  refine ⟨fun n hn => ?_, ⟨tDev u, tCtx u tClause, 9, 7, 15, ctx_of rfl rfl rfl, by unfold Ctx.mayIssue; decide +kernel, by decide +kernel⟩,
    ⟨tDev z, tCtx z tClause, 9, 7, 0, ctx_of rfl rfl rfl, by unfold Ctx.mayIssue; decide +kernel, by unfold Ctx.mayIssue; decide +kernel⟩,
    ⟨_, _, 127, 7, 15, ctx_wave, by decide +kernel, by decide +kernel⟩⟩
  refine ⟨tDev (slotWave n), tCtx (slotWave n) tClause, 64, 7, 15, ctx_of rfl rfl rfl, ?_⟩
  simp only [List.mem_cons, List.not_mem_nil, or_false] at hn
  rcases hn with rfl | rfl | rfl <;> (unfold Ctx.mayIssue; decide +kernel)

/-- QRSV where the instance has exactly the room, and where it lacks one slot (ReservationWords). -/
theorem test_meets_Reservation : ∀ full : Bool, ∃ (s : State) (x : Ctx) (a : VR) (e : PR) (n : B8) (r : Run) (node : Node), s.ctx? = some x
    ∧ x.mayIssue true 0 [(a.toNat, 1)] ∧ s.run? x.w.run = some r ∧ r.node? x.w.node = some node ∧ (node.edge e.toNat).emits ≠ 0
    ∧ r.room (node.edge e.toNat).target (x.w.resvDie e.toNat) n.toNat = !full := by
  intro full
  let k := if full then 254 else 255
  let nd := { placeNode false false false with qcap := k }
  let r := placeRun 1 nd
  let s := { tDev tWave with runs := [r] }
  refine ⟨s, ⟨s, tWave, tClause⟩, 127, 7, 255, r, nd, ctx_of rfl rfl rfl, ?_, rfl, rfl, ?_, ?_⟩ <;>
    cases full <;> (try unfold Ctx.mayIssue) <;> decide +kernel

theorem test_meets_ReservationUnused : ∃ (s : State) (x : Ctx) (a : VR) (e : PR), s.ctx? = some x ∧ x.mayIssue true 0 [(a.toNat, 1)]
    ∧ (x.edge e.toNat).emits = 0 :=
  let z := { tWave with run := 5 }
  ⟨tDev z, tCtx z tClause, 127, 7, ctx_of rfl rfl rfl, by unfold Ctx.mayIssue; decide +kernel, by decide +kernel⟩

/-- QPUSH of the last row of scratch, and of one past it; the last part of a row; the last 64 bytes of 16 lanes (QueueAndFifoWords). -/
theorem test_meets_QueueAndFifo :
    (∃ (s : State) (x : Ctx) (a : VR) (q : BX), s.ctx? = some x ∧ x.mayIssue false 0 [(a.toNat, 1)] ∧ (x.vr (x.lead 0) a).toNat % 4 = 0
      ∧ x.w.inScratch (x.vr (x.lead 0) a).toNat 256 = true ∧ s.streamTo x.w.id q.toNat = false)
    ∧ (∃ (s : State) (x : Ctx) (a : VR), s.ctx? = some x ∧ x.mayIssue false 0 [(a.toNat, 1)] ∧ (x.vr (x.lead 0) a).toNat % 4 = 0
      ∧ x.w.inScratch (x.vr (x.lead 0) a).toNat 256 = false)
    ∧ ∃ (s : State) (x : Ctx) (a : VR) (k : BitVec 2) (i : BX), s.ctx? = some x ∧ x.mayIssue false 0 [(a.toNat, 1)]
      ∧ k.toNat * x.w.width < 64 ∧ k = 3 ∧ 16 * (i.toNat + 1) ≤ x.w.width :=
  ⟨⟨_, _, 9, 15, ctx_put [(9, 0xFF00)], by unfold Ctx.mayIssue; decide +kernel, by decide +kernel⟩,
    ⟨_, _, 9, ctx_put [(9, 0xFF04)], by unfold Ctx.mayIssue; decide +kernel, by decide +kernel⟩,
    ⟨_, _, 9, 3, 0, ctx_wave, by unfold Ctx.mayIssue; decide +kernel, by decide +kernel, rfl, by decide +kernel⟩⟩

/-- A descriptor of a live run, one of none, and one that is not aligned (GraphWords). -/
theorem test_meets_GraphWords : ∀ live : Bool, ∃ (s : State) (x : Ctx) (a : VR), s.ctx? = some x ∧ x.mayIssue true 0 [(a.toNat, 2)]
    ∧ ((x.vr (x.lead 0) a).toNat + 2 ^ 32 * (x.w.vreg (x.lead 0) (a.toNat + 1)).toNat) = 0x1FFC0
    ∧ s.pathFault x.w.ashlar x.w.slot 0x1FFC0 64 { read := true } = none
    ∧ ((x.onState fun u => u.touchRange x.w.ashlar x.w.slot 0x1FFC0 64 false).s.runAt? x.w.slot 0x1FFC0).isSome = live := by
  intro live
  let w := put tWave [(126, 0x1FFC0), (127, 0)]
  let s := { tDev w with runs := [{ placeRun 1 (placeNode false false false) with desc := if live then 0x1FFC0 else 0 }] }
  refine ⟨s, ⟨s, w, tClause⟩, 126, ctx_of rfl rfl rfl, ?_, ?_, ?_, ?_⟩ <;>
    cases live <;> (try unfold Ctx.mayIssue) <;> decide +kernel

theorem test_meets_GraphUnmapped : ∃ (s : State) (x : Ctx) (a : VR) (c : Nat × Nat), s.ctx? = some x ∧ x.mayIssue true 0 [(a.toNat, 2)]
    ∧ (let va := (x.vr (x.lead 0) a).toNat + 2 ^ 32 * (x.w.vreg (x.lead 0) (a.toNat + 1)).toNat
       va % 64 = 0 ∧ s.pathFault x.w.ashlar x.w.slot va 64 { read := true } = some c) :=
  ⟨_, _, 126, (7, 0), ctx_put [(126, 0x20000), (127, 0)], by unfold Ctx.mayIssue; decide +kernel, by decide +kernel⟩

theorem test_meets_GraphMisaligned : ∃ (s : State) (x : Ctx) (a : VR), s.ctx? = some x ∧ x.mayIssue true 0 [(a.toNat, 2)]
    ∧ ((x.vr (x.lead 0) a).toNat + 2 ^ 32 * (x.w.vreg (x.lead 0) (a.toNat + 1)).toNat) % 64 ≠ 0 :=
  ⟨_, _, 126, ctx_put [(126, 63), (127, 0)], by unfold Ctx.mayIssue; decide +kernel, by decide +kernel⟩

/-! ### Hypotheses of wave and record events -/

/-- The wave between two clauses. -/
def idleWave : Wave := { tWave with clause := none }

/-- The device with an event's operands. -/
def evtDev (w : Wave) (e : EvArgs) : State := { tDev w with evt := e }

/-- A wave whose 16 lanes hold a fault of set 5. -/
def faultWave (en vec : DWord) (svc : Bool) : Wave :=
  { idleWave with
    trapen := en, trapvec := vec
    lanes := idleWave.lanes.map fun l => { l with stat := .parked .fault, fault := some { set := 5, cls := 14, service := svc } } }

/-- An enabled set with a handler (TrapDelivery). -/
theorem test_meets_TrapDelivery : ∃ (s : State) (w : Wave) (n : Nat), s.wave? s.evt.a = some w ∧ w.nextSet = some n
    ∧ s.unserviced w n = false ∧ w.handles n = true ∧ w.away = false ∧ w.lanesN ≤ 64 :=
  let w := faultWave 0x4000 0x10000 false
  ⟨evtDev w { a := 1 }, w, 5, rfl, by decide +kernel⟩

/-- A set that is neither enabled nor serviceable, and one that is serviceable without a handler (UnservicedAndServicedFaults). -/
theorem test_meets_Unserviced :
    (∃ (s : State) (w : Wave) (n : Nat) (r : Run), s.wave? s.evt.a = some w ∧ w.nextSet = some n ∧ s.run? w.run = some r
      ∧ s.unserviced w n = true ∧ r.cancelling = false ∧ r.posted = false)
    ∧ (∃ (s : State) (w : Wave) (n : Nat) (r : Run), s.wave? s.evt.a = some w ∧ w.nextSet = some n ∧ s.run? w.run = some r
      ∧ s.unserviced w n = false ∧ w.handles n = false ∧ (lanesOf (w.setLanes n)).all (s.serviceable w) = true ∧ w.away = false
      ∧ w.slot < s.slots.length)
    ∧ ∃ (s : State) (w : Wave) (n : Nat) (r : Run), s.wave? s.evt.a = some w ∧ w.nextSet = some n ∧ s.run? w.run = some r
      ∧ w.svcAsked = true ∧ w.stat = .saved ∧ w.slot < s.slots.length :=
  let w := faultWave 0 0 false
  let v := faultWave 0 0 true
  let u := { v with
    svcAsked := true, stat := .saved
    lanes := v.lanes.modify 3 fun l => { l with handler := true, fault := some { set := 6, cls := 14 } }, svcSet := 5 }
  ⟨⟨evtDev w { a := 1 }, w, 5, placeRun 1 (placeNode false false false), rfl, by decide +kernel, rfl, by decide +kernel, rfl, rfl⟩,
    ⟨(evtDev v { a := 1 }).modSlot 0 fun x => { x with fsvc := true }, v, 5, placeRun 1 (placeNode false false false), rfl, by decide +kernel,
      rfl, by decide +kernel⟩,
    ⟨evtDev u { a := 1 }, u, 6, placeRun 1 (placeNode false false false), rfl, by decide +kernel, rfl, rfl, rfl, by decide +kernel⟩⟩

/-- A wave with one outstanding instruction. -/
def opWave (o : Op) : Wave := { idleWave with ops := [o], sb := idleWave.sb.set 0 1 }

/-- A run that is being cancelled. -/
def cancelledRun : Run := { placeRun 1 (placeNode false false false) with cancelling := true }

/-- A sleep that has just ended, alone, with a wait for a scoreboard beside it, and one that goes on; a ready value of v127 and of s63, a lane that has waited 100 ms, a ticket, an MWAIT at its deadline and a
wave of a cancelled run (WaveEvents). -/
theorem test_meets_WaveEvents :
    (∃ (s : State) (w : Wave), s.wave? s.evt.a = some w ∧ w.away = false
      ∧ (∃ l n, (w.lane l).stat = .parked (.sleep n) ∧ l < w.lanesN ∧ laneBit s.evt.mask l = true ∧ n = s.clock (courseOf w.ashlar)
        ∧ (w.lane l).also = [])
      ∧ (∃ l n, (w.lane l).stat = .parked (.sleep n) ∧ l < w.lanesN ∧ laneBit s.evt.mask l = true ∧ n = s.clock (courseOf w.ashlar)
        ∧ (w.lane l).also = [.sbwait 2])
      ∧ (∃ l n, (w.lane l).stat = .parked (.sleep n) ∧ l < w.lanesN ∧ laneBit s.evt.mask l = true ∧ s.clock (courseOf w.ashlar) < n)
      ∧ ∃ l n, (w.lane l).stat = .parked (.sleep n) ∧ laneBit s.evt.mask l = false)
    ∧ (∃ (s : State) (w : Wave) (o : Op), s.wave? s.evt.a = some w ∧ w.away = false ∧ w.ops.find? (·.id == s.evt.b) = some o
      ∧ o.wait = .ready ∧ w.sfuWaits o = false ∧ o.done &&& o.lanes &&& s.evt.mask ≠ 0 ∧ o.lanes &&& ~~~(o.done &&& o.lanes &&& s.evt.mask) = 0
      ∧ ∃ l r x, o.dsts = [(l, .vreg l r x)] ∧ o.skip = [] ∧ laneBit (o.done &&& o.lanes &&& s.evt.mask) l = true ∧ l < w.lanesN
        ∧ w.isThread = false ∧ r < (w.lane l).v.length ∧ r = 127)
    ∧ (∃ (s : State) (w : Wave) (o : Op), s.wave? s.evt.a = some w ∧ w.away = false ∧ w.ops.find? (·.id == s.evt.b) = some o
      ∧ o.wait = .ready ∧ w.sfuWaits o = false ∧ o.done &&& o.lanes &&& s.evt.mask ≠ 0 ∧ ∃ l n x, o.dsts = [(l, .sreg n x)] ∧ o.skip = [] ∧ laneBit (o.done &&& o.lanes &&& s.evt.mask) l = true
        ∧ n < w.s.length ∧ n = 63)
    ∧ (∃ (s : State) (w : Wave) (l : Nat), s.wave? s.evt.a = some w ∧ w.clause = none ∧ l < w.lanesN ∧ l < 64 ∧ s.evt.mask = oneLane l
      ∧ (w.lane l).waited = 100000000000 ∧ (w.lane l).stat = .run ∧ (w.lane l).fault = none ∧ s.counting = true)
    ∧ (∃ (s : State) (w : Wave) (r : Run) (l : Nat) (f : FaultRec), s.ticketed s.evt.a s.evt.b = some w ∧ s.wave? w.id = some w
      ∧ s.run? w.run = some r ∧ r.cancelling = false ∧ r.posted = false ∧ l < w.lanesN ∧ laneBit (w.setLanes w.svcSet) l = true
      ∧ (w.lane l).fault = some f)
    ∧ (∃ (s : State) (w : Wave) (o : Op) (d sd : Nat) (b : Bool), s.wave? s.evt.a = some w ∧ o ∈ w.ops
      ∧ o.wait = .mwait (some d) sd b none ∧ d = s.now ∧ s.armedBefore w o = true ∧ s.mwaitNow w o = none)
    ∧ ∃ (s : State) (w : Wave), s.wave? s.evt.a = some w ∧ s.killable w = true ∧ w.lanesN ≤ 64 :=
  let z (l : Nat) (n : Nat) (q : List Park) (w : Wave) : Wave :=
    { w with lanes := w.lanes.modify l fun l => { l with stat := .parked (.sleep n), also := q } }
  let w1 := z 15 0 [] (z 14 0 [.sbwait 2] (z 13 1 [] (z 12 0 [] idleWave)))
  let o2 : Op := { id := 9, sb := 0, lanes := 0x8000, done := 0x8000, dsts := [(15, .vreg 15 127 7)] }
  let o3 : Op := { id := 9, sb := 0, lanes := 0x8000, done := 0x8000, dsts := [(15, .sreg 63 7)] }
  let w4 := { idleWave with lanes := idleWave.lanes.modify 15 fun l => { l with waited := 100000000000 } }
  let w5 := { faultWave 0 0 true with ticket := some 3, svcSet := 5 }
  let x6 : Watch := { addr := 0x10000, space := 0, cmp := 0, value := 0, flagged := false, armedAt := 0 }
  let o6 : Op := { id := 9, sb := 0, lanes := 1, wait := .mwait (some 0) 4 false none }
  ⟨⟨evtDev w1 { a := 1, mask := 0xE000 }, w1, rfl, by decide +kernel, ⟨15, 0, by decide +kernel⟩, ⟨14, 0, by decide +kernel⟩,
      ⟨13, 1, by decide +kernel⟩, 12, 0, by decide +kernel⟩,
    ⟨evtDev (opWave o2) { a := 1, b := 9, mask := 0xFFFF }, opWave o2, o2, rfl, by decide +kernel, rfl, rfl, by decide +kernel, by decide +kernel,
      by decide +kernel, 15, 127, 7, rfl, rfl, by decide +kernel, by decide +kernel, by decide +kernel, by decide +kernel, rfl⟩,
    ⟨evtDev (opWave o3) { a := 1, b := 9, mask := 0xFFFF }, opWave o3, o3, rfl, by decide +kernel, rfl, rfl, by decide +kernel, by decide +kernel, 15, 63, 7, rfl, rfl,
      by decide +kernel, by decide +kernel, rfl⟩,
    ⟨evtDev w4 { a := 1, mask := 0x8000 }, w4, 15, rfl, rfl, by decide +kernel⟩,
    ⟨evtDev w5 { a := 0, b := 3 }, w5, placeRun 1 (placeNode false false false), 0, { set := 5, cls := 14, service := true }, rfl, rfl, rfl,
      rfl, rfl, by decide +kernel⟩,
    ⟨evtDev { opWave o6 with watch := some x6 } { a := 1 }, { opWave o6 with watch := some x6 }, o6, 0, 4, false, rfl,
      List.mem_cons_self, rfl, rfl, by decide +kernel, by decide +kernel⟩,
    ⟨{ evtDev idleWave { a := 1 } with runs := [cancelledRun] }, idleWave, rfl, by decide +kernel⟩⟩

/-- A run whose instance of node 0 on die 0 holds records. -/
def queuedRun (nd : Node) (n : Nat) (i : Inst) : Run :=
  { placeRun 1 nd with insts := [{ i with recs := List.replicate n { bytes := List.replicate 16 0 } }, {}] }

/-- A device with that run and no wave. -/
def queuedDev (nd : Node) (n : Nat) (i : Inst) (e : EvArgs) : State :=
  { tDev idleWave with waves := [], runs := [queuedRun nd n i], evt := e }

/-- A record's arrival, an age at its limit, a bin filled or at its limit, a draining wave, a held stream, a window and a split change
(RecordAndWaveEvents). -/
theorem test_meets_RecordAndWave :
    (∃ (s : State) (q : Req) (r : Run) (node die : Nat) (recs : List QRec), s.req? s.evt.a = some q ∧ q.body = .append node die recs [] ∧ q.cross = none
      ∧ s.ready q = true ∧ s.reqs.head? = some q ∧ s.run? q.run = some r ∧ r.cancelling = false ∧ q.wave ≠ 0 ∧ 2 * node + die < r.insts.length)
    ∧ (∃ (s : State) (r : Run) (nd : Node) (q : QRec) (qs : List QRec), s.run? s.evt.a = some r ∧ r.node? s.evt.b = some nd
      ∧ (r.inst s.evt.b s.evt.c).all = q :: qs ∧ nd.batchage ≠ 0 ∧ q.at_ + nd.batchage * 1000000 = s.now
      ∧ 2 * s.evt.b + s.evt.c < r.insts.length)
    ∧ (∃ (s : State) (b : Bin) (nd : Node) (kb : List DWord × List DWord) (g x : Nat), ((s.ashlar s.evt.a).bins.getD s.evt.b none) = some b
      ∧ s.node? b.run b.node = some nd ∧ b.since + nd.binPs = s.now ∧ s.dieHeld (dieOf s.evt.a) = false ∧ nd.isControl = false
      ∧ 0 < nd.width ∧ b.lanes.length = 1 ∧ s.evt.b < (s.ashlar s.evt.a).bins.length
      ∧ (s.ashlar s.evt.a).retired = false ∧ s.awaited s.evt.a none = false ∧ s.tables b.run (dieOf s.evt.a) b.slot nd = .inr kb
      ∧ findGranules (s.ashlar s.evt.a).usedGranules (s.ashlar s.evt.a).granules nd.pscr 0 = some (g, x))
    ∧ (∃ (s : State) (w : Wave), s.wave? s.evt.a = some w ∧ s.retirable w = true)
    ∧ (∃ (s : State) (w : Wave) (r : Run), s.wave? s.evt.a = some w ∧ s.streamStuck w = true ∧ w.streamHeld = 100000000000 ∧ s.counting = true
      ∧ s.run? w.run = some r ∧ r.cancelling = false ∧ r.posted = false)
    ∧ (∃ s : State, s.window < s.now / 100000000 ∧ s.now = 100000000)
    ∧ (∃ (s : State) (n : Nat), s.evt.a < s.ashlars.length ∧ s.evt.a = 127 ∧ (s.ashlar s.evt.a).splitNext = some n
      ∧ (∀ u ∈ (s.ashlar s.evt.a).usedGranules, u.2 = 0 ∨ u.1 + u.2 ≤ splitGranules n)
      ∧ splitGranules n < splitGranules (s.ashlar s.evt.a).split)
    ∧ ∃ (s : State) (n : Nat), s.evt.a < s.ashlars.length ∧ s.evt.a = 127 ∧ (s.ashlar s.evt.a).splitNext = some n
      ∧ (∀ u ∈ (s.ashlar s.evt.a).usedGranules, u.2 = 0 ∨ u.1 + u.2 ≤ splitGranules n)
      ∧ (∀ k ∈ s.l1, k.cache = s.evt.a → k.dirty = 0) ∧ s.l1 ≠ [] ∧ s.backsOf [s.evt.a] = [] :=
  let q1 : Req := { id := 7, wave := 1, run := 1, path := pathQ, write := true, read := false, body := .append 0 1 [{ bytes := [] }] [] }
  let s1 := { evtDev idleWave { a := 7 } with reqs := [q1] }
  let n2 := { placeNode false false false with batchage := 4 }
  let s2 := { queuedDev n2 1 {} { a := 1 } with now := 4000000 }
  let b3 : Bin := { run := 1, slot := 0, node := 0, pc := 0x10000, width := 16, regs := 128, since := 0, lanes := [{ v := List.replicate 128 0, p := 0 }] }
  let s3 := { (evtDev idleWave {}).modAshlar 0 fun a => { a with bins := a.bins.set 63 (some b3) } with evt := { a := 0, b := 63 }, now := 2000000 }
  let w4 := { idleWave with stat := .draining }
  let w5 := { w4 with streamHeld := 100000000000 }
  let s5 := (evtDev w5 { a := 1 }).modAshlar 0 fun a =>
    { a with array := { a.array with streams := [{ req := 3, wave := 1, block := tBlock, planes := [] }] } }
  let s7 (g : Bool) : State := { evtDev idleWave { a := 127 } with
    ashlars := (tDev idleWave).ashlars.modify 127 fun a =>
      { a with split := if g then 7 else 0, splitNext := some 1, regions := [(9, 16, 16)] }
    l1 := [{ cache := 127, line := 0x10000, data := [], valid := 0, dirty := 0 }] }
  ⟨⟨s1, q1, placeRun 1 (placeNode false false false), 0, 1, [{ bytes := [] }], rfl, rfl, rfl, by decide +kernel, rfl, rfl, rfl,
      by decide, by decide⟩,
    ⟨s2, queuedRun n2 1 {}, n2, { bytes := List.replicate 16 0 }, [], rfl, rfl, by decide +kernel, by decide, by decide, by decide⟩,
    ⟨s3, b3, placeNode false false false, (List.replicate 64 0, List.replicate 64 0), 16, 0, by decide +kernel, rfl, by decide +kernel⟩,
    ⟨evtDev w4 { a := 1 }, w4, rfl, by decide +kernel⟩,
    ⟨s5, w5, placeRun 1 (placeNode false false false), rfl, by decide +kernel, rfl, by decide +kernel, rfl, rfl, rfl⟩,
    ⟨{ tDev idleWave with now := 100000000 }, by decide +kernel, rfl⟩,
    ⟨s7 true, 1, by decide +kernel⟩, ⟨s7 false, 1, by decide +kernel⟩⟩

/-! ### Hypotheses of scheduling -/

/-- A node whose records make one wave, with room on its edges. -/
def schedDev : State := (queuedDev (placeNode false false false) 16 {} { a := 0 }).modSlot 0 fun x => { x with share := 1 }

/-- One candidate, which finds an ashlar (SchedulingEvents). -/
theorem test_meets_Decision : ∃ (s : State) (c : Cand) (a : Nat) (v : State), s.evt.a < 2 ∧ s.decides s.evt.a = true
    ∧ (let u := s.beforeDecision s.evt.a
       u.cands s.evt.a = [c] ∧ c.wave = none ∧ (u.slot c.slot).rt = false ∧ (u.slot c.slot).share ≠ 0 ∧ c.slot < 64
       ∧ u.now < c.since + 1000000000 ∧ (u.spot s.evt.a c).isSome = true ∧ (u.chargeWin c.slot [c.slot]).spot s.evt.a c = some (a, v)) := by
  have h1 : ((schedDev.beforeDecision 0).cands 0).length = 1 := by decide +kernel
  obtain ⟨c, hc⟩ := List.length_eq_one_iff.1 h1
  have h2 : ((schedDev.beforeDecision 0).cands 0).all (fun c => c.wave.isNone && !((schedDev.beforeDecision 0).slot c.slot).rt
      && ((schedDev.beforeDecision 0).slot c.slot).share != 0 && decide (c.slot < 64)
      && decide ((schedDev.beforeDecision 0).now < c.since + 1000000000) && ((schedDev.beforeDecision 0).spot 0 c).isSome
      && (((schedDev.beforeDecision 0).chargeWin c.slot [c.slot]).spot 0 c).isSome) = true := by decide +kernel
  rw [hc] at h2
  simp only [List.all_cons, List.all_nil, Bool.and_true, Bool.and_eq_true, decide_eq_true_eq, Bool.not_eq_true', bne_iff_ne] at h2
  obtain ⟨⟨⟨⟨⟨⟨h3, h4⟩, h5⟩, h6⟩, h7⟩, h8⟩, h9⟩ := h2
  obtain ⟨⟨a, v⟩, h10⟩ := Option.isSome_iff_exists.1 h9
  exact ⟨schedDev, c, a, v, by decide, by decide +kernel, hc, by simpa using h3, h4, h5, h6, h7, h8, h10⟩

/-- Its records are on chip, its tables read, and its edges have room (SchedulingEvents). -/
theorem test_meets_PlaceNew : ∃ (s : State) (d : Nat) (c : Cand) (kb : List DWord × List DWord) (rr : Run × List Resv),
    ((c.run.inst c.n c.src).takeOut (fun q => q.cls == c.cls) c.recs.length).2 = [] ∧ c.run.isMesh c.n = false ∧ s.tables c.run.id d c.run.slot c.node = .inr kb
    ∧ c.run.reserveAll c.node d = some rr := by
  let nd := placeNode false false false
  let c : Cand := { run := queuedRun nd 16 {}, n := 0, node := nd, src := 0, recs := List.replicate 16 { bytes := List.replicate 16 0 }, formed := 0, since := 0 }
  have h : (c.run.reserveAll c.node 0).isSome = true := by decide +kernel
  obtain ⟨rr, hr⟩ := Option.isSome_iff_exists.1 h
  exact ⟨schedDev, 0, c, (List.replicate 64 0, List.replicate 64 0), rr, by decide +kernel, by decide +kernel, by decide +kernel, hr⟩

/-- A node whose only output is to its own queue on the same die. -/
def fullNode (q : Nat) : Node := { placeNode false false false with qcap := q, edges := List.replicate 8 ⟨0, 1, true⟩ }

/-- Spill timeouts at SPILLTO: a candidate that is due, nothing blocked, an instance that can never have the room, one that is full
(SchedulingEvents). -/
theorem test_meets_Spills : ∀ k ∈ [0, 1, 2, 3], ∃ (s : State) (r : Run), s.run? s.evt.a = some r ∧ r.cancelling = false
    ∧ (r.insts.any fun i => i.queued != 0) = true ∧ r.placedAt + r.spillTo * 1000000 = s.now ∧ s.runBusy r = false
    ∧ (let due := ((s.cands 0).any fun c => c.run.id == r.id) || (s.cands 1).any fun c => c.run.id == r.id
       if k = 0 then due = true
       else if k = 1 then s.blocked r = []
       else if k = 2 then due = false ∧ s.blocked r ≠ [] ∧ (s.overCap r).isSome = true
       else due = false ∧ s.overCap r = none ∧ (∃ b ∈ s.blocked r, (r.inst b.1 b.2.1).fresh ≠ [])
         ∧ ∀ nd ∈ r.nodes, nd.isProgram = true → 0 < nd.width) := by
  have h : ∀ k ∈ [0, 1, 2, 3],
      (let nd := fullNode ([2 ^ 24, 2 ^ 24, 127, 128].getD k 0)
       let r := queuedRun nd (if k = 1 then 1 else 16) {}
       let s := { queuedDev nd (if k = 1 then 1 else 16) {} { a := 1 } with now := 20000000 }
       (r.insts.any fun i => i.queued != 0) = true ∧ r.placedAt + r.spillTo * 1000000 = s.now ∧ s.runBusy r = false
       ∧ (let due := ((s.cands 0).any fun c => c.run.id == r.id) || (s.cands 1).any fun c => c.run.id == r.id
          if k = 0 then due = true
          else if k = 1 then s.blocked r = []
          else if k = 2 then due = false ∧ s.blocked r ≠ [] ∧ (s.overCap r).isSome = true
          else due = false ∧ s.overCap r = none ∧ (∃ b ∈ s.blocked r, (r.inst b.1 b.2.1).fresh ≠ [])
            ∧ ∀ nd ∈ r.nodes, nd.isProgram = true → 0 < nd.width)) := by decide +kernel
  intro k hk
  exact ⟨{ queuedDev (fullNode ([2 ^ 24, 2 ^ 24, 127, 128].getD k 0)) (if k = 1 then 1 else 16) {} { a := 1 } with now := 20000000 },
    queuedRun (fullNode ([2 ^ 24, 2 ^ 24, 127, 128].getD k 0)) (if k = 1 then 1 else 16) {}, rfl, rfl, h k hk⟩

/-- A wait of 50 µs; a save that the queue ways hold; a restore (SchedulingEvents). -/
theorem test_meets_Saves :
    (∃ (s : State) (w : Wave), s.wave? s.evt.a = some w ∧ w.stat = .resident ∧ w.mwaiting = true ∧ s.mwaitEnds w = false
      ∧ w.waitSince + 50000000 = s.now)
    ∧ (∃ (s : State) (w : Wave), s.wave? s.evt.a = some w ∧ s.savable w = true ∧ s.parkSaves w = false
      ∧ s.transferFirst w = true ∧ w.svcAsked = false
      ∧ w.contextBytes + 64 * s.fifoOf w ≤ s.roomFor w.run (s.queueDie w.die))
    ∧ (∃ (s : State) (w : Wave), s.wave? s.evt.a = some w ∧ w.stat = .restoring ∧ w.ashlar = s.evt.b ∧ s.transferFirst w = true
      ∧ w.savedUnits = none)
    ∧ ∃ (s : State) (w : Wave) (r : Run) (u k addr : Nat), s.wave? s.evt.a = some w ∧ w.stat = .restoring ∧ w.ashlar = s.evt.b
      ∧ s.transferFirst w = true ∧ w.savedUnits = some (u, k) ∧ s.run? w.run = some r ∧ r.cancelling = false
      ∧ s.spillFail r u k = some addr :=
  let x1 : Watch := { addr := 0x10000, space := 0, cmp := 0, value := 0, flagged := false, armedAt := 0 }
  let w1 := { opWave { id := 9, sb := 0, lanes := 1, wait := .mwait none 4 false none } with watch := some x1 }
  let w2 := { idleWave with stat := .saveAsked, saveFor := 1 }
  let w3 := { idleWave with stat := .restoring }
  let w4 := { w3 with savedUnits := some (0, 1) }
  ⟨⟨{ evtDev w1 { a := 1 } with now := 50000000 }, w1, rfl, rfl, by decide +kernel⟩,
    ⟨evtDev w2 { a := 1 }, w2, rfl, by decide +kernel⟩,
    ⟨evtDev w3 { a := 1, b := 0 }, w3, rfl, rfl, by decide +kernel⟩,
    ⟨evtDev w4 { a := 1, b := 0 }, w4, placeRun 1 (placeNode false false false), 0, 1, 0, rfl, rfl, rfl, by decide +kernel, rfl, rfl, rfl,
      by decide +kernel⟩⟩

/-! ### Hypotheses of jobs, phases, runs and the host -/

/-- A device with firmware running, the page at 0x10000 mapped for the units of die A and of ashlar 0, and bytes in memory. -/
def jobDev (at_ : Nat) (bytes : List Byte) (e : EvArgs) : State :=
  let s := tDev idleWave
  { s with
    evt := e
    waves := []
    plumb := { s.plumb with state := 2 }
    mem := s.mem.writeN at_ bytes
    tlb := s.tlb ++ [dieTlb 0, dieTlb 1].map fun u =>
      { ashlar := u, asid := 0, page := 1, at_ := 0, entry := placeLeaf, odd := 0, level := 3 } }

/-- A job record of the root queue: one phase, for a slot. -/
def jobBytes (slot : Byte) : List Byte := List.replicate 32 0 ++ [1, 0, slot] ++ List.replicate 29 0

/-- A record waiting at HEAD, for a slot. -/
def rootDev (slot : Byte) : State :=
  let s := jobDev 0 (jobBytes slot) {}
  { s with host := { s.host with tail := 1 } }

/-- The last slot, a slot that is bound, and a slot number that there is not (JobEvents). -/
theorem test_meets_RootQueue :
    (∃ s : State, s.rootDue = true ∧ s.nextJob.slot = 63 ∧ s.slotFor s.nextJob = some 63 ∧ s.jobOk s.nextJob = true ∧ 63 < s.slots.length)
    ∧ (∃ s : State, s.rootDue = true ∧ s.nextJob.slot ≤ 63 ∧ s.slotFor s.nextJob = none)
    ∧ ∃ s : State, s.rootDue = true ∧ s.nextJob.slot = 64 :=
  ⟨⟨rootDev 63, by decide +kernel⟩,
    ⟨rootDev 0, by decide +kernel⟩, ⟨rootDev 64, by decide +kernel⟩⟩

/-- A phase entry of 64 runs (JobEvents). -/
theorem test_meets_Phase : ∃ (s : State) (e : List Byte), s.phaseDue s.evt.a = true ∧ s.evt.a < s.slots.length
    ∧ (let at_ := (s.slot s.evt.a).phases + 16 * (s.slot s.evt.a).phase
       s.cleanVa unitTlb s.evt.a at_ 16 = true ∧ s.unitRead? 0 s.evt.a at_ 16 = some e) ∧ field e 8 1 = 64 ∧ field e 9 7 = 0
    ∧ alignedTo (field e 0 8) 64 = true :=
  let e : List Byte := [0, 0, 1, 0, 0, 0, 0, 0, 64, 0, 0, 0, 0, 0, 0, 0]
  ⟨(jobDev 0x10000 e {}).modSlot 0 fun x => { x with phases := 0x10000 }, e, by decide +kernel⟩

/-- A run descriptor at 0x10000 of one program node, its graph at 0x10080 and one empty root record at 0x10100. -/
def descBytes : List Byte :=
  [0x80, 0, 1, 0, 0, 0, 0, 0, 1, 0, 1, 0, 0, 0, 0, 0, 0, 1, 1, 0, 0, 0, 0, 0] ++ List.replicate 104 0
    ++ [0, 2, 1, 0, 0, 0, 0, 0] ++ List.replicate 44 0 ++ [1, 0, 0, 0, 16, 0, 0, 0, 0, 0, 0, 0, 0, 0, 16, 16] ++ List.replicate 60 0
    ++ List.replicate 16 0

/-- A launch waiting for a descriptor, bytes at 0x10000. -/
def launchDev (desc : Nat) (bytes : List Byte) : State := { jobDev 0x10000 bytes { a := 9 } with launches := [{ id := 9, slot := 0, desc := desc, die := none }] }

/-- Neither the phase nor the job of a launch is cancelled. -/
def launchLive (s : State) (l : Launch) : Prop :=
  ∀ k ∈ s.launches, k.id = l.id → (s.slot k.slot).phaseCancelled = false ∧ (s.slot k.slot).jobCancel = false

/-- A launch whose descriptor is read and is no live run's, with what its checks give: the descriptor's, and the graph's. -/
def launchCase (s : State) (l : Launch) (ok : Bool) (bad : Option Bool) : Prop :=
  s.nextLaunch = some l ∧ l.id = s.evt.a ∧ launchLive s l ∧
  let rc := s.nextRunId s.runCounter 4096
  let s1 := { s with launches := s.launches.filter fun k => k.id != l.id, runCounter := rc.2 }
  ∃ b, s1.unitRead? 0 l.slot l.desc 64 = some b ∧ (s.runAt? l.slot l.desc).isSome = false ∧
    let d := runDescOf b
    let s2 := (s1.launchTouch l.slot l.desc 64).launchTouch l.slot d.roottab (16 * d.rootn)
    let s3 := s2.launchTouch l.slot d.graph (128 * d.nodes)
    let nets := (s3.newRun l d rc.1).nodes.filter fun n => n.isFixed 5
    let s4 := nets.foldl (fun (u : State) n => u.launchTouch l.slot n.fixparam
      (networkBytes (field (u.readAs (.launch l.id) unitTlb l.slot n.fixparam 64) 0 1))) s3
    s2.descOk l.slot l.desc d = ok ∧ ∀ x ∈ bad, (s4.badNode (.launch l.id) l.slot d.graph d.nodes).isSome = x

/-- Shows a launch's case from the descriptor's bytes. -/
theorem launchCase_of {s : State} {l : Launch} {ok : Bool} {bad : Option Bool} (b : List Byte) (h1 : s.nextLaunch = some l)
    (h2 : l.id = s.evt.a) (h6 : launchLive s l) (h3 : ({ s with launches := s.launches.filter fun k => k.id != l.id, runCounter := (s.nextRunId s.runCounter 4096).2 } :
      State).unitRead? 0 l.slot l.desc 64 = some b) (h4 : (s.runAt? l.slot l.desc).isSome = false)
    (h5 : let rc := s.nextRunId s.runCounter 4096
      let s1 := { s with launches := s.launches.filter fun k => k.id != l.id, runCounter := rc.2 }
      let d := runDescOf b
      let s2 := (s1.launchTouch l.slot l.desc 64).launchTouch l.slot d.roottab (16 * d.rootn)
      let s3 := s2.launchTouch l.slot d.graph (128 * d.nodes)
      let nets := (s3.newRun l d rc.1).nodes.filter fun n => n.isFixed 5
      let s4 := nets.foldl (fun (u : State) n => u.launchTouch l.slot n.fixparam
        (networkBytes (field (u.readAs (.launch l.id) unitTlb l.slot n.fixparam 64) 0 1))) s3
      s2.descOk l.slot l.desc d = ok ∧ ∀ x ∈ bad, (s4.badNode (.launch l.id) l.slot d.graph d.nodes).isSome = x) :
    launchCase s l ok bad := ⟨h1, h2, h6, b, h3, h4, h5⟩

/-- A launch of a phase that has been cancelled; of those that have not, a descriptor that cannot be read, one of a live run, one that
fails its checks, one whose graph fails, and one that passes (JobEvents). -/
theorem test_meets_Launch :
    (∃ (s : State) (l : Launch), l ∈ s.launches ∧ l.id = s.evt.a ∧ (s.slot l.slot).phaseCancelled = true)
    ∧ (∃ (s : State) (l : Launch), s.nextLaunch = some l ∧ l.id = s.evt.a ∧ launchLive s l ∧ s.unitRead? 0 l.slot l.desc 64 = none)
    ∧ (∃ (s : State) (l : Launch), s.nextLaunch = some l ∧ l.id = s.evt.a ∧ (s.unitRead? 0 l.slot l.desc 64).isSome = true
      ∧ (s.runAt? l.slot l.desc).isSome = true)
    ∧ (∃ s l, launchCase s l false none) ∧ (∃ s l, launchCase s l true (some true)) ∧ ∃ s l, launchCase s l true (some false) := by
  let l : Launch := { id := 9, slot := 0, desc := 0x10000, die := none }
  let bad (i : Nat) (x : Byte) : List Byte := descBytes.set i x
  refine ⟨⟨(launchDev 0x10000 descBytes).modSlot 0 fun x => { x with phaseCancelled := true }, l, List.mem_cons_self, rfl, by decide +kernel⟩,
    ⟨launchDev 0x20000 descBytes, { l with desc := 0x20000 }, rfl, rfl, by unfold launchLive; decide +kernel, by decide +kernel⟩,
    ⟨{ launchDev 0x10000 descBytes with runs := [{ placeRun 1 (placeNode false false false) with desc := 0x10000 }] }, l, rfl, rfl,
      by decide +kernel⟩,
    ⟨launchDev 0x10000 (bad 10 9), l, launchCase_of ((bad 10 9).take 64) rfl rfl (by unfold launchLive; decide +kernel) (by decide +kernel) rfl (by decide +kernel)⟩,
    ⟨launchDev 0x10000 (bad 194 17), l, launchCase_of ((bad 194 17).take 64) rfl rfl (by unfold launchLive; decide +kernel) (by decide +kernel) rfl (by decide +kernel)⟩,
    ⟨launchDev 0x10000 descBytes, l, launchCase_of (descBytes.take 64) rfl rfl (by unfold launchLive; decide +kernel) (by decide +kernel) rfl (by decide +kernel)⟩⟩

/-- A run at its end, before and after its bytes are home (JobEvents). -/
theorem test_meets_Completion : ∀ f : Bool, ∃ (s : State) (r : Run), s.run? s.evt.a = some r ∧ s.runOver r = true ∧ r.flushed = f
    ∧ s.backsOf (s.runCaches r) = [] := by
  intro f
  exact ⟨{ jobDev 0 [] { a := 1 } with runs := [{ cancelledRun with flushed := f }] }, { cancelledRun with flushed := f }, rfl,
    by cases f <;> decide +kernel, rfl, by cases f <;> decide +kernel⟩

/-- A job with a phase started and one between phases, a phase that is over and one that is not, and a run of each kind (JobEvents). -/
theorem test_meets_SlotCommands : (∀ started : Bool, ∃ s : State, s.firmwareRuns = true ∧ s.evt.a < s.slots.length
    ∧ (s.slot s.evt.a).bound = true ∧ (s.slot s.evt.a).started = started)
    ∧ (∀ fin : Bool, ∃ s : State, s.firmwareRuns = true ∧ (s.slot s.evt.a).bound = true ∧ (s.slot s.evt.a).started = true
      ∧ s.phaseOver s.evt.a = fin)
    ∧ ∀ fed : Bool, ∃ (s : State) (r : Run), s.run? 1 = some r ∧ r.cancelling = false ∧ s.runCount r = 0 ∧ r.rootsFed = fed :=
  let d := fun (fed : Bool) => { jobDev 0 [] {} with runs := [{ placeRun 1 (placeNode false false false) with rootsFed := fed }] }
  ⟨fun b => ⟨(jobDev 0 [] {}).modSlot 0 fun x => { x with started := b }, by cases b <;> decide +kernel, by cases b <;> decide +kernel,
    by cases b <;> decide +kernel, by cases b <;> decide +kernel⟩,
    fun o => ⟨(d o).modSlot 0 fun x => { x with started := true }, by cases o <;> decide +kernel⟩,
    fun f => ⟨d f, { placeRun 1 (placeNode false false false) with rootsFed := f }, rfl, rfl, by cases f <;> decide +kernel, rfl⟩⟩

/-- The queue at rest, in error and in use; the last counter of the last ashlar; firmware that does not run (HostEvents). -/
theorem test_meets_HostRegisters :
    (∃ s : State, s.firmwareRuns = true ∧ s.host.head = s.host.tail)
    ∧ (∃ s : State, s.firmwareRuns = true ∧ s.host.head ≠ s.host.tail ∧ s.host.err = true)
    ∧ (∃ s : State, s.firmwareRuns = true ∧ ¬(s.host.head = s.host.tail ∨ s.host.err = true))
    ∧ (∃ s : State, s.firmwareRuns = true ∧ s.evt.b = 15 ∧ s.evt.b ≤ (s.ashlar s.evt.a).pmc.length
      ∧ s.evt.b ≤ (s.ashlar s.evt.a).pmcsel.length ∧ s.evt.a < s.ashlars.length ∧ s.evt.a = 127)
    ∧ ∃ s : State, s.firmwareRuns = false :=
  let e := { rootDev 0 with host := { (rootDev 0).host with err := true } }
  ⟨⟨jobDev 0 [] {}, by decide +kernel⟩, ⟨e, by decide +kernel, by decide +kernel, rfl⟩,
    ⟨rootDev 0, by decide +kernel⟩,
    ⟨jobDev 0 [] { a := 127, b := 15 }, by decide +kernel, rfl, by decide +kernel, by decide +kernel, by decide +kernel, rfl⟩,
    ⟨State.reset, by decide +kernel⟩⟩

/-- An invalidation with no translated request, and a change of L1 mode on an empty L1 (HostEvents). -/
theorem test_meets_Invalidation : (∃ s : State, s.host.invgo = true ∧ ∀ r ∈ s.reqs, s.translated r = false)
    ∧ ∃ (s : State) (m : Bool), (s.course s.evt.a).l1next = some m ∧ s.evt.a < s.courses.length ∧ s.evt.a = 15
      ∧ (∀ k ∈ s.l1, (courseAshlars s.evt.a).contains k.cache = true → k.dirty = 0)
      ∧ ∀ r ∈ s.reqs, ∀ p, r.body = .packet p → (courseAshlars s.evt.a).contains p.src = true → p.stage = .performed :=
  let s := jobDev 0 [] {}
  let t := (jobDev 0 [] { a := 15 }).modCourse 15 fun x => { x with l1next := some true }
  have h : t.reqs = [] := rfl
  ⟨⟨{ s with host := { s.host with invgo := true } }, rfl, by decide +kernel⟩,
    ⟨t, true, by decide +kernel, by decide +kernel, rfl, by decide +kernel, fun r hr => by rw [h] at hr; cases hr⟩⟩

/-- A read and a write of the last bytes of the window, over the last bytes of HBM, and a read whose line is on its way (HostEvents). -/
theorem test_meets_Window : (∃ (s : State) (off len : Nat), s.evt.acc = .read off len ∧ s.firmwareRuns = true ∧ off + len = s.host.barSize
      ∧ s.host.winbase + off + len = hbmTop ∧ (s.host.bar2Lines off len).all (s.reach pcieSrc) = true)
    ∧ (∃ (s : State) (off len : Nat), s.evt.acc = .read off len ∧ s.firmwareRuns = true ∧ off + len = s.host.barSize
      ∧ s.host.winbase + off + len = hbmTop ∧ (s.host.bar2Lines off len).all (s.reach pcieSrc) = false)
    ∧ ∃ (s : State) (off : Nat) (data : List Byte), s.evt.acc = .write off data ∧ s.firmwareRuns = true ∧ s.memOk
      ∧ off + data.length = s.host.barSize ∧ s.host.winbase + off + data.length = hbmTop
      ∧ (s.host.bar2Lines off data.length).all (s.reach pcieSrc) = true :=
  let s := jobDev 0 [] { acc := .read (2 ^ 30 - 8) 8 }
  let t := jobDev 0 [] { acc := .write (2 ^ 30 - 1) [7] }
  let n := hbmTop / 64 - 1
  let p : Packet := { src := pcieSrc, home := s.home n, seq := 0, line := n, kind := .store, pieces := [] }
  let q : Req := { id := 7, wave := 0, path := 0, write := true, read := false, body := .packet p }
  ⟨⟨{ s with host := { s.host with winbase := hbmTop - 2 ^ 30 } }, 2 ^ 30 - 8, 8, rfl, by decide +kernel⟩,
    ⟨{ s with host := { s.host with winbase := hbmTop - 2 ^ 30 }, reqs := [q] }, 2 ^ 30 - 8, 8, rfl, by decide +kernel⟩,
    ⟨{ t with host := { t.host with winbase := hbmTop - 2 ^ 30 } }, 2 ^ 30 - 1, [7], rfl, by decide +kernel,
      by unfold State.memOk; decide +kernel, by decide +kernel⟩⟩

/-- The registers of the statement, the mailbox closed and open to the host (HostEvents). -/
theorem test_meets_RegisterWrite : (∀ off ∈ [0x40000, 0x40008, 0x40038, 0x40048, 0x50000, 0x5FFF8, 0x20000 + 256 * 63 + 0x28,
      0x20000 + 256 * 63 + 0x10, 0x31000], ∃ s : State, s.evt.a % 8 = 0 ∧ s.evt.b = 0 ∧ s.evt.a = off ∧ s.mailOpen = true ∧ s.host.doorbell = false
        ∧ s.evt.v.getLsbD 0 = true ∧ s.firmwareRuns = true ∧ s.evt.flag = false)
    ∧ (∃ s : State, s.evt.a % 8 = 0 ∧ s.evt.b = 0 ∧ s.host.doorbell = true ∧ s.evt.a = 0x40048) ∧ (∃ s : State, s.evt.a % 8 ≠ 0)
    ∧ ∃ s : State, s.evt.b ≠ 0 ∧ s.evt.a = 0x40000 := by
  refine ⟨fun off h => ⟨jobDev 0 [] { a := off, v := 1 }, ?_, rfl, rfl, rfl, rfl, (by decide : (1 : DWord).getLsbD 0 = true), rfl, rfl⟩,
    ⟨{ jobDev 0 [] { a := 0x40048 } with host := { (jobDev 0 [] {}).host with doorbell := true } }, by decide +kernel, rfl, rfl, rfl⟩,
    ⟨jobDev 0 [] { a := 0x40047 }, by decide +kernel⟩,
    ⟨jobDev 0 [] { a := 0x40000, b := 1 }, by decide +kernel⟩⟩
  simp only [List.mem_cons, List.not_mem_nil, or_false] at h
  rcases h with rfl | rfl | rfl | rfl | rfl | rfl | rfl | rfl | rfl <;> decide +kernel

/-! ### Hypotheses of memory, synchronisation and engine events -/

/-- The device with requests in flight, numbered below 100, and an event about request 7. -/
def reqDev (w : Wave) (rs : List Req) (e : EvArgs) : State := { evtDev w e with reqs := rs, nextId := 100 }

/-- The packet of lane 15's one access at 0x10040. -/
def tPacket (k : AccKind) (st : Stage) (n : Nat) (data : List Byte) (parent : Option Nat) : Packet where
  src := 0
  home := 0
  seq := 0
  line := 0x401
  kind := k
  pieces := [{ lane := 15, addr := 0x10040, off := 0, len := n, data := data }]
  stage := st
  parent := parent

/-- A request of wave 1 and run 1 with a body. -/
def tReq (id : Nat) (b : ReqBody) : Req where
  id := id
  wave := 1
  run := 1
  path := pathL
  write := true
  read := true
  lanes := 0x8000
  body := b

/-- A load of lane 15, its packet out, of instruction 9. -/
def tLoad (sent : Bool) : MemReq where
  kind := .load
  space := 0
  dst := .vregs 127 4 false
  sent := sent
  items := [laneItem 15 0x10040 4 []]

/-- A packet one hop from its home; a load that has to go on to the stack; stores, atomics and loads at their home, each of one piece; a load's reply at its lane
(MemoryEvents). -/
theorem test_meets_Packets :
    (∃ (s : State) (r : Req) (p : Packet), s.req? s.evt.a = some r ∧ r.body = .packet p ∧ p.stage = .flight ∧ r.cross = none ∧ p.there = false)
    ∧ (∃ (s : State) (r : Req) (p : Packet) (q : Piece), s.req? s.evt.a = some r ∧ r.body = .packet p ∧ p.stage = .flight ∧ r.cross = none
      ∧ p.there = true ∧ p.told = false ∧ s.packetEarly r.id p = false ∧ p.short = false ∧ p.pieces = [q] ∧ s.memOk ∧ s.parentMem p = none
      ∧ s.needsStack p = true ∧ p.fetched = false)
    ∧ (∀ k ∈ [(AccKind.store), .atomic .add, .load], ∃ (s : State) (r : Req) (p : Packet) (q : Piece), s.req? s.evt.a = some r
      ∧ r.body = .packet p ∧ p.stage = .flight ∧ r.cross = none ∧ p.there = true ∧ p.told = false ∧ s.packetEarly r.id p = false
      ∧ p.short = false ∧ p.pieces = [q] ∧ s.memOk ∧ s.parentMem p = none ∧ p.fetched = true ∧ p.kind = k ∧ p.fill = none ∧ s.bad p.line = false
      ∧ (∀ op, k = .atomic op → (op.bytes (s.mem.readN q.addr q.len) q.data).length = q.len))
    ∧ ∃ (s : State) (r : Req) (p : Packet) (u : Req) (m : MemReq) (it : Item) (q : Piece) (o : Nat) (w : Wave), s.req? s.evt.a = some r
      ∧ r.body = .packet p ∧ p.stage = .performed ∧ r.cross = none ∧ p.there = true ∧ (∀ q ∈ s.reqs, q.id < s.nextId) ∧ p.parent = some u.id
      ∧ s.req? u.id = some u ∧ u.body = .mem m ∧ m.kind = .load ∧ m.items = [it] ∧ p.pieces = [q] ∧ it.lane = q.lane
      ∧ it.left = q.data.length ∧ u.op = some o ∧ s.wave? u.wave = some w
      ∧ s.reqs.all (fun k => match k.body with | .packet z => z.stage != .window | _ => true) = true := by
  refine ⟨⟨reqDev idleWave [tReq 7 (.packet { tPacket .load .flight 4 [] none with router := 5 })] { a := 7 }, _, _, rfl, rfl, rfl, rfl,
      by decide +kernel⟩, ⟨reqDev idleWave [tReq 7 (.packet (tPacket .load .flight 4 [] none))] { a := 7 }, _, tPacket .load .flight 4 [] none, _,
      rfl, rfl, rfl, rfl, by decide +kernel, rfl, rfl, rfl, rfl, (by decide +kernel : (tDev idleWave).mem.wf = true), rfl, by decide +kernel, rfl⟩,
    fun k hk => ⟨reqDev idleWave [tReq 7 (.packet { tPacket k .flight 4 [1, 2, 3, 4] none with fetched := true })] { a := 7 }, _,
      { tPacket k .flight 4 [1, 2, 3, 4] none with fetched := true }, _, rfl, rfl, rfl, rfl, rfl, rfl, rfl, rfl, rfl,
      (by decide +kernel : (tDev idleWave).mem.wf = true), rfl, rfl, rfl, rfl, rfl, ?_⟩, ?_⟩
  · intro op hop
    subst hop
    have : op = .add := by
      simp only [List.mem_cons, List.not_mem_nil, or_false, reduceCtorEq, false_or] at hk
      simpa using hk
    subst this
    decide +kernel
  · let u : Req := { tReq 6 (.mem (tLoad true)) with op := some 9 }
    let p := tPacket .load .performed 4 [1, 2, 3, 4] (some 6)
    let w := opWave { id := 9, sb := 0, lanes := 0x8000, wait := .request 6 }
    exact ⟨reqDev w [u, tReq 7 (.packet p)] { a := 7 }, tReq 7 (.packet p), p, u, tLoad true, _, _, 9, w, rfl, rfl, rfl, rfl, by decide +kernel, by decide +kernel,
      rfl, rfl, rfl, rfl, rfl, rfl, rfl, rfl, rfl, rfl, rfl⟩

/-- A scratch store, an acknowledgement, a short-lived store in a line that is full, marks before and after their promotion, and a walk
that finds the page and one that does not (MemoryEvents). -/
theorem test_meets_MemoryEvents :
    (∃ (s : State) (r : Req) (m : MemReq) (it : Item) (w : Wave), s.req? s.evt.a = some r ∧ r.body = .mem m ∧ m.space = 1 ∧ m.kind = .store
      ∧ m.items = [it] ∧ s.ready r = true ∧ s.lineBusy r m = false ∧ s.wave? r.wave = some w ∧ w.away = false)
    ∧ (∃ (s : State) (r : Req) (p : Packet), s.req? s.evt.a = some r ∧ r.body = .packet p ∧ p.stage = .performed
      ∧ r.cross = none ∧ p.there = true ∧ ∀ q ∈ s.reqs, q.id < s.nextId)
    ∧ (∃ (s : State) (r : Req) (p : Packet), s.req? s.evt.a = some r ∧ r.body = .packet p ∧ p.stage = .fullSet ∧ p.kind = .store
      ∧ (∀ q ∈ s.reqs, q.id = s.evt.a → q = r) ∧ s.keepsShort p.line = false)
    ∧ (∃ (s : State) (r : Req) (p : Packet), s.req? s.evt.a = some r ∧ r.body = .packet p ∧ p.stage = .fullSet ∧ p.kind = .store
      ∧ (∀ q ∈ s.reqs, q.id = s.evt.a → q = r) ∧ s.keepsShort p.line = true ∧ (s.shortBank p.line).isSome)
    ∧ (∃ (s : State) (m : Mark), s.mark? = some m ∧ m.asked = false ∧ s.promotes m = true)
    ∧ (∃ (s : State) (m : Mark), s.mark? = some m ∧ m.asked = true ∧ s.posted m.ashlar = false
      ∧ (∃ r ∈ s.reqs, ∃ p, r.body = .packet p ∧ p.line = m.line ∧ p.stage = .promote)
      ∧ ∀ r ∈ s.reqs, ∀ p, r.body = .packet p → p.line = m.line → p.stage = .promote → r.cross = none ∧ ∃ b, p.kind = .strongLoad b)
    ∧ (∃ (s : State) (r : Req) (m : MemReq) (it : Item), s.req? s.evt.a = some r ∧ r.body = .mem m ∧ m.space = 0 ∧ m.sent = false
      ∧ s.ready r = true ∧ s.lineBusy r m = false ∧ s.walkWaits r = false ∧ m.items = [it]
      ∧ s.pathFault r.ashlar r.slot it.addr it.size m.kind.need = none ∧ (∀ q ∈ s.reqs, q.id < s.nextId)
      ∧ ∀ q ∈ s.reqs, q.id = s.evt.a → q = r)
    ∧ ∃ (s : State) (r : Req) (m : MemReq) (it : Item) (c code o : Nat) (w : Wave) (k : Op), s.req? s.evt.a = some r ∧ r.body = .mem m
      ∧ m.space = 0 ∧ m.sent = false ∧ s.ready r = true ∧ s.lineBusy r m = false ∧ s.walkWaits r = false ∧ m.items = [it]
      ∧ s.pathFault r.ashlar r.slot it.addr it.size m.kind.need = some (c, code) ∧ r.op = some o ∧ s.wave? r.wave = some w
      ∧ w.ops.find? (·.id == o) = some k ∧ m.scalar = false ∧ it.lane < w.lanesN ∧ it.lane < 64 ∧ (w.lane it.lane).late = none
      ∧ (w.lane it.lane).fault = none :=
  let m1 : MemReq := { kind := .store, space := 1, items := [laneItem 15 0xFFFC 4 [1, 2, 3, 4]] }
  let p2 := tPacket .store .performed 4 [1, 2, 3, 4] none
  let p3 := tPacket .store .fullSet 4 [1, 2, 3, 4] none
  let p4 := tPacket (.strongLoad true) .promote 4 [] none
  let s3 : State := { reqDev idleWave [tReq 7 (.packet p3)] { a := 7 } with
    dies := (tDev idleWave).dies.map fun d => { d with slices := d.slices.map fun x => Slice.settled { x with cache := 0, queue := 0, short := 16 } }
    shorts := [{ line := 0x401, bank := 15, data := List.replicate 64 0, deadline := 50 }] }
  let k4 : Mark := { line := 0x401, ashlar := 127 }
  let m7 : MemReq := { tLoad false with items := [laneItem 15 0x20040 4 []] }
  let r7 : Req := { tReq 7 (.mem m7) with op := some 9 }
  let o7 : Op := { id := 9, sb := 0, lanes := 0x8000, wait := .request 7 }
  let w7 := opWave o7
  ⟨⟨reqDev idleWave [tReq 7 (.mem m1)] { a := 7 }, _, m1, _, idleWave, rfl, rfl, rfl, rfl, rfl, by decide +kernel, by decide +kernel, rfl,
      by decide +kernel⟩,
    ⟨reqDev idleWave [tReq 7 (.packet p2)] { a := 7 }, _, p2, rfl, rfl, rfl, rfl, by decide +kernel⟩,
    ⟨reqDev idleWave [tReq 7 (.packet p3)] { a := 7 }, _, p3, rfl, rfl, rfl, rfl, by decide +kernel⟩,
    ⟨s3, _, p3, rfl, rfl, rfl, rfl, by decide +kernel⟩,
    ⟨{ reqDev idleWave [tReq 7 (.packet p4)] { a := 0x401 } with marks := [k4] }, k4, by decide +kernel⟩,
    ⟨{ reqDev idleWave [tReq 7 (.packet p4)] { a := 0x401 } with marks := [{ k4 with asked := true }] }, { k4 with asked := true },
      by decide +kernel, rfl, by decide +kernel, ⟨_, List.mem_singleton.2 rfl, p4, rfl, rfl, rfl⟩,
      fun r hr p hp _ _ => by
        have hr' : r ∈ [tReq 7 (.packet p4)] := hr
        rw [List.mem_singleton] at hr'
        subst hr'
        cases hp
        exact ⟨rfl, true, rfl⟩⟩,
    ⟨reqDev idleWave [tReq 7 (.mem (tLoad false))] { a := 7 }, _, tLoad false, _, rfl, rfl, rfl, rfl, by decide +kernel, by decide +kernel,
      by decide +kernel, rfl, by decide +kernel⟩,
    ⟨reqDev w7 [r7] { a := 7 }, r7, m7, laneItem 15 0x20040 4 [], cTranslation, 0, 9, w7, o7, rfl, rfl, rfl, rfl, by decide +kernel,
      by decide +kernel, by decide +kernel, rfl, by decide +kernel, rfl, rfl, rfl, rfl, by decide +kernel⟩⟩

/-- A keystone entry of run 1. -/
def tKey (f : Keystone → Keystone) : Keystone := f { key := 5, run := 1 }

/-- A request to that entry from a wave of a die. -/
def ordDev (op : OrdOp) (seq : Word) (e : Keystone) (d : Nat) : State :=
  { reqDev { opWave { id := 9, sb := 0, lanes := 0x8000, wait := .request 7 } with die := d } [{ tReq 7 (.order op 15 5 seq 127) with op := some 9 }] { a := 7 }
    with keystones := [e] }

/-- On the home's die and on the other: a take, a base, an enter that is granted, one that a holder and one that its number keeps waiting, a try, a leave and a close
(SynchronisationEvents). -/
theorem test_meets_Keystone : ∀ d < 2, ∀ q ∈ [(OrdOp.take, (0 : Word), tKey id), (.base, 0xFFFFFFFF, tKey id), (.enter, 0, tKey id),
      (.enter, 0, tKey fun e => { e with holder := some (2, 0) }), (.enter, 1, tKey id), (.try_, 0, tKey id),
      (.leave, 0, tKey fun e => { e with holder := some (1, 15) }), (.close, 0, tKey id)],
    ∃ (s : State) (r : Req) (lane o reg : Nat) (key : DWord) (w : Wave), s.req? s.evt.a = some r ∧ r.body = .order q.1 lane key q.2.1 reg
      ∧ r.op = some o ∧ r.cross = none ∧ s.ready r = true ∧ s.ordBehind r key = false ∧ s.keystone? r.run key = some q.2.2 ∧ s.wave? r.wave = some w
      ∧ q.2.2.unit = none ∧ (decide (s.keyHome key / 16 = w.die) = decide (d = 0))
      ∧ q.2.2.waiters = [] ∧ q.2.2.closing = false ∧ ∀ f ∈ s.keystones, f.run = r.run → f.key = key → f = q.2.2 := by
  intro d hd q hq
  have h : q.2.2.run = 1 ∧ q.2.2.key = 5 ∧ q.2.2.waiters = [] ∧ q.2.2.closing = false ∧ q.2.2.unit = none := by
    simp only [List.mem_cons, List.not_mem_nil, or_false] at hq
    rcases hq with rfl | rfl | rfl | rfl | rfl | rfl | rfl | rfl <;> exact ⟨rfl, rfl, rfl, rfl, rfl⟩
  have hh : ∀ d < 2, decide ((ordDev .take 0 (tKey id) d).keyHome 5 / 16 = d) = decide (d = 0) := by decide +kernel
  refine ⟨ordDev q.1 q.2.1 q.2.2 d, _, 15, 9, 127, 5, _, rfl, rfl, rfl, rfl, rfl, rfl, ?_, rfl, h.2.2.2.2, hh d hd, h.2.2.1, h.2.2.2.1, ?_⟩
  · show List.find? _ [q.2.2] = _
    simp [h.1, h.2.1, tReq]
  · intro f hf _ _
    exact List.mem_singleton.1 hf

/-- An entry that has been spilled, whose read fails (SynchronisationEvents). -/
theorem test_meets_KeystoneLost : ∃ (s : State) (r : Req) (lane o reg n addr : Nat) (key : DWord) (seq : Word) (op : OrdOp) (e : Keystone) (run : Run),
    s.req? s.evt.a = some r ∧ r.body = .order op lane key seq reg ∧ r.op = some o ∧ r.cross = none ∧ s.ready r = true
      ∧ s.ordBehind r key = false ∧ s.keystone? r.run key = some e ∧ e.unit = some n ∧ s.run? r.run = some run ∧ run.cancelling = false
      ∧ (s.dropReq r.id).spillFail run n 1 = some addr :=
  let e := tKey fun e => { e with unit := some 3 }
  ⟨ordDev .take 0 e 0, _, 15, 9, 127, 3, 192, 5, 0, .take, e, placeRun 1 (placeNode false false false), rfl, rfl, rfl, rfl, rfl, rfl, rfl, rfl,
    rfl, rfl, by decide +kernel⟩

/-- A stall of 1 ms (SynchronisationEvents). -/
theorem test_meets_Stall : ∃ (s : State) (e : Keystone) (r : Run), s.keystone? s.evt.a s.evt.v = some e ∧ s.run? s.evt.a = some r ∧ e.waiters ≠ []
    ∧ e.stalled = false ∧ e.waited = 1000000000 ∧ s.counting = true :=
  let e := tKey fun e => { e with waiters := [(1, 15, 0, 9)], waited := 1000000000 }
  ⟨{ evtDev idleWave { a := 1, v := 5 } with keystones := [e] }, e, _, rfl, rfl, by decide +kernel, rfl, rfl, by decide +kernel⟩

/-- The device with a request to barrier object 15 of ashlar 127, in a state. -/
def barDev (op : BarOp) (b : Barrier) : State :=
  let w := opWave { id := 9, sb := 0, lanes := 0x8000, wait := .request 7 }
  let s := reqDev w [{ tReq 7 (.barrier op 127 15 0x8000) with op := some 9 }] { a := 7 }
  { s with ashlars := s.ashlars.modify 127 fun a => { a with barriers := a.barriers.set 15 b } }

/-- BINIT of an idle object and of the run's own, arrivals short of EXPECT, at it, and at an object that counts none, and a test
(SynchronisationEvents). -/
theorem test_meets_Barrier : ∀ q ∈ [(BarOp.init 65535 true, ({} : Barrier)), (.init 0 false, { state := .counting, run := 1, expect := 5, arrived := 4 }),
      (.arrive 64 none, { state := .armed, run := 1, expect := 65 }), (.remote 64, { state := .counting, run := 1, expect := 65, arrived := 1 }),
      (.arrive 1 none, { state := .done, run := 1, expect := 1 }), (.test 127 0, { state := .armed, run := 1, expect := 1, ph := 65535 })],
    ∃ (s : State) (r : Req) (a x : Nat) (lanes : Mask) (o : Nat) (w : Wave), s.req? s.evt.a = some r ∧ r.body = .barrier q.1 a x lanes
      ∧ r.cross = none ∧ s.ready r = true ∧ s.barBehind r a x = false ∧ s.cmdBehind r = false ∧ a < s.ashlars.length ∧ x < (s.ashlar a).barriers.length ∧ s.barrier a x = q.2
      ∧ (q.2.state = .idle ∨ q.2.run = r.run) ∧ r.op = some o ∧ s.wave? r.wave = some w := by
  intro q hq
  simp only [List.mem_cons, List.not_mem_nil, or_false] at hq
  refine ⟨barDev q.1 q.2, _, 127, 15, 0x8000, 9, _, rfl, rfl, rfl, rfl, rfl, rfl, ?_, ?_, ?_, ?_, rfl, rfl⟩ <;>
    rcases hq with rfl | rfl | rfl | rfl | rfl | rfl <;> decide +kernel

/-- An open reduction of run 1 at 0x10040. -/
def tReduction (n c : Nat) : Reduction where
  run := 1
  slot := 0
  addr := 0x10040
  pa := 0x10040
  ring := [(0x10080, 16)]
  expect := n
  tag := 0
  op := 0
  count := c

/-- Opening, contributing short of EXPECT and at it, closing, and both at an address that is not open (SynchronisationEvents). -/
theorem test_meets_Reductions :
    (∃ (s : State) (r : Req) (addr pa n tag o : Nat) (ring : List (Nat × Nat)), s.req? s.evt.a = some r ∧ r.body = .reduce (.open_ ring n tag o) addr pa ∧ r.cross = none
      ∧ s.ready r = true ∧ s.cmdBehind r = false ∧ s.reduction? r.run addr = none ∧ n ≠ 0
      ∧ (s.reductions.filter fun x => s.home (x.pa / 64) == s.home (pa / 64)).length < 64)
    ∧ (∀ op ∈ [RedOp.contrib 3, .close], ∀ open_ : Bool, ∃ (s : State) (r : Req) (addr pa : Nat), s.req? s.evt.a = some r
      ∧ r.body = .reduce op addr pa ∧ r.cross = none ∧ s.ready r = true ∧ s.cmdBehind r = false
      ∧ s.reduction? r.run addr = if open_ then some (tReduction 2 1) else none)
    ∧ ∃ (s : State) (r : Req) (addr pa : Nat) (x : Reduction), s.req? s.evt.a = some r ∧ r.body = .reduce (.contrib 3) addr pa ∧ r.cross = none
      ∧ s.ready r = true ∧ s.cmdBehind r = false ∧ s.reduction? r.run addr = some x ∧ x.count + 1 < x.expect :=
  ⟨⟨reqDev idleWave [tReq 7 (.reduce (.open_ [(0x10080, 16)] 1 0 5) 0x10040 0x10040)] { a := 7 }, _, 0x10040, 0x10040, 1, 0, 5, [(0x10080, 16)], rfl, rfl, rfl,
      rfl, rfl, rfl, by decide, by decide +kernel⟩,
    fun op _ o => ⟨{ reqDev idleWave [tReq 7 (.reduce op 0x10040 0x10040)] { a := 7 } with reductions := if o then [tReduction 2 1] else [] }, _,
      0x10040, 0x10040, rfl, rfl, rfl, rfl, rfl, by cases o <;> rfl⟩,
    ⟨{ reqDev idleWave [tReq 7 (.reduce (.contrib 3) 0x10040 0x10040)] { a := 7 } with reductions := [tReduction 3 1] }, _, 0x10040, 0x10040,
      tReduction 3 1, rfl, rfl, rfl, rfl, rfl, rfl, by decide⟩⟩

/-- A matrix command of ashlar 127. -/
def matReq (c : MatCmd) (q : Bool) : Req := { tReq 7 (.matrix c q) with ashlar := 127, path := pathM }

/-- A device whose ashlar 127 has a matrix array as given. -/
def matDev (w : Wave) (rs : List Req) (f : MatArray → MatArray) : State :=
  let s := reqDev w rs { a := 127 }
  { s with ashlars := s.ashlars.modify 127 fun a => { a with array := f a.array } }

/-- A stream of the wave at its last pass and a row. -/
def tStream (row : Nat) (block : List Byte) : Stream := { req := 7, wave := 1, block := block, planes := [List.replicate 4096 0], row := row, got := [(0, []), (1, [])] }

/-- A block of two rows. -/
def tBlock2 (out : Byte) (oq : Byte) : List Byte :=
  [0, 0, 0, 0, 2, 0, 1, 0, 1, 1, 0xFF, 0xFF, 0xFF, 0xFF, out, 0, 0, oq, 0, 0, 0xFF, 0xFF, 0xFF, 0xFF, 0, 0xFF, 0, 0] ++ List.replicate 36 0

/-- Commands at their engine, a die that is held, the three commands at the head of the array's queue, and rows that are and are not the last, into scratch
and into a queue register (EngineEvents). -/
theorem test_meets_MatrixEvents :
    (∃ (s : State) (r : Req), s.req? s.evt.a = some r ∧ s.ready r = true ∧ s.cmdBehind r = false ∧ s.dieHeld (dieOf r.ashlar) = false
      ∧ ∃ c b, r.body = .matrix c b)
    ∧ (∃ (s : State) (r : Req), s.req? s.evt.a = some r ∧ s.ready r = true ∧ s.cmdBehind r = false ∧ s.dieHeld (dieOf r.ashlar) = false
      ∧ ∃ c, r.body = .copy c)
    ∧ (∃ (s : State) (r : Req) (off : Nat) (w : Wave), s.evt.a < s.ashlars.length ∧ (s.sweepMat s.evt.a).matNext s.evt.a = some (r, .mldw off)
      ∧ (s.sweepMat s.evt.a).wave? r.wave = some w ∧ (s.sweepMat s.evt.a).dieHeld (dieOf s.evt.a) = false)
    ∧ (∃ s : State, s.evt.a < s.ashlars.length ∧ (s.sweepMat s.evt.a).dieHeld (dieOf s.evt.a) = true)
    ∧ (∃ (s : State) (r : Req), s.evt.a < s.ashlars.length ∧ (s.sweepMat s.evt.a).matNext s.evt.a = some (r, .mswap)
      ∧ ((s.sweepMat s.evt.a).ashlar s.evt.a).array.atBoundary = true)
    ∧ (∃ (s : State) (r : Req) (b : List Byte), s.evt.a < s.ashlars.length ∧ (s.sweepMat s.evt.a).matNext s.evt.a = some (r, .mstream b)
      ∧ ((s.sweepMat s.evt.a).ashlar s.evt.a).array.atBoundary = true
      ∧ ∀ k ∈ ((s.sweepMat s.evt.a).ashlar s.evt.a).array.streams, k.issuing = false ∨ k.lastPass = true)
    ∧ (∀ row < 2, ∀ oq : Bool, ∃ (s : State) (k : Stream) (rest : List Stream) (w : Wave) (f : Nat), s.evt.a < s.ashlars.length
      ∧ ((s.sweepMat s.evt.a).ashlar s.evt.a).array.streams = k :: rest ∧ (s.sweepMat s.evt.a).wave? k.wave = some w
      ∧ ((s.sweepMat s.evt.a).ashlar s.evt.a).array.finishAt = some f ∧ f = ((s.sweepMat s.evt.a).ashlar s.evt.a).array.cycle
      ∧ (s.sweepMat s.evt.a).dieHeld (dieOf s.evt.a) = false ∧ (matBlock k.block).oq = oq ∧ (w.rows (matBlock k.block).out).length < 4
      ∧ k.row = row ∧ (matBlock k.block).m = 2 ∧ w.clause ≠ none) := by
  refine ⟨⟨reqDev idleWave [tReq 7 (.matrix .mswap false)] { a := 7 }, _, rfl, rfl, rfl, by decide +kernel, _, _, rfl⟩,
    ⟨reqDev idleWave [tReq 7 (.copy { kind := 0, lay := tLayout 0 0, c := [0, 0, 0, 0] })] { a := 7 }, _, rfl, rfl, rfl, by decide +kernel, _, rfl⟩,
    ⟨matDev idleWave [matReq (.mldw 0xF000) true] id, matReq (.mldw 0xF000) true, 0xF000, idleWave, by decide +kernel⟩,
    ⟨(matDev idleWave [] id).modDie 1 fun d => { d with parked := true }, by decide +kernel⟩,
    ⟨matDev idleWave [matReq .mswap true] id, matReq .mswap true, by decide +kernel⟩,
    ⟨matDev idleWave [matReq (.mstream tBlock) true] id, matReq (.mstream tBlock) true, tBlock, by decide +kernel⟩, ?_⟩
  intro row hr oq
  have h : ∀ row < 2, ∀ oq : Bool,
      (let k := tStream row (tBlock2 15 (if oq then 0x80 else 0))
       let s := matDev tWave [matReq (.mstream k.block) true] fun y => { y with streams := [k], cycle := 72 + row }
       s.evt.a < s.ashlars.length ∧ ((s.sweepMat s.evt.a).ashlar s.evt.a).array.streams = [k] ∧ (s.sweepMat s.evt.a).wave? k.wave = some tWave
         ∧ ((s.sweepMat s.evt.a).ashlar s.evt.a).array.finishAt = some (72 + row)
         ∧ 72 + row = ((s.sweepMat s.evt.a).ashlar s.evt.a).array.cycle ∧ (s.sweepMat s.evt.a).dieHeld (dieOf s.evt.a) = false ∧ (matBlock k.block).oq = oq
         ∧ (tWave.rows (matBlock k.block).out).length < 4 ∧ k.row = row ∧ (matBlock k.block).m = 2 ∧ tWave.clause ≠ none) := by decide +kernel
  exact ⟨_, _, [], tWave, 72 + row, h row hr oq⟩

/-- Copies that have moved their elements, one that failed, and a multicast that a fresh barrier awaits or not (EngineEvents). -/
theorem test_meets_CopyEvents :
    (∃ (s : State) (r : Req) (c : Copy), s.req? s.evt.a = some r ∧ r.body = .copy c ∧ (∀ q ∈ s.reqs, q.id < s.nextId) ∧ c.queued = false
      ∧ c.kind ≠ 1 ∧ (layout c.lay).elems = c.next)
    ∧ (∃ (s : State) (r : Req) (c : Copy), s.req? s.evt.a = some r ∧ r.body = .copy c ∧ (∀ q ∈ s.reqs, q.id < s.nextId) ∧ c.queued = false
      ∧ c.kind ≠ 1 ∧ c.code ≠ 0)
    ∧ ∀ armed : Bool, ∃ (s : State) (r : Req) (c : Copy), s.req? s.evt.a = some r ∧ r.body = .copy c ∧ c.queued = false ∧ c.code = 0
      ∧ (layout c.lay).elems ≤ c.next ∧ (c.receivers r).contains s.evt.b = true ∧ c.delivered.contains s.evt.b = false ∧ s.cancelled r = false
      ∧ s.evt.b < s.ashlars.length ∧ (s.barrier s.evt.b (layout c.lay).bar).state = (if armed then .armed else .idle)
      ∧ (s.barrier s.evt.b (layout c.lay).bar).arrived = 0 ∧ s.cannotReceive s.evt.b = false := by
  let c1 : Copy := { kind := 0, lay := tLayout 0 0, c := [0, 0, 0, 0], next := 1, queued := false }
  let c2 : Copy := { kind := 4, lay := tLayout 0 0, c := [0, 0, 0, 0], code := 1, queued := false }
  let c3 : Copy := { kind := 1, lay := tLayout 1 0x8F, c := [0, 0, 0, 0], next := 1, queued := false }
  refine ⟨⟨reqDev idleWave [tReq 7 (.copy c1)] { a := 7 }, _, c1, rfl, rfl, by decide +kernel, rfl, by decide, by decide +kernel⟩,
    ⟨reqDev idleWave [tReq 7 (.copy c2)] { a := 7 }, _, c2, rfl, rfl, by decide +kernel, rfl, by decide, by decide⟩, fun armed => ?_⟩
  have h : ∀ armed : Bool,
      (let s := (reqDev idleWave [tReq 7 (.copy c3)] { a := 7, b := 0 }).modAshlar 0 fun a =>
         { a with barriers := a.barriers.set 15 { state := if armed then .armed else .idle } }
       (layout c3.lay).elems ≤ c3.next ∧ (c3.receivers (tReq 7 (.copy c3))).contains s.evt.b = true ∧ c3.delivered.contains s.evt.b = false
         ∧ s.cancelled (tReq 7 (.copy c3)) = false
         ∧ s.evt.b < s.ashlars.length ∧ (s.barrier s.evt.b (layout c3.lay).bar).state = (if armed then .armed else .idle)
         ∧ (s.barrier s.evt.b (layout c3.lay).bar).arrived = 0 ∧ s.cannotReceive s.evt.b = false) := by decide +kernel
  exact ⟨_, tReq 7 (.copy c3), c3, rfl, rfl, rfl, rfl, h armed⟩

/-- The FIFO of ashlar 127: an entry due now behind one that is available, with and without the bus at rest; an entry whose second
beat fails on the bus, with and without a spare; and a repair with the last spare (EngineEvents). -/
theorem test_meets_Fifo :
    (∀ stop : Bool, ∃ (s : State) (pre : List FifoEntry) (e : FifoEntry) (post : List FifoEntry), s.evt.a < s.ashlars.length
      ∧ (s.ashlar s.evt.a).fifo = pre ++ e :: post ∧ (∀ k ∈ pre, k.avail = true) ∧ e.avail = false ∧ e.held = none
      ∧ (s.ashlar s.evt.a).fifoStop = stop ∧ (s.ashlar s.evt.a).retired = false ∧ e.at_ = s.now)
    ∧ (∀ n ∈ [0, 2], ∃ (s : State) (pre : List FifoEntry) (e : FifoEntry) (post : List FifoEntry), s.evt.a < s.ashlars.length
      ∧ (s.ashlar s.evt.a).fifo = pre ++ e :: post ∧ (∀ k ∈ pre, s.onBus s.evt.a k = false) ∧ s.onBus s.evt.a e = true ∧ post ≠ []
      ∧ (s.ashlar s.evt.a).fifoStop = false ∧ (s.ashlar s.evt.a).retired = false ∧ (s.ashlar s.evt.a).spares = n)
    ∧ ∃ s : State, s.evt.a < s.ashlars.length ∧ (s.ashlar s.evt.a).fifoStop = true ∧ (s.ashlar s.evt.a).retired = false
      ∧ (s.ashlar s.evt.a).spares = 1 ∧ (s.ashlar s.evt.a).fifoMends = s.now := by
  let e0 : FifoEntry := { wave := 1, bytes := List.replicate 64 0, avail := true }
  let e1 : FifoEntry := { wave := 1, bytes := List.replicate 64 0, at_ := 8000 }
  let e2 : FifoEntry := { e1 with at_ := 9000 }
  let dev (now : Nat) (l : List FifoEntry) (stop : Bool) (n : Nat) : State := { evtDev idleWave { a := 127 } with
    now := now
    ashlars := (tDev idleWave).ashlars.modify 127 fun a => { a with fifo := l, fifoStop := stop, fifoMends := 8000, spares := n } }
  refine ⟨fun b => ⟨dev 8000 [e0, e1] b 2, [e0], e1, [], ?_⟩, fun n h => ⟨dev 3200 [e0, e1, e2] false n, [e0], e1, [e2], ?_⟩,
    ⟨dev 8000 [] true 1, by decide +kernel⟩⟩
  · cases b <;> decide +kernel
  · simp only [List.mem_cons, List.not_mem_nil, or_false] at h
    rcases h with rfl | rfl <;> decide +kernel
/-! ### Hypotheses of link, die, Plumb and mailbox events -/

/-- The device at rest with an event and a time. -/
def restDev (now : Nat) (e : EvArgs) : State := { State.reset with now := now, evt := e }

/-- A link as given. -/
def withLink (s : State) (f : Link → Link) : State := { s with link := f s.link }

/-- A message that waits on die A for flits of the link. -/
def linkReq (b : ReqBody) : Req := { tReq 7 b with op := some 9, cross := some 0 }

/-- A load's packet that waits for them. -/
def linkPacket : Packet := { tPacket .load .flight 4 [] none with router := 4 }

/-- A device with that message and an event about group 0, which has replayed n flits in the last 1 µs. -/
def flitDev (b : ReqBody) (n : Nat) (ok : Bool) : State :=
  let s := { reqDev (opWave { id := 9, sb := 0, lanes := 0x8000 }) [linkReq b] { a := 0, flag := ok } with now := 1000000 }
  withLink s fun l => { l with groups := l.groups.modify 0 fun g => { g with replays := List.replicate n 0 } }

/-- Turns and recalibrations at the end of 180 ns that retrain, that fail once more and for the third time (LinkEvents). -/
theorem test_meets_Turns : ∀ ok : Bool, ∀ n ∈ [0, 1, 2],
    (∃ (s : State) (g at_ : Nat), s.link.turning = some (g, at_) ∧ at_ + 180000 = s.now ∧ g < s.link.groups.length ∧ g = 15 ∧ s.evt.flag = ok
      ∧ (s.group g).retrain = n)
    ∧ ∃ (s : State) (g at_ : Nat), s.link.recal = some (g, at_) ∧ at_ + 180000 = s.now ∧ g < s.link.groups.length ∧ g = 15 ∧ s.evt.flag = ok
      ∧ (s.group g).retrain = n := by
  have h : ∀ ok : Bool, ∀ n ∈ [0, 1, 2],
      (let s := withLink (restDev 180000 { flag := ok }) fun l => { l with turning := some (15, 0), recal := some (15, 0)
                                                                           groups := l.groups.modify 15 fun g => { g with retrain := n } }
       15 < s.link.groups.length ∧ (s.group 15).retrain = n) := by decide +kernel
  intro ok n hn
  obtain ⟨h1, h2⟩ := h ok n hn
  exact ⟨⟨_, 15, 0, rfl, rfl, h1, rfl, rfl, h2⟩, ⟨_, 15, 0, rfl, rfl, h1, rfl, rfl, h2⟩⟩

/-- A lease of 1 ms with nothing pending, the 32nd and the 33rd replay of 1 µs, a packet and a reply that end in a flit, a group to
recalibrate and a turn that waited 10 µs (LinkEvents). -/
theorem test_meets_Link :
    (∃ (s : State) (slot n at_ : Nat), s.link.lease = some (slot, n, at_) ∧ at_ + 1000000000 = s.now ∧ s.link.pending = []
      ∧ s.link.liveGroups = List.range 16)
    ∧ (∀ n ∈ [31, 32], ∃ s : State, s.evt.a < s.link.groups.length ∧ s.carries s.evt.a (s.group s.evt.a).aToB = true
      ∧ s.flitQueue s.evt.a s.ready ≠ [] ∧ s.evt.flag = false
      ∧ ((s.group s.evt.a).replays.filter fun u => decide (s.now ≤ u + 1000000)).length = n)
    ∧ (∃ (s : State) (r : Req) (p : Packet), s.evt.a < s.link.groups.length ∧ s.carries s.evt.a (s.group s.evt.a).aToB = true
      ∧ s.flitQueue s.evt.a s.ready ≠ [] ∧ s.evt.flag = true ∧ (packFlit 56 (s.flitQueue s.evt.a s.ready)).1 = [r.id] ∧ s.req? r.id = some r
      ∧ r.body = .packet p ∧ p.stage = .flight ∧ (∀ q ∈ s.reqs, q.id = r.id → q = r) ∧ r.id < s.nextId)
    ∧ (∃ (s : State) (r : Req) (m : Mask) (ds : List (Nat × Dst)) (o : Nat) (w : Wave), s.evt.a < s.link.groups.length
      ∧ s.carries s.evt.a (s.group s.evt.a).aToB = true ∧ s.flitQueue s.evt.a s.ready ≠ [] ∧ s.evt.flag = true
      ∧ (packFlit 56 (s.flitQueue s.evt.a s.ready)).1 = [r.id] ∧ s.req? r.id = some r ∧ r.body = .reply m ds ∧ r.op = some o
      ∧ s.wave? r.wave = some w)
    ∧ (∃ s : State, s.evt.a < 16 ∧ s.evt.a = 15 ∧ s.evt.a < s.link.groups.length ∧ (s.group s.evt.a).live = true ∧ s.link.recal = none
      ∧ ∀ u, s.link.turning ≠ some (s.evt.a, u))
    ∧ ∃ (s : State) (g u : Nat), s.link.turning = none ∧ s.link.recal = none ∧ s.link.nextTurn s.wantSplit = some g ∧ g < s.link.groups.length
      ∧ (s.group g).lastTurn = some u ∧ u + 10000000 = s.now ∧ g < 16 := by
  have h : ∀ n ∈ [31, 32], (let s := flitDev (.packet linkPacket) n false
      s.evt.a < s.link.groups.length ∧ s.carries s.evt.a (s.group s.evt.a).aToB = true ∧ s.flitQueue s.evt.a s.ready ≠ [] ∧ s.evt.flag = false
        ∧ ((s.group s.evt.a).replays.filter fun u => decide (s.now ≤ u + 1000000)).length = n) := by decide +kernel
  refine ⟨⟨withLink (restDev 1000000000 {}) fun l => { l with lease := some (63, 14, 0) }, 63, 14, 0, rfl, by decide, rfl, by decide +kernel⟩,
    fun n hn => ⟨_, h n hn⟩,
    ⟨flitDev (.packet linkPacket) 0 true, linkReq (.packet linkPacket), linkPacket, by decide +kernel, by decide +kernel, by decide +kernel, rfl,
      by decide +kernel, rfl, rfl, rfl, by decide +kernel⟩,
    ⟨flitDev (.reply 0x8000 []) 0 true, linkReq (.reply 0x8000 []), 0x8000, [], 9, _, by decide +kernel, by decide +kernel, by decide +kernel, rfl,
      by decide +kernel, rfl, rfl, rfl, rfl⟩,
    ⟨restDev 0 { a := 15 }, by decide, rfl, by decide +kernel, by decide +kernel, rfl, fun u h => by cases h⟩,
    ⟨withLink (restDev 10000000 {}) fun l => { l with lease := some (63, 9, 0), groups := l.groups.map fun g => { g with lastTurn := some 0 } }, 8, 0,
      rfl, rfl, by decide +kernel, by decide +kernel, by decide +kernel, rfl, by decide⟩⟩

/-- Die B with its fields changed. -/
def withDie (s : State) (f : Die → Die) : State := { s with dies := s.dies.modify 1 f }

/-- A gate of die B as given. -/
def gateOf (s : State) (n : Nat) (f : Gate → Gate) : State := withDie s fun d => { d with gates := d.gates.modify n f }

/-- A park with nothing left to do, rails off at 60 ns and ready at 500 ns for each layer, a remap, and changes of partition: one that
ends, one that waits for its records, and one that waits for an access to the window (DieEvents). -/
theorem test_meets_Park :
    (∃ s : State, s.evt.a < s.dies.length ∧ (s.die s.evt.a).parking = true ∧ (s.writeBack (dieAshlars s.evt.a)).parkDone s.evt.a = true)
    ∧ (∀ n < 3, ∃ s : State, s.evt.a < s.dies.length ∧ s.evt.b = n ∧ s.evt.b < (s.die s.evt.a).gates.length ∧ (s.gate s.evt.a s.evt.b).busy = true
      ∧ (s.gate s.evt.a s.evt.b).req = true ∧ (s.gate s.evt.a s.evt.b).gated = false
      ∧ (if s.evt.b = 0 then ∀ m, m < 16 → (s.slice s.evt.a m).inSet = false else (s.die s.evt.a).parked = true)
      ∧ (s.gate s.evt.a s.evt.b).at_ + 60000 = s.now)
    ∧ (∀ n < 3, ∃ s : State, s.evt.a < s.dies.length ∧ s.evt.b = n ∧ s.evt.b < (s.die s.evt.a).gates.length ∧ (s.gate s.evt.a s.evt.b).busy = true
      ∧ (s.gate s.evt.a s.evt.b).req = false ∧ (s.gate s.evt.a s.evt.b).gated = true ∧ (s.gate s.evt.a s.evt.b).at_ + 500000 = s.now
      ∧ (s.gate s.evt.a (3 - s.evt.b)).gated = false ∧ (s.die s.evt.a).linkPark = false)
    ∧ (∃ s : State, s.evt.a < s.dies.length ∧ (s.die s.evt.a).remap = true)
    ∧ (∀ waits : Bool, ∃ s : State, s.evt.a < s.dies.length ∧ s.evt.b = 15 ∧ (s.slice s.evt.a s.evt.b).busy = true
      ∧ (let u := (s.dropWays s.evt.a s.evt.b).shed (s.queueDie s.evt.a)
         let used := u.queueUse (s.queueDie s.evt.a) + u.recUse (s.queueDie s.evt.a)
         if waits then u.queueBytes (s.queueDie s.evt.a) < used
         else used ≤ u.queueBytes (s.queueDie s.evt.a) ∧ s.evt.a < u.dies.length ∧ s.evt.b < (u.die s.evt.a).slices.length
           ∧ s.windowUse s.evt.a (s.slice s.evt.a s.evt.b).since = false))
    ∧ ∃ s : State, s.evt.a < s.dies.length ∧ (s.slice s.evt.a s.evt.b).busy = true ∧ (s.slice s.evt.a s.evt.b).rebuilds = true
      ∧ s.windowUse s.evt.a (s.slice s.evt.a s.evt.b).since = true := by
  have h1 : ∀ n < 3, (let s0 := gateOf (restDev 60000 { a := 1, b := n }) n fun g => { g with busy := true, req := true }
      let s := withDie s0 fun d => { d with parked := true, slices := d.slices.map fun x => { x with inSet := false } }
      s.evt.a < s.dies.length ∧ s.evt.b = n ∧ s.evt.b < (s.die s.evt.a).gates.length ∧ (s.gate s.evt.a s.evt.b).busy = true
      ∧ (s.gate s.evt.a s.evt.b).req = true ∧ (s.gate s.evt.a s.evt.b).gated = false
      ∧ (if s.evt.b = 0 then ∀ m, m < 16 → (s.slice s.evt.a m).inSet = false else (s.die s.evt.a).parked = true)
      ∧ (s.gate s.evt.a s.evt.b).at_ + 60000 = s.now) := by decide +kernel
  have h2 : ∀ n < 3, (let s := gateOf (restDev 500000 { a := 1, b := n }) n fun g => { g with busy := true, gated := true }
      s.evt.a < s.dies.length ∧ s.evt.b = n ∧ s.evt.b < (s.die s.evt.a).gates.length ∧ (s.gate s.evt.a s.evt.b).busy = true
      ∧ (s.gate s.evt.a s.evt.b).req = false ∧ (s.gate s.evt.a s.evt.b).gated = true ∧ (s.gate s.evt.a s.evt.b).at_ + 500000 = s.now
      ∧ (s.gate s.evt.a (3 - s.evt.b)).gated = false ∧ (s.die s.evt.a).linkPark = false) := by decide +kernel
  have h3 : ∀ waits : Bool, (let s0 := withDie (restDev 0 { a := 1, b := 15 }) fun d =>
        { d with slices := d.slices.map fun x => Slice.settled { x with busy := true, queue := if waits then 0 else x.queue } }
      let s := { s0 with waves := [{ idleWave with die := 1, ashlar := 64, stat := .saved, saveFor := 2 }] }
      s.evt.a < s.dies.length ∧ s.evt.b = 15 ∧ (s.slice s.evt.a s.evt.b).busy = true
      ∧ (let u := (s.dropWays s.evt.a s.evt.b).shed (s.queueDie s.evt.a)
         let used := u.queueUse (s.queueDie s.evt.a) + u.recUse (s.queueDie s.evt.a)
         if waits then u.queueBytes (s.queueDie s.evt.a) < used
         else used ≤ u.queueBytes (s.queueDie s.evt.a) ∧ s.evt.a < u.dies.length ∧ s.evt.b < (u.die s.evt.a).slices.length
           ∧ s.windowUse s.evt.a (s.slice s.evt.a s.evt.b).since = false)) := by decide +kernel
  exact ⟨⟨withDie (restDev 0 { a := 1 }) fun d => { d with parking := true }, by decide +kernel⟩,
    fun n hn => ⟨_, h1 n hn⟩, fun n hn => ⟨_, h2 n hn⟩,
    ⟨withDie (restDev 0 { a := 1 }) fun d => { d with remap := true }, by decide +kernel⟩,
    fun w => ⟨_, h3 w⟩,
    ⟨withDie { restDev 0 { a := 1, b := 15 } with reqs := [{ tReq 7 (.mem { tLoad true with space := 2 }) with ashlar := 64 }] } fun d =>
      { d with slices := d.slices.map fun x => { x with busy := true, scratch := 1, since := 8 } }, by decide +kernel⟩⟩

/-- What is kept of a bank at 1 s: hot for 1 ms, an uncorrectable error, 17 lines corrected, and 16 lines of which one twice. -/
def tHealth : Nat → BankHealth
  | 0 => { hotSince := some (10 ^ 12 - 10 ^ 9) }
  | 1 => { bad := true }
  | 2 => { fixed := (List.range 17).map fun n => (n, 0) }
  | _ => { fixed := (0, 1) :: (List.range 16).map fun n => (n, 0) }

/-- A slice that leaves, one that joins, banks that retire for their temperature, for an uncorrectable error and for 17 corrected lines, and
one with 16 that does not; scrubs, of a line in a way and of others; and an ashlar idle for 20 µs (DieEvents). -/
theorem test_meets_Slices :
    (∃ s : State, s.evt.a < 32 ∧ s.evt.a = 31 ∧ s.evt.a / 16 < s.dies.length ∧ s.evt.a % 16 < (s.die (s.evt.a / 16)).slices.length
      ∧ s.leaving s.evt.a = true ∧ s.atRest s.evt.a = true ∧ ∃ m, m < 32 ∧ m ≠ s.evt.a ∧ s.sliceLive m = true)
    ∧ (∃ s : State, s.evt.a < 32 ∧ s.evt.a = 31 ∧ s.evt.a / 16 < s.dies.length ∧ s.evt.a % 16 < (s.die (s.evt.a / 16)).slices.length
      ∧ s.joining s.evt.a = true ∧ s.atRest s.evt.a = true)
    ∧ (∀ k < 4, ∃ s : State, s.evt.a < 32 ∧ s.evt.a = 31 ∧ s.evt.a / 16 < s.dies.length ∧ s.evt.a % 16 < (s.die (s.evt.a / 16)).slices.length
      ∧ s.evt.b < 16 ∧ s.evt.b = 15 ∧ (s.slice 1 15).inSet = true ∧ (s.slice 1 15).live.getLsbD s.evt.b = true
      ∧ ((s.slice 1 15).healthOf s.evt.b).fails s.evt.flag s.now = decide (k ≠ 3))
    ∧ (∀ x : ScrubResult, ∃ s : State, s.evt.scrub = x ∧ s.way? s.evt.a = none)
    ∧ (∃ (s : State) (v : WayLine), s.evt.scrub = .corrected ∧ s.way? s.evt.a = some v ∧ v.home / 16 < s.dies.length
      ∧ v.home % 16 < (s.die (v.home / 16)).slices.length ∧ v.bank < (s.slice (v.home / 16) (v.home % 16)).health.length)
    ∧ ∃ s : State, s.evt.a < s.ashlars.length ∧ s.evt.a = 127 ∧ (s.course (courseOf s.evt.a)).point ≤ 3 ∧ s.residentOn s.evt.a = []
      ∧ (s.ashlar s.evt.a).openBins = [] ∧ (s.ashlar s.evt.a).idleSince + 20000000 = s.now := by
  let s1 := gateOf (restDev 0 { a := 31 }) 0 fun g => { g with busy := true, req := true }
  let s2 := withDie (gateOf (restDev 0 { a := 31 }) 0 fun g => { g with busy := true }) fun d =>
    { d with slices := d.slices.map fun x => { x with inSet := false } }
  have h : ∀ k < 4, (let s := withDie (restDev (10 ^ 12) { a := 31, b := 15, flag := decide (k = 0) }) fun d =>
        { d with slices := d.slices.map fun x => { x with health := List.replicate 16 (tHealth k) } }
      s.evt.a / 16 < s.dies.length ∧ s.evt.a % 16 < (s.die (s.evt.a / 16)).slices.length
      ∧ (s.slice 1 15).inSet = true ∧ (s.slice 1 15).live.getLsbD s.evt.b = true
      ∧ ((s.slice 1 15).healthOf s.evt.b).fails s.evt.flag s.now = decide (k ≠ 3)) := by decide +kernel
  exact ⟨⟨s1, by decide, rfl, by decide +kernel, by decide +kernel, by decide +kernel, by decide +kernel, 0, by decide, by decide, by decide +kernel⟩,
    ⟨s2, by decide, rfl, by decide +kernel⟩,
    fun k hk => ⟨_, (by decide : 31 < 32), rfl, (h k hk).1, (h k hk).2.1, (by decide : 15 < 16), rfl, (h k hk).2.2⟩,
    fun x => ⟨restDev 0 { scrub := x }, rfl, rfl⟩,
    ⟨{ restDev 0 { scrub := .corrected, a := 9 } with ways := [{ line := 9, home := 31, bank := 15 }] }, { line := 9, home := 31, bank := 15 },
      rfl, by decide +kernel⟩,
    ⟨(restDev 20000000 { a := 127 }).modCourse 15 fun x => { x with point := 3 }, by decide +kernel, rfl, by decide +kernel⟩⟩

/-- A wave of die A whose last clause wrote a special register. -/
def ssetWave (n : Nat) (v : DWord) : Wave := { idleWave with ssets := [(n, v)] }

/-- The partition of slice 15 with every live bank in a role and the greatest deadline, the remap and gate words, the last completion ring
(DieEvents). -/
theorem test_meets_SsetEvents :
    (∃ (s : State) (w : Wave) (n : Nat), s.wave? w.id = some w ∧ w.die = 0 ∧ 0 < s.dies.length ∧ s.evt.b = n ∧ n < 16 ∧ n = 15
      ∧ n < (s.die 0).slices.length ∧ (s.waves.find? fun y => y.die == s.evt.a && y.writes1 (0x30 + n) s.evt.v) = some w
      ∧ (s.slice 0 n).busy = false ∧ (s.slice 0 n).inSet = true ∧ (s.slice 0 n).hot = 0
      ∧ s.evt.v.toNat % 32 + s.evt.v.toNat / 2 ^ 5 % 32 + s.evt.v.toNat / 2 ^ 10 % 32 + s.evt.v.toNat / 2 ^ 15 % 32 = (s.slice 0 n).liveBanks.length
      ∧ s.evt.v.toNat / 2 ^ 24 % 256 = 50)
    ∧ (∀ n ∈ [0x45, 0x62], ∃ (s : State) (w : Wave), s.wave? w.id = some w ∧ w.die = 0 ∧ 0 < s.dies.length
      ∧ (s.waves.find? fun y => y.die == s.evt.a && y.writes1 n s.evt.v) = some w)
    ∧ ∀ n ∈ [0x1B, 0x16], ∃ (s : State) (w : Wave), s.wave? w.id = some w ∧ w.die = 0 ∧ 0 < s.dies.length ∧ s.evt.b = 3 ∧ 3 < w.cm.length
      ∧ (∀ c ∈ w.cm, c.held = []) ∧ (s.waves.find? fun y => y.id == s.evt.a && y.writes1 n s.evt.v) = some w := by
  have h : ∀ n ∈ [0x1B, 0x16, 0x45, 0x62],
      (let s := evtDev (ssetWave n 1) { a := if n < 0x20 then 1 else 0, b := 3, v := 1 }
       let w := ssetWave n 1
       s.wave? w.id = some w ∧ 0 < s.dies.length ∧ 3 < w.cm.length ∧ (∀ c ∈ w.cm, c.held = [])
         ∧ (if n < 0x20 then (s.waves.find? fun y => y.id == s.evt.a && y.writes1 n s.evt.v) = some w
            else (s.waves.find? fun y => y.die == s.evt.a && y.writes1 n s.evt.v) = some w)) := by decide +kernel
  refine ⟨⟨evtDev (ssetWave 0x3F 0x32021084) { b := 15, v := 0x32021084 }, ssetWave 0x3F 0x32021084, 15, rfl, rfl, by decide +kernel, rfl, by decide,
    rfl, by decide +kernel⟩,
    fun n hn => ?_, fun n hn => ?_⟩
  · have hm : n ∈ [0x1B, 0x16, 0x45, 0x62] := by simp only [List.mem_cons, List.not_mem_nil, or_false] at hn ⊢; omega
    obtain ⟨h1, h2, -, -, h3⟩ := h n hm
    rw [if_neg (by simp only [List.mem_cons, List.not_mem_nil, or_false] at hn; omega)] at h3
    exact ⟨_, _, h1, rfl, h2, h3⟩
  · have hm : n ∈ [0x1B, 0x16, 0x45, 0x62] := by simp only [List.mem_cons, List.not_mem_nil, or_false] at hn ⊢; omega
    obtain ⟨h1, h2, h3, h4, h5⟩ := h n hm
    rw [if_pos (by simp only [List.mem_cons, List.not_mem_nil, or_false] at hn; omega)] at h5
    exact ⟨_, _, h1, rfl, h2, rfl, h3, h4, h5⟩

/-- Plumb with its fields changed. -/
def withPlumb (s : State) (f : Plumb → Plumb) : State := { s with plumb := f s.plumb }

/-- A tick of 10 µs, the phases of a change of point at 1 µs on the last course (PlumbEvents). -/
theorem test_meets_Tick :
    (∃ s : State, s.plumb.ticks < s.now / 10000000 ∧ s.now = 10000000 ∧ s.firmwareRuns = true ∧ s.courses.length = 16)
    ∧ (∃ (s : State) (c : Nat), s.evt.a = c ∧ c < 16 ∧ c < s.courses.length ∧ c = 15 ∧ (s.course c).vf = .rampUp)
    ∧ ∃ (s : State) (c : Nat), s.evt.a = c ∧ c < 16 ∧ c < s.courses.length ∧ c = 15 ∧ (s.course c).vf = .switching
      ∧ (s.course c).vfAt + 1000000 = s.now :=
  ⟨⟨withPlumb (restDev 10000000 {}) fun p => { p with state := 2 }, by decide +kernel, rfl, by decide +kernel⟩,
    ⟨(restDev 0 { a := 15 }).modCourse 15 fun x => { x with vf := .rampUp }, 15, rfl, by decide, by decide +kernel, rfl, by decide +kernel⟩,
    ⟨(restDev 1000000 { a := 15 }).modCourse 15 fun x => { x with vf := .switching }, 15, rfl, by decide, by decide +kernel, rfl,
      by decide +kernel⟩⟩

/-- A mailbox command waiting to be carried out. -/
def mailDev (c : DWord) (args : List DWord) : State :=
  let s := withPlumb State.reset fun p => { p with state := 2 }
  { s with host := { s.host with doorbell := true, cmd := c, args := args } }

/-- Trips at 125 °C and by voltage, resets of each cause, and power on (PlumbEvents). -/
theorem test_meets_Resets :
    (∃ s : State, 0 < s.dies.length ∧ s.plumb.tripped = false ∧ s.plumb.undervolt = true)
    ∧ (∃ s : State, 0 < s.dies.length ∧ s.plumb.tripped = false ∧ ∃ j ∈ s.junctions, 16 * 125 = j.2)
    ∧ (∃ s : State, 0 < s.dies.length ∧ s.firmwareRuns = true ∧ s.plumb.heartbeat + 100000000000 = s.now)
    ∧ (∃ s : State, 0 < s.dies.length ∧ s.plumb.tripped = true ∧ (∀ j ∈ s.junctions, j.2 < 16 * 90) ∧ s.plumb.undervolt = false)
    ∧ (∃ (s : State) (u : Nat), 0 < s.dies.length ∧ s.plumb.tripped = false ∧ s.plumb.linkDown = some u ∧ u + 1000000000 = s.now)
    ∧ (∃ s : State, 0 < s.dies.length ∧ s.plumb.tripped = false ∧ s.plumb.linkDown = none ∧ s.plumb.state ≠ 4)
    ∧ ∃ s : State, 0 < s.dies.length ∧ s.commands 6 = true ∧ s.arg 0 = 2 ∧ s.arg 1 = 0 ∧ s.arg 2 = 0 :=
  ⟨⟨withPlumb (restDev 0 {}) fun p => { p with undervolt := true }, by decide +kernel, rfl, rfl⟩,
    ⟨(restDev 0 {}).modCourse 0 fun x => { x with temp := 2000 }, by decide +kernel, rfl, by decide +kernel⟩,
    ⟨withPlumb (restDev 100000000000 {}) fun p => { p with state := 2 }, by decide +kernel⟩,
    ⟨withPlumb (restDev 0 {}) fun p => { p with tripped := true }, by decide +kernel, rfl, by decide +kernel, rfl⟩,
    ⟨withPlumb (restDev 1000000000 {}) fun p => { p with linkDown := some 0 }, 0, by decide +kernel, rfl, rfl, rfl⟩,
    ⟨State.reset, by decide +kernel, rfl, rfl, by decide⟩,
    ⟨mailDev 6 [2, 0, 0, 0, 0, 0, 0], by decide +kernel⟩⟩

/-- A boot header with a length. -/
def bootDev (state len : Nat) : State :=
  withPlumb State.reset fun p => { p with state := state, flash := p.flash.writeN 0 (toBytes 4 0x5A4C5056 ++ [0, 0, 0, 0] ++ toBytes 4 len) }

/-- A flash without the magic number, lengths below, at and above the bounds, and a body read (PlumbEvents). Which of the two clauses of
the signature holds is the opaque Config.sm2Verifies's to say; they divide every such state. -/
theorem test_meets_Boot :
    (∃ s : State, s.plumb.tripped = false ∧ s.plumb.state = 0 ∧ ofBytes (s.plumb.flash.readN 0 4) ≠ 0x5A4C5056)
    ∧ (∀ len ∈ [4095, 4096, 16777216, 16777217], ∃ s : State, s.plumb.tripped = false ∧ s.plumb.state = 0
      ∧ ofBytes (s.plumb.flash.readN 0 4) = 0x5A4C5056 ∧ ofBytes (s.plumb.flash.readN 8 4) = len)
    ∧ ∃ s : State, s.plumb.tripped = false ∧ s.plumb.state = 1 ∧ s.plumb.state < 2 := by
  refine ⟨⟨State.reset, rfl, rfl, by decide +kernel⟩, fun len h => ⟨bootDev 0 len, rfl, rfl, ?_, ?_⟩, ⟨bootDev 1 4096, rfl, rfl, by decide⟩⟩ <;>
    · simp only [List.mem_cons, List.not_mem_nil, or_false] at h
      rcases h with rfl | rfl | rfl | rfl <;> decide +kernel

/-- Each command with arguments at and past its bounds (MailboxEvents). -/
theorem test_meets_Mailbox : ∀ q ∈ [(1, [15, 7]), (1, [16, 0]), (1, [0, 8]), (2, [150]), (2, [480]), (2, [149]), (2, [481]), (3, [0, 0, 0]), (3, [64, 0, 0]),
      (4, [hostBase % 2 ^ 32, hostBase / 2 ^ 32]), (4, [0, 0]), (5, [hostBase % 2 ^ 32, hostBase / 2 ^ 32]), (5, [0, 0]), (6, [0, 0, 16]), (6, [0, 1, 1]),
      (6, [1, 33550336, 1]), (6, [1, 33550336, 2]), (6, [2, 0, 1]), (7, [1, hostBase, 0, 4096]), (7, [0, hostBase, 0, 4097]), (7, [2, hostBase, 0, 1])],
    ∃ s : State, s.commands q.1 = true ∧ ∀ i < q.2.length, s.arg i = q.2.getD i 0 := by
  have h : ∀ q ∈ [(1, [15, 7]), (1, [16, 0]), (1, [0, 8]), (2, [150]), (2, [480]), (2, [149]), (2, [481]), (3, [0, 0, 0]), (3, [64, 0, 0]),
      (4, [hostBase % 2 ^ 32, hostBase / 2 ^ 32]), (4, [0, 0]), (5, [hostBase % 2 ^ 32, hostBase / 2 ^ 32]), (5, [0, 0]), (6, [0, 0, 16]), (6, [0, 1, 1]),
      (6, [1, 33550336, 1]), (6, [1, 33550336, 2]), (6, [2, 0, 1]), (7, [1, hostBase, 0, 4096]), (7, [0, hostBase, 0, 4097]), (7, [2, hostBase, 0, 1])],
      (let s := mailDev (BitVec.ofNat 64 q.1) (q.2.map (BitVec.ofNat 64))
       s.commands q.1 = true ∧ ∀ i < q.2.length, s.arg i = q.2.getD i 0) := by decide +kernel
  exact fun q hq => ⟨_, h q hq⟩

/-- A command that is done and one that is turned away, at the end (MailboxEvents). -/
theorem test_meets_MailboxCompletion :
    (∃ (s : State) (r : Nat), s.host.doorbell = true ∧ s.host.done = true ∧ r = s.host.outcome)
    ∧ ∃ (s : State) (r : Nat), s.host.doorbell = true ∧ s.host.done = false ∧ s.rejected = some r :=
  let s := mailDev 1 []
  ⟨⟨{ s with host := { s.host with done := true } }, 0, rfl, rfl, rfl⟩, ⟨mailDev 8 [], 2, rfl, rfl, by decide +kernel⟩⟩

/-! ### Hypotheses of fixed units -/

/-- A unit node. -/
def unitNode (u fixparam recsize : Nat) (edges : List Edge) : Node :=
  { placeNode false false false with
    kind := 2, fixunit := u, fixparam := fixparam, recsize := recsize, width := 0, regs := 0, pscr := 0, entry := 0, ordered := u == 1
    edges := edges ++ List.replicate (8 - edges.length) ⟨0, 0, false⟩ }

/-- A program node with one output edge. -/
def progNode (edges : List Edge) : Node :=
  { placeNode false false false with recsize := 32, ordered := true, edges := edges ++ List.replicate (8 - edges.length) ⟨0, 0, false⟩ }

/-- A graph of a mesh node, a binning node, a resolver, a classifier, a material, a traversal unit and a matrix node. -/
def unitNodes : List Node :=
  [progNode [⟨1, 1, false⟩], unitNode 1 0x10000 64 [⟨2, 1, false⟩], unitNode 2 0 16 [⟨3, 1, false⟩], unitNode 3 0x10100 16 [⟨4, 1, false⟩],
    progNode [], unitNode 4 0 48 [⟨4, 1, false⟩, ⟨4, 1, false⟩], unitNode 5 0x10200 16 [⟨4, 1, false⟩]]

/-- Parameters of a viewport of 33 by 32 pixels with one loaded and written target; of a classifier; and a network of one BF16 layer. -/
def unitBytes : List Byte :=
  [33, 0, 32, 0, 0, 1, 0, 0, 0, 0, 0, 0, 0, 0, 0, 0, 0x40, 0, 1, 0, 0, 0, 0, 0, 0, 0, 0, 0, 0, 0, 0, 0, 0, 0x10, 1, 0, 0, 0, 0, 0, 0, 0x10, 0, 0, 0, 0,
    0, 0] ++ List.replicate 16 0 ++ [0, 0x20, 1, 0, 0, 0, 3, 0, 0, 1, 0, 0, 7, 0, 0, 0] ++ List.replicate 176 0
    ++ [0x80, 1, 1, 0, 0, 0, 0, 0, 1, 0, 0, 0, 0, 0, 0, 0] ++ List.replicate 240 0
    ++ [1, 1, 1, 0, 1, 0, 0, 0, 0, 0, 0, 0] ++ List.replicate 52 0 ++ [0, 0x30, 1, 0, 0, 0, 0, 0, 0, 3, 1, 0, 0, 0, 0, 0, 1, 0, 1, 0] ++ List.replicate 12 0

/-- A device whose run 1 has that graph, with the run as given. -/
def unitDev (e : EvArgs) (f : Run → Run) : State :=
  { jobDev 0x10000 unitBytes e with
    runs := [f { placeRun 1 (placeNode false false false) with nodes := unitNodes, insts := List.replicate 14 {}, rootsFed := true }] }

/-- A group of three vertices and one primitive, in the records of mesh node 0; n records of it; a first byte of the header. -/
def groupRun (v : Byte) (n : Nat) (closed : Bool) (r : Run) : Run :=
  let h : QRec := { bytes := [v, 0, 1, 0] ++ List.replicate 60 0, group := some 0 }
  { r with
    insts := (r.insts.modify 0 fun i => { i with given := 1 }).modify 2 fun i =>
      { i with recs := h :: List.replicate n { bytes := List.replicate 64 0, group := some 0 } }
    bins := [{ node := 1 }]
    closedGroups := if closed then [(0, 0)] else [] }

/-- Whether an answer is a right one with a property. -/
def rightHas {α β : Type} (x : α ⊕ β) (P : β → Bool) : Bool :=
  match x with
  | .inr y => P y
  | .inl _ => false

theorem inr_of {α β : Type} {x : α ⊕ β} {P : β → Bool} (h : rightHas x P = true) : ∃ y, x = .inr y ∧ P y = true := by
  cases x with
  | inl a => exact Bool.noConfusion h
  | inr y => exact ⟨y, rfl, h⟩

/-- The groups of the next test. -/
def tGroups : List (Byte × Nat × Bool) := [(0, 2, true), (3, 1, true), (3, 2, false)]

/-- What a group's clause asks of the records and the parameters. -/
def groupAsk (q : Byte × Nat × Bool) (r : Run) (s1 : State) (p : BinParam) : Prop :=
  let recs := ((r.inst 1 0).recs.filter fun q => q.group == some 0).map fun (q : QRec) => q.bytes
  let n := field (recs.getD 0 []) 2 2
  let prims := (List.range n).filterMap (primOf recs 0)
  let lists := prims.map fun q => q.tiles p
  let heads := 64 * p.tw * p.th
  let add := 64 * groupSize (recs.getD 0 []) + 8 * sumBy List.length lists
  (r.closedGroups.contains (0, 0) = true ∨ groupWhole recs = true) ∧ groupBad recs = decide (q.1 = 0)
  ∧ groupWhole recs = decide (q.2.1 = 2 ∧ q.1 = 3)
  ∧ (q.1 = 3 → q.2.1 = 2 → heads + 0 + add ≤ p.size ∧ p.grouptab = 0 ∧ s1.unitFail 0 (p.base + heads + 0) add true = none
    ∧ ∀ t ∈ lists.flatten, s1.unitFail 0 (p.base + 64 * (t.2 * p.tw + t.1)) 64 true = none)

/-- A bad group, one cut short by the mesh node's close, and a whole one (FixedUnitEvents): the records wait, the parameters read, and the
group's lines may be written. -/
theorem test_meets_BinGroup : ∀ q ∈ tGroups, ∃ (s s1 : State) (r : Run) (b : Binning) (p : BinParam), s.run? s.evt.a = some r
    ∧ r.bins.find? (·.node == s.evt.b) = some b ∧ b = { node := 1 } ∧ r.groupAt b = some (0, 0) ∧ s.unitsDown r.orderedDie = false
    ∧ 0 < (r.inst 0 r.orderedDie).given ∧ s.reqs = [] ∧ s.binParam (dieSrc r.orderedDie) r b.node = .inr (s1, p) ∧ groupAsk q r s1 p := by
  have h : ∀ q ∈ tGroups,
      (let s := unitDev { a := 1, b := 1 } (groupRun q.1 q.2.1 q.2.2)
       let r := groupRun q.1 q.2.1 q.2.2 ((unitDev {} id).runs.headD cancelledRun)
       s.run? 1 = some r ∧ s.unitsDown 0 = false ∧ r.groupAt { node := 1 } = some (0, 0) ∧ (0 < (r.inst 0 0).given)
       ∧ rightHas (s.binParam (dieSrc 0) r 1) (fun y =>
          let p := y.2
          let s1 := y.1
          let recs := ((r.inst 1 0).recs.filter fun q => q.group == some 0).map fun (q : QRec) => q.bytes
          let n := field (recs.getD 0 []) 2 2
          let prims := (List.range n).filterMap (primOf recs 0)
          let lists := prims.map fun q => q.tiles p
          let heads := 64 * p.tw * p.th
          let add := 64 * groupSize (recs.getD 0 []) + 8 * sumBy List.length lists
          decide ((r.closedGroups.contains (0, 0) = true ∨ groupWhole recs = true) ∧ groupBad recs = decide (q.1 = 0)
            ∧ groupWhole recs = decide (q.2.1 = 2 ∧ q.1 = 3)
            ∧ (q.1 = 3 → q.2.1 = 2 → heads + 0 + add ≤ p.size ∧ p.grouptab = 0 ∧ s1.unitFail 0 (p.base + heads + 0) add true = none
              ∧ ∀ t ∈ lists.flatten, s1.unitFail 0 (p.base + 64 * (t.2 * p.tw + t.1)) 64 true = none))) = true) := by decide +kernel
  intro q hq
  obtain ⟨h1, h2, h3, h4, h5⟩ := h q hq
  obtain ⟨⟨s1, p⟩, h6, h7⟩ := inr_of h5
  exact ⟨unitDev { a := 1, b := 1 } (groupRun q.1 q.2.1 q.2.2), s1, _, { node := 1 }, p, h1, rfl, rfl, h3, h2, h4, rfl, h6, by
    unfold groupAsk; exact of_decide_eq_true h7⟩

/-- A viewport all of whose mesh nodes are done (FixedUnitEvents). -/
theorem test_meets_ViewportClose : ∃ (s s1 : State) (r : Run) (b : Binning) (p : BinParam), s.run? s.evt.a = some r
    ∧ r.bins.find? (·.node == s.evt.b) = some b ∧ b.closed = false ∧ s.unitsDown r.orderedDie = false
    ∧ (∀ m ∈ r.meshOf b.node, s.meshDone r m = true) ∧ r.meshOf b.node ≠ [] ∧ r.allTaken b = true ∧ s.binParam (dieSrc r.orderedDie) r b.node = .inr (s1, p)
    ∧ 64 * p.tw * p.th + b.used ≤ p.size ∧ s1.unitFail r.slot p.base (64 * p.tw * p.th) true = none := by
  let f := fun (r : Run) => { r with bins := [{ node := 1 }] }
  let s := unitDev { a := 1, b := 1 } f
  let r := f ((unitDev {} id).runs.headD cancelledRun)
  have h : rightHas (s.binParam (dieSrc 0) r 1) (fun y => decide (64 * y.2.tw * y.2.th + 0 ≤ y.2.size
    ∧ y.1.unitFail 0 y.2.base (64 * y.2.tw * y.2.th) true = none)) = true := by decide +kernel
  obtain ⟨⟨s1, p⟩, h6, h7⟩ := inr_of h
  obtain ⟨h8, h9⟩ := of_decide_eq_true h7
  exact ⟨s, s1, r, { node := 1 }, p, by decide +kernel, by decide +kernel, rfl, by decide +kernel, by decide +kernel, by decide +kernel,
    by decide +kernel, h6, h8, h9⟩

/-- A closed viewport whose tile (1, 0) waits for the resolver, and tile slot 3 of its course in a state; a visible one's record waits for
the classifier. -/
def tileRun (st : TileState) (r : Run) : Run :=
  { r with
    bins := [{ node := 1, closed := true }]
    insts := (r.insts.modify 4 fun i => { i with recs := [tileRec (1, 0)] }).modify 6 fun i =>
      { i with recs := if st = .visible then [{ tileRec (1, 0) with tile := some 7 }] else [] } }
def tileDev (st : TileState) (frags : List Frag) : State :=
  (unitDev { a := 1, b := 3 } (tileRun st)).modCourse 1 fun x => { x with
    tiles := x.tiles.map fun t => if st = .free then t else { t with state := st, run := 1, bin := 1, resolver := 2, classifier := 3, tx := 1, frags := frags } }

/-- A free slot for a tile of its course (FixedUnitEvents). -/
theorem test_meets_TileFill : ∃ (s : State) (c k m tx ty : Nat) (r : Run) (n : Node) (b : Binning) (s0 s1 s2 s3 : State) (p : BinParam)
    (ts : List Target) (v : Resv) (q : QRec) (l : List QRec), s.evt.a = c ∧ c < 16 ∧ c < s.courses.length ∧ s.unitsDown (c / 8) = false
    ∧ (List.range 4).find? (fun j => (s.tile c j).state == .free) = some k
    ∧ s.runs.find? (fun z => !z.cancelling && (z.tileFor c).isSome) = some r ∧ r.tileFor c = some (m, b, (tx, ty)) ∧ r.node? m = some n
    ∧ s.unitReserve r n 0 (c / 8) true = some (s0, v) ∧ s0.binParam (courseSrc c) r b.node = .inr (s1, p)
    ∧ s1.targets (courseSrc c) r p = .inr (s2, ts) ∧ s2.unitTake r n m (r.instDie m (c / 8)) (fun z => z.course == some c) 1 = (s3, q :: l)
    ∧ (∀ x ∈ ts, x.load = true → ∀ z ∈ x.rows p tx ty, s3.unitFail r.slot z.2.1 z.2.2 false = none)
    ∧ c < s3.courses.length ∧ k < (s3.course c).tiles.length ∧ (s3.course c).primMem.wf = true ∧ (s3.course c).tileMem.wf = true
    ∧ ∃ x ∈ ts, x.load = true := by
  let s := tileDev .free []
  let r := tileRun .free ((unitDev {} id).runs.headD cancelledRun)
  let n := unitNodes.getD 2 (progNode [])
  have h : (match s.unitReserve r n 0 0 true with
    | some (s0, _) => rightHas (s0.binParam (courseSrc 1) r 1) fun y => rightHas (y.1.targets (courseSrc 1) r y.2) fun z =>
      match z.1.unitTake r n 2 (r.instDie 2 0) (fun z => z.course == some 1) 1 with
      | (s3, _ :: _) => decide ((∀ x ∈ z.2, x.load = true → ∀ q ∈ x.rows y.2 1 0, s3.unitFail 0 q.2.1 q.2.2 false = none)
        ∧ 1 < s3.courses.length ∧ 0 < (s3.course 1).tiles.length ∧ (s3.course 1).primMem.wf = true ∧ (s3.course 1).tileMem.wf = true
        ∧ ∃ x ∈ z.2, x.load = true)
      | _ => false
    | none => false) = true := by decide +kernel
  split at h
  · next s0 v e0 =>
    obtain ⟨⟨s1, p⟩, e1, h⟩ := inr_of h
    obtain ⟨⟨s2, ts⟩, e2, h⟩ := inr_of h
    split at h
    · next s3 q l e3 =>
      exact ⟨s, 1, 0, 2, 1, 0, r, n, { node := 1, closed := true }, s0, s1, s2, s3, p, ts, v, q, l, rfl, by decide, by decide +kernel, by decide +kernel,
        by decide +kernel, by decide +kernel, by decide +kernel, by decide +kernel, e0, e1, e2, e3, of_decide_eq_true h⟩
    · exact Bool.noConfusion h
  · exact Bool.noConfusion h

/-- The run of a visible tile whose classifier's targets have no room left, and its device. -/
def fullRun : Run :=
  let r := tileRun .visible ((unitDev {} id).runs.headD cancelledRun)
  { r with insts := r.insts.map fun i => { i with reserved := 2 ^ 30 } }
def fullDev (fr : Frag) : State := { tileDev .visible [fr] with runs := [fullRun] }

/-- A filled tile, a visible one with a fragment of material 0, with room on the classifier's edges and without, and one whose records are gone (FixedUnitEvents). -/
theorem test_meets_Tiles :
    (∃ (s s1 : State) (c k : Nat) (r : Run) (b : Binning) (p : BinParam), s.evt.a = c ∧ c < 16 ∧ c < s.courses.length ∧ s.unitsDown (c / 8) = false
      ∧ s.evt.b = k ∧ k < (s.course c).tiles.length ∧ s.run? (s.tile c k).run = some r ∧ r.bins.find? (·.node == (s.tile c k).bin) = some b
      ∧ (s.tile c k).state = .filled ∧ s.binParam (courseSrc c) r b.node = .inr (s1, p))
    ∧ (∃ (s sR s0 s1 s2 : State) (resv : List Resv) (c k : Nat) (r : Run) (n : Node) (p : BinParam) (q : ClsParam) (z : QRec) (l : List QRec), s.evt.a = c ∧ c < 16
      ∧ c < s.courses.length ∧ s.unitsDown (c / 8) = false ∧ s.evt.b = k ∧ k < (s.course c).tiles.length ∧ s.run? (s.tile c k).run = some r
      ∧ r.node? (s.tile c k).classifier = some n ∧ (s.tile c k).state = .visible
      ∧ s.reserveEdges r n (c / 8) true = some (sR, resv)
      ∧ (sR.modTile c k fun t => { t with state := .shading, resv := resv }).unitTake ((sR.run? r.id).getD r) n (s.tile c k).classifier
          (r.instDie (s.tile c k).classifier (c / 8)) (fun z => z.tile == some (4 * c + k)) 1 = (s0, z :: l)
      ∧ s0.binParam (courseSrc c) r (s.tile c k).bin = .inr (s1, p) ∧ s1.clsParam (courseSrc c) r (s.tile c k).classifier = .inr (s2, q)
      ∧ (∀ f ∈ (s.tile c k).frags, f.mat < q.matcount → s2.unitFail r.slot (q.mattab + f.mat) 1 false = none)
      ∧ c < s2.courses.length ∧ k < (s2.course c).tiles.length ∧ ∃ f ∈ (s.tile c k).frags, f.mat < q.matcount)
    ∧ (∃ (s : State) (c k : Nat) (r : Run) (n : Node), s.evt.a = c ∧ c < 16 ∧ c < s.courses.length ∧ s.unitsDown (c / 8) = false ∧ s.evt.b = k
      ∧ k < (s.course c).tiles.length ∧ s.run? (s.tile c k).run = some r ∧ r.node? (s.tile c k).classifier = some n
      ∧ (s.tile c k).state = .visible ∧ s.reserveEdges r n (c / 8) true = none)
    ∧ ∃ (s s1 s2 : State) (c k : Nat) (r : Run) (p : BinParam) (ts : List Target), s.evt.a = c ∧ c < 16 ∧ c < s.courses.length
      ∧ s.unitsDown (c / 8) = false ∧ s.evt.b = k ∧ k < (s.course c).tiles.length ∧ s.run? (s.tile c k).run = some r
      ∧ (s.tile c k).state = .shading ∧ (s.tile c k).left = [] ∧ s.tileOut r (4 * c + k) = false
      ∧ s.binParam (courseSrc c) r (s.tile c k).bin = .inr (s1, p) ∧ s1.targets (courseSrc c) r p = .inr (s2, ts)
      ∧ (∀ z ∈ ts, z.wb = true → ∀ q ∈ z.rows p (s.tile c k).tx (s.tile c k).ty, s2.unitFail r.slot q.2.1 q.2.2 true = none)
      ∧ ∃ z ∈ ts, z.wb = true := by
  let r (st : TileState) := tileRun st ((unitDev {} id).runs.headD cancelledRun)
  let fr : Frag := { x := 32, y := 0, key := 0, mat := 0, transp := false, depth := 0, b1 := 0, b2 := 0 }
  let n := unitNodes.getD 3 (progNode [])
  have h2 : rightHas ((tileDev .filled []).binParam (courseSrc 1) (r .filled) 1) (fun _ => true) = true := by decide +kernel
  have h3 : (match (tileDev .visible [fr]).reserveEdges (r .visible) n 0 true with
    | some (sR, resv) =>
      (match (sR.modTile 1 3 fun t => { t with state := .shading, resv := resv }).unitTake ((sR.run? (r .visible).id).getD (r .visible)) n 3
          ((r .visible).instDie 3 0) (fun z => z.tile == some 7) 1 with
      | (s0, _ :: _) => rightHas (s0.binParam (courseSrc 1) (r .visible) 1) fun y => rightHas (y.1.clsParam (courseSrc 1) (r .visible) 3) fun z =>
        decide ((∀ f ∈ [fr], f.mat < z.2.matcount → z.1.unitFail 0 (z.2.mattab + f.mat) 1 false = none)
          ∧ 1 < z.1.courses.length ∧ 3 < (z.1.course 1).tiles.length ∧ ∃ f ∈ [fr], f.mat < z.2.matcount)
      | _ => false)
    | none => false) = true := by decide +kernel
  have h4 : rightHas ((tileDev .shading []).binParam (courseSrc 1) (r .shading) 1) (fun y => rightHas (y.1.targets (courseSrc 1) (r .shading) y.2) fun z =>
    decide ((∀ x ∈ z.2, x.wb = true → ∀ q ∈ x.rows y.2 1 0, z.1.unitFail 0 q.2.1 q.2.2 true = none) ∧ ∃ x ∈ z.2, x.wb = true)) = true := by
    decide +kernel
  obtain ⟨⟨s2, p2⟩, e2, -⟩ := inr_of h2
  obtain ⟨⟨s4, p4⟩, e4, h4⟩ := inr_of h4
  obtain ⟨⟨t4, ts4⟩, f4, h4⟩ := inr_of h4
  refine ⟨⟨tileDev .filled [], s2, 1, 3, r .filled, { node := 1, closed := true }, p2, rfl, by decide, by decide +kernel, by decide +kernel, rfl,
      by decide +kernel, by decide +kernel, by decide +kernel, by decide +kernel, e2⟩, ?_,
    ⟨fullDev fr, 1, 3, fullRun, n, rfl, by decide, by decide +kernel, by decide +kernel, rfl, by decide +kernel,
      by decide +kernel, by decide +kernel, by decide +kernel, by decide +kernel⟩,
    ⟨tileDev .shading [], s4, t4, 1, 3, r .shading, p4, ts4, rfl, by decide, by decide +kernel, by decide +kernel, rfl, by decide +kernel,
      by decide +kernel, by decide +kernel, by decide +kernel, by decide +kernel, e4, f4, of_decide_eq_true h4⟩⟩
  split at h3
  · next sR resv eR =>
    split at h3
    · next s0 q l e0 =>
      obtain ⟨⟨s3, p3⟩, e3, h3⟩ := inr_of h3
      obtain ⟨⟨t3, q3⟩, f3, h3⟩ := inr_of h3
      exact ⟨tileDev .visible [fr], sR, s0, s3, t3, resv, 1, 3, r .visible, n, p3, q3, q, l, rfl, by decide, by decide +kernel, by decide +kernel, rfl,
        by decide +kernel, by decide +kernel, by decide +kernel, by decide +kernel, eR, e0, e3, f3, of_decide_eq_true h3⟩
    · exact Bool.noConfusion h3
  · exact Bool.noConfusion h3

/-- A run with records for node n on die A. -/
def batchRun (n : Nat) (bytes : List Byte) (r : Run) : Run :=
  { r with insts := r.insts.modify (2 * n) fun i => { i with recs := [{ bytes := bytes }] } }

/-- What a batch's node asks of ashlar 63, and the ashlar once idle residencies are given up for it. -/
def batchWant (r : Run) (n : Node) (i : Nat) : Want :=
  { run := r.id, n := i, node := n.asMatrix, die := 0, token := instToken r.id (2 * i) (none, none) }
def batchFrom (s : State) (r : Run) (n : Node) (i : Nat) : State := if n.isFixed 5 then s.giveUp (batchWant r n i) 63 else s

/-- A batch for the traversal unit and one for a matrix node, on an idle ashlar (FixedUnitEvents). -/
theorem test_meets_Batches : ∀ i ∈ [5, 6], ∃ (s s1 s2 : State) (r r1 : Run) (n : Node) (b : Batch) (resv : List Resv), s.run? s.evt.a = some r
    ∧ s.evt.b = i ∧ s.evt.c = 0 ∧ s.evt.d = 63 ∧ r.node? i = some n ∧ r.cancelling = false ∧ 63 < s.ashlars.length ∧ dieOf 63 = 0
    ∧ (r.inst i 0).queued ≠ 0 ∧ (batchFrom s r n i).reserveEdges r n 0 false = some (s1, resv) ∧ s1.run? r.id = some r1
    ∧ s1.takeBatch r1 n i 0 resv = (s2, some b) ∧ n.isFixed (i - 1) = true ∧ s.unitsDown 0 = false ∧ (s.ashlar 63).retired = false
    ∧ (s.ashlar 63).rays = [] ∧ (s.ashlar 63).mlp = [] ∧ (batchFrom s r n i).failedSteps (batchWant r n i) 63 = []
    ∧ (s2.residency? 63 r.id i).isNone = true := by
  have h : ∀ i ∈ [5, 6],
      (let s := unitDev { a := 1, b := i, c := 0, d := 63 } (batchRun i (List.replicate 48 0))
       let r := batchRun i (List.replicate 48 0) ((unitDev {} id).runs.headD cancelledRun)
       let n := unitNodes.getD i (progNode [])
       (match (batchFrom s r n i).reserveEdges r n 0 false with
          | some (s1, resv) => (match s1.run? r.id with
            | some r1 => (s1.takeBatch r1 n i 0 resv).2.isSome && ((s1.takeBatch r1 n i 0 resv).1.residency? 63 r.id i).isNone
            | none => false)
          | none => false) = true
       ∧ s.run? 1 = some r ∧ r.node? i = some n ∧ r.cancelling = false ∧ 63 < s.ashlars.length ∧ (r.inst i 0).queued ≠ 0
       ∧ n.isFixed (i - 1) = true ∧ s.unitsDown 0 = false ∧ (s.ashlar 63).retired = false ∧ (s.ashlar 63).rays = [] ∧ (s.ashlar 63).mlp = []
       ∧ (batchFrom s r n i).failedSteps (batchWant r n i) 63 = []) := by decide +kernel
  intro i hi
  obtain ⟨h6, h1, h2, h3, h4, h5, h7⟩ := h i hi
  split at h6
  · next s1 resv e1 =>
    split at h6
    · next r1 e2 =>
      obtain ⟨hs, hr⟩ := Bool.and_eq_true_iff.1 h6
      obtain ⟨b, hb⟩ := Option.isSome_iff_exists.1 hs
      exact ⟨_, s1, (s1.takeBatch r1 (unitNodes.getD i (progNode [])) i 0 resv).1, _, r1, _, b, resv, h1, rfl, rfl, rfl, h2, h3, h4,
        by decide, h5, e1, e2, Prod.ext rfl hb, h7.1, h7.2.1, h7.2.2.1, h7.2.2.2.1, h7.2.2.2.2.1, h7.2.2.2.2.2, hr⟩
    · exact Bool.noConfusion h6
  · exact Bool.noConfusion h6

/-- A ray of no direction, one whose interval is empty, and one that meets nothing (FixedUnitEvents). -/
def rayBytes (d tmin tmax : Byte) : List Byte :=
  List.replicate 15 0 ++ [tmin] ++ List.replicate 3 0 ++ [d] ++ List.replicate 11 0 ++ [tmax] ++ List.replicate 16 0

theorem test_meets_RayResult :
    (∃ (s : State) (r : Run) (n : Node) (b : Batch) (rest : List Batch) (q : QRec) (a : Nat) (e : RayEnd), s.evt.a = a ∧ a < s.ashlars.length
      ∧ s.batchNode b = some (r, n) ∧ b.recs.head? = some q ∧ (s.ashlar a).rays = b :: rest ∧ s.trace r.slot q.bytes = some e ∧ a = 127)
    ∧ rayInvalid (rayBytes 0 0 0) = true
    ∧ (rayInvalid (rayBytes 0x40 0x40 0) = false ∧ (rayOf (rayBytes 0x40 0x40 0)).tmin.le (rayOf (rayBytes 0x40 0x40 0)).tmax = false) :=
  let q : QRec := { bytes := rayBytes 0 0 0 }
  let b : Batch := { run := 1, node := 5, recs := [q, q] }
  let s := { unitDev { a := 127 } id with ashlars := (unitDev {} id).ashlars.modify 127 fun a => { a with rays := [b] } }
  have h : rayInvalid (rayBytes 0 0 0) = true := by decide +kernel
  ⟨⟨s, (unitDev {} id).runs.headD cancelledRun, unitNodes.getD 5 (progNode []), b, [], q, 127, { status := 4 }, rfl, by decide +kernel,
      by decide +kernel, rfl, by decide +kernel, by
        show State.trace _ _ (rayBytes 0 0 0) = _
        unfold State.trace; rw [if_pos h], rfl⟩, h, by decide +kernel⟩

/-- A matrix node's batch whose network reads and computes (FixedUnitEvents). -/
theorem test_meets_MatrixNodeResult : ∃ (s s1 : State) (r : Run) (n : Node) (b : Batch) (rest : List Batch) (q : QRec) (a : Nat) (w : Network)
    (out : List Byte), s.evt.a = a ∧ a < s.ashlars.length ∧ s.batchNode b = some (r, n) ∧ b.recs.head? = some q ∧ (s.ashlar a).mlp = b :: rest
    ∧ s.readNet (courseSrc (courseOf a)) r n.fixparam = .inr (s1, w) ∧ s1.netOut r w w.inputs (q.bytes.drop w.inoff) w.layers = .inr out ∧ w.layers ≠ [] := by
  let q : QRec := { bytes := List.replicate 16 0 }
  let b : Batch := { run := 1, node := 6, recs := [q, q] }
  let s := { unitDev { a := 127 } id with ashlars := (unitDev {} id).ashlars.modify 127 fun a => { a with mlp := [b] } }
  let r := (unitDev {} id).runs.headD cancelledRun
  have h : rightHas (s.readNet (courseSrc 15) r 0x10200) (fun y => rightHas (y.1.netOut r y.2 y.2.inputs (q.bytes.drop y.2.inoff) y.2.layers) fun _ =>
    decide (y.2.layers ≠ [])) = true := by decide +kernel
  obtain ⟨⟨s1, w⟩, e1, h⟩ := inr_of h
  obtain ⟨out, e2, h⟩ := inr_of h
  exact ⟨s, s1, r, unitNode 5 0x10200 16 [⟨4, 1, false⟩], b, [], q, 127, w, out, rfl, by decide +kernel,
    by decide +kernel, rfl, by decide +kernel, e1, e2, of_decide_eq_true h⟩

/-! ### Hypotheses of clauses and steps, and single steps -/

/-- The device whose next step begins a clause: the header placed, and the same header with a word that is no instruction. -/
def headDev : State := State.reset.placed 0xFE3C0000

/-- The header that a wave chooses. -/
def headOf (s : State) (w : Wave) : Option (Sub × Word × List Word) :=
  match s.choose w with
  | some g => match s.headAt w g with
    | .ok raw ws => some (g, raw, ws)
    | _ => none
  | none => none

theorem headOf_some {s : State} {w : Wave} {g : Sub} {raw : Word} {ws : List Word} (h : headOf s w = some (g, raw, ws)) :
    s.choose w = some g ∧ s.headAt w g = .ok raw ws := by
  unfold headOf at h
  split at h
  · split at h
    · simp only [Option.some.injEq, Prod.mk.injEq] at h
      obtain ⟨rfl, rfl, rfl⟩ := h
      exact ⟨‹_›, ‹_›⟩
    · cases h
  · cases h

/-- A value of an option with a property. -/
theorem some_of {α : Type} {x : Option α} {P : α → Bool} (h : x.any P = true) : ∃ y, x = some y ∧ P y = true := by
  cases x with
  | none => exact Bool.noConfusion h
  | some y => exact ⟨y, rfl, h⟩

/-- A clause header that a wave chooses (ClauseStartAndEnd), at its lowest count. -/
theorem test_meets_ClauseStart : ∃ (s : State) (w : Wave) (g : Sub) (ws : List Word) (n : BX) (e : PR) (m : SR) (b v : PR) (r : BitVec 2)
    (f y d : BitVec 1), s.cur = some w.id ∧ s.wave? w.id = some w ∧ w.clause = none ∧ s.choose w = some g ∧ s.unitWaits w g = false
    ∧ s.headAt w g = .ok (encode (.clauseHeader n e m b v r f y d)) ws ∧ g.at_.2 < n.toNat ∧ n = 1 := by
  have h : (headDev.waves.head?.any fun w => (headOf headDev w).any fun x => decide (headDev.cur = some w.id ∧ headDev.wave? w.id = some w
    ∧ w.clause = none ∧ x.2.1 = encode (.clauseHeader 1 7 0 0 0 0 0 0 0) ∧ headDev.unitWaits w x.1 = false ∧ x.1.at_.2 < 1)) = true := by
    decide +kernel
  obtain ⟨w, -, h⟩ := some_of h
  obtain ⟨⟨g, raw, ws⟩, hx, h⟩ := some_of h
  obtain ⟨h1, h2, h3, h4, h5, h6⟩ := of_decide_eq_true h
  obtain ⟨h7, h8⟩ := headOf_some hx
  exact ⟨headDev, w, g, ws, 1, 7, 0, 0, 0, 0, 0, 0, 0, h1, h2, h3, h7, h5, h4 ▸ h8, h6, rfl⟩

/-- Between two words of a clause, and after its last, with results queued for the highest registers (ClauseStartAndEnd). -/
theorem test_meets_ClauseEnd :
    (∃ (s : State) (w : Wave) (c : Clause), s.wave? w.id = some w ∧ w.clause = some c ∧ c.only = false ∧ c.jump = none
      ∧ c.index + 1 < c.hdr.n ∧ (Ctx.mk s w c).live ≠ 0)
    ∧ ∃ (s : State) (w : Wave) (c : Clause), s.wave? w.id = some w ∧ w.clause = some c ∧ c.only = false ∧ c.jump = none
      ∧ c.hdr.n ≤ c.index + 1 ∧ c.tret = none ∧ c.exits = 0 ∧ c.reform = 0 ∧ c.parks = [] ∧ c.specials = [] ∧ c.out = 0
      ∧ (∀ q, s.run? w.run = some q → q.cancelling = false) ∧ c.pend ≠ []
      ∧ ∃ l, l < w.lanesN ∧ (Ctx.mk s w c).live.getLsbD l = true ∧ (w.lane l).stat = .run :=
  let c1 := { tClause with hdr := headerOf 0xFE5C0000 }
  let c2 := { tClause with pend := [⟨4, .vreg 15 127 7⟩, ⟨2, .pred 15 7 true⟩, ⟨2, .sreg 63 9⟩], xfer := [(15, 0x10040)] }
  ⟨⟨tDev { tWave with clause := some c1 }, { tWave with clause := some c1 }, c1, rfl, rfl, rfl, rfl, by decide +kernel⟩,
    ⟨tDev { tWave with clause := some c2 }, { tWave with clause := some c2 }, c2, rfl, rfl, rfl, rfl, by decide +kernel, rfl, rfl, rfl, rfl,
      rfl, rfl, fun q h => by
        have e : (tDev { tWave with clause := some c2 }).run? tWave.run = some (placeRun 1 (placeNode false false false)) := rfl
        rw [show ({ tWave with clause := some c2 } : Wave).run = tWave.run from rfl, e] at h
        cases h; rfl,
      by simp [c2], 15, by decide +kernel, by decide +kernel, rfl⟩⟩

/-- The device whose next step issues a word. -/
def wordDev (w : Nat) : State := State.reset.withFetchWord 32 w

/-- The word that the wave of a step has next. -/
def wordOf (s : State) : Option (State × Nat × Wave × Clause × Word) :=
  match s.nextAct with
  | (t, .issue id) => match t.wave? id with
    | some w => match w.clause with
      | some c => match t.fetch w (c.pc + 4 * (c.index + 1)) with
        | .inr word => some (t, id, w, c, word)
        | .inl _ => none
      | none => none
    | none => none
  | _ => none

theorem wordOf_some {s t : State} {id : Nat} {w : Wave} {c : Clause} {word : Word} (h : wordOf s = some (t, id, w, c, word)) :
    s.nextAct = (t, .issue id) ∧ t.wave? id = some w ∧ w.clause = some c ∧ t.fetch w (c.pc + 4 * (c.index + 1)) = .inr word := by
  unfold wordOf at h
  repeat' split at h
  all_goals first
    | cases h; done
    | (simp only [Option.some.injEq, Prod.mk.injEq] at h
       obtain ⟨rfl, rfl, rfl, rfl, rfl⟩ := h
       exact ⟨‹_›, ‹_›, ‹_›, ‹_›⟩)

/-- A step that issues an instruction, one whose word is none, one whose word a fence holds, and one while the course switches clocks
(StepRunsDecoded, EveryStepAnswers). -/
theorem test_meets_StepWord : ∃ (s t : State) (id : Nat) (w : Wave) (c : Clause) (word : Word) (i : Instr) (u : State),
    s.nextAct = (t, .issue id) ∧ t.wave? id = some w ∧ w.clause = some c ∧ t.fetch w (c.pc + 4 * (c.index + 1)) = .inr word
    ∧ (t.course (courseOf w.ashlar)).vf ≠ .switching ∧ decode word = .ok i
    ∧ ((Ctx.mk { t with cur := some id } w c).load word).wordHeld i = false
    ∧ exec i ((Ctx.mk { t with cur := some id } w c).load word).done = .next u := by
  have h : ((wordOf (wordDev 0xFC000000)).any fun q => decide (q.2.2.2.2 = 0xFC000000 ∧ (q.1.course (courseOf q.2.2.1.ashlar)).vf ≠ .switching
    ∧ ((Ctx.mk { q.1 with cur := some q.2.1 } q.2.2.1 q.2.2.2.1).load q.2.2.2.2).wordHeld .nop = false
    ∧ ((Ctx.mk { q.1 with cur := some q.2.1 } q.2.2.1 q.2.2.2.1).load q.2.2.2.2).done.ctx?.isSome)) = true := by decide +kernel
  obtain ⟨⟨t, id, w, c, word⟩, hx, h⟩ := some_of h
  obtain ⟨rfl, h1, h2, h3⟩ := of_decide_eq_true h
  obtain ⟨e1, e2, e3, e4⟩ := wordOf_some hx
  obtain ⟨x, hx⟩ := Option.isSome_iff_exists.1 h3
  obtain ⟨u, hu⟩ := issue_next_of_ctx hx { ct := true } fun x _ => x
  exact ⟨_, t, id, w, c, _, .nop, u, e1, e2, e3, e4, h1, rfl, h2, hu⟩

theorem test_meets_StepBadWord : ∃ (s t : State) (id : Nat) (w : Wave) (c : Clause) (word : Word) (e : DecodeError),
    s.nextAct = (t, .issue id) ∧ t.wave? id = some w ∧ w.clause = some c ∧ t.fetch w (c.pc + 4 * (c.index + 1)) = .inr word
    ∧ (t.course (courseOf w.ashlar)).vf ≠ .switching ∧ decode word = .error e := by
  have h : ((wordOf (wordDev 0xF0000000)).any fun q => decide (q.2.2.2.2 = 0xF0000000 ∧ (q.1.course (courseOf q.2.2.1.ashlar)).vf ≠ .switching))
    = true := by decide +kernel
  obtain ⟨⟨t, id, w, c, word⟩, hx, h⟩ := some_of h
  obtain ⟨rfl, h1⟩ := of_decide_eq_true h
  obtain ⟨e1, e2, e3, e4⟩ := wordOf_some hx
  cases hd : decode 0xF0000000 with
  | error e => exact ⟨_, t, id, w, c, _, e, e1, e2, e3, e4, h1, hd⟩
  | ok i =>
    have : (match decode 0xF0000000 with | .ok _ => true | .error _ => false) = false := by decide +kernel
    rw [hd] at this
    exact Bool.noConfusion this

/-- A QPUSH of lanes that a fence holds on path L. -/
def heldDev : State :=
  let s := wordDev (encode (.qpush 1 0 0)).toNat
  { s with
    waves := s.waves.map fun w => { w with hold := [{ path := pathL, on := 7, lanes := 0xFFFF, of := 0xFFFF }] }
    reqs := [tReq 7 (.mem (tLoad true))] }

theorem test_meets_StepHeld : ∃ (s t : State) (id : Nat) (w : Wave) (c : Clause) (word : Word) (i : Instr),
    s.nextAct = (t, .issue id) ∧ t.wave? id = some w ∧ w.clause = some c ∧ t.fetch w (c.pc + 4 * (c.index + 1)) = .inr word
    ∧ (t.course (courseOf w.ashlar)).vf ≠ .switching ∧ decode word = .ok i
    ∧ ((Ctx.mk { t with cur := some id } w c).load word).wordHeld i = true := by
  have h : ((wordOf heldDev).any fun q => decide (q.2.2.2.2 = encode (.qpush 1 0 0) ∧ (q.1.course (courseOf q.2.2.1.ashlar)).vf ≠ .switching
    ∧ ((Ctx.mk { q.1 with cur := some q.2.1 } q.2.2.1 q.2.2.2.1).load q.2.2.2.2).wordHeld (.qpush 1 0 0) = true)) = true := by decide +kernel
  obtain ⟨⟨t, id, w, c, word⟩, hx, h⟩ := some_of h
  obtain ⟨rfl, h1, h2⟩ := of_decide_eq_true h
  obtain ⟨e1, e2, e3, e4⟩ := wordOf_some hx
  exact ⟨_, t, id, w, c, _, .qpush 1 0 0, e1, e2, e3, e4, h1, by rfl, h2⟩

theorem test_meets_StepSwitching : ∃ (s t : State) (id : Nat) (w : Wave) (c : Clause), s.nextAct = (t, .issue id) ∧ t.wave? id = some w
    ∧ w.clause = some c ∧ (t.course (courseOf w.ashlar)).vf = .switching := by
  have h : ((wordOf ((wordDev 0xFC000000).modCourse 0 fun x => { x with vf := .switching })).any fun q =>
    decide ((q.1.course (courseOf q.2.2.1.ashlar)).vf = .switching)) = true := by decide +kernel
  obtain ⟨⟨t, id, w, c, word⟩, hx, h⟩ := some_of h
  obtain ⟨e1, e2, e3, -⟩ := wordOf_some hx
  exact ⟨_, t, id, w, c, e1, e2, e3, of_decide_eq_true h⟩

/-- The device whose next step begins a clause, with another wave of the ashlar amid a clause of the scalar stream or none. -/
def pipeDev (busy : Bool) : State :=
  { headDev with waves := headDev.waves
      ++ if busy then [{ tWave with id := 99, clause := some { tClause with hdr := headerOf 0xFE200000 } }] else [] }

/-- A step that begins a clause, and one whose clause waits for the scalar stream (StepRunsDecoded). -/
theorem test_meets_StepHeader : ∀ waits : Bool, ∃ (s t : State) (id : Nat) (w z : Wave) (g : Sub) (raw : Word) (ws : List Word),
    s.nextAct = (t, .issue id) ∧ t.wave? id = some w ∧ w.clause = none ∧ (t.focus id).wave? id = some z ∧ (t.focus id).choose z = some g
    ∧ (t.focus id).unitWaits z g = waits ∧ (t.focus id).headAt z g = .ok raw ws
    ∧ (waits = false → ∃ u, exec (decodeHeader raw.toNat) (t.focus id) = .next u) := by
  have h : ∀ waits : Bool,
      (match (pipeDev waits).nextAct with
       | (t, .issue id) => (t.wave? id).any fun w => ((t.focus id).wave? id).any fun z => (headOf (t.focus id) z).any fun x =>
         w.clause.isNone && (t.focus id).unitWaits z x.1 == waits && (waits || match exec (decodeHeader x.2.1.toNat) (t.focus id) with
           | .next _ => true
           | _ => false)
       | _ => false) = true := by decide +kernel
  intro waits
  have h := h waits
  split at h
  · next t id e1 =>
    obtain ⟨w, e2, h⟩ := some_of h
    obtain ⟨z, e3, h⟩ := some_of h
    obtain ⟨⟨g, raw, ws⟩, hx, h⟩ := some_of h
    obtain ⟨e4, e5⟩ := headOf_some hx
    simp only [Bool.and_eq_true, beq_iff_eq, Option.isNone_iff_eq_none] at h
    refine ⟨_, t, id, w, z, g, raw, ws, e1, e2, h.1.1, e3, e4, h.1.2, e5, fun hw => ?_⟩
    have h2 := h.2
    simp only [hw, Bool.false_or] at h2
    split at h2
    · next u e7 => exact ⟨u, e7⟩
    · exact Bool.noConfusion h2
  · exact Bool.noConfusion h

theorem test_meets_StepOther : (∃ (s t : State) (i : Instr) (e : EvArgs), s.nextAct = (t, .event i e) ∧ i.isWord = false)
    ∧ ∃ (s t : State) (v : Input), s.nextAct = (t, .input v) :=
  ⟨⟨{ State.reset with tape := [⟨1000, .event .plumbTick {}⟩] }, _, _, _, rfl, rfl⟩,
    ⟨{ State.reset with tape := [⟨0, .input (.copyStep 1 64)⟩] }, _, _, rfl⟩⟩

/-- A well-formed word, and a word that decodes to one (DecodeEncode). -/
theorem test_meets_DecodeEncode : (∃ i : Instr, i.isWord = true ∧ i.wellFormed = true) ∧ (∃ (w : Word) (i : Instr), decode w = .ok i)
    ∧ ∃ (w : Word) (i : Instr), decodeTableWord 32 w.toNat = some i :=
  ⟨⟨.nop, rfl, rfl⟩, ⟨0xFC000000, .nop, rfl⟩, ⟨0xFC000000, .nop, rfl⟩⟩

/-- Memory in its canonical form that a step changes (StepKeepsMemoryForm), and a word that issues (WordsLeaveMemory). -/
theorem test_meets_StepKeepsMemoryForm : ∃ s t : State, s.memOk ∧ step s = .next t ∧ t.mem ≠ s.mem :=
  let s := { State.reset with tape := [⟨0, .input (.hostMemory 0x1234 [7])⟩] }
  ⟨s, s.nextAct.1.outside (.hostMemory 0x1234 [7]), by unfold State.memOk; decide, rfl, by decide +kernel⟩

/-! ### Single steps; expected results are worked by hand from the rules named -/

/-- The wave after the step that issues a word in a one-word clause, from a wave changed by f. -/
def ran (i : Instr) (f : Wave → Wave) : Wave :=
  let s := State.reset.withFetchWord 32 (encode i).toNat
  match step { s with waves := s.waves.map f } with
  | .next t => t.waves.headD tThread
  | _ => tThread

/-- Register r of lane l after that step, with registers set before. -/
def ranV (i : Instr) (rs : List (Nat × Word)) (l r : Nat) : Word := ((ran i (put · rs)).lane l).v.getD r 0

/-- IADD keeps the low 32 bits (R200). -/
theorem test_step_iadd_wraps : ranV (.iadd 5 1 2 0) [(1, 0xFFFFFFFF), (2, 2)] 15 5 = 1 := by decide +kernel
/-- ISUB is a - b, with a source as its destination (R152, R200). -/
theorem test_step_isub : ranV (.isub 2 1 2 0) [(1, 1), (2, 2)] 0 2 = 0xFFFFFFFF := by decide +kernel
/-- UMULHI of the largest values; IMULHI takes them as -1 (R200). -/
theorem test_step_umulhi : ranV (.umulhi 5 1 2 0) [(1, 0xFFFFFFFF), (2, 0xFFFFFFFF)] 3 5 = 0xFFFFFFFE := by decide +kernel
theorem test_step_imulhi : ranV (.imulhi 5 1 2 0) [(1, 0xFFFFFFFF), (2, 0xFFFFFFFF)] 3 5 = 0 := by decide +kernel
/-- FADD ties to even: 1 + 2^-24 is 1 (R128). -/
theorem test_step_fadd_tie : ranV (.fadd 5 1 2 0) [(1, 0x3F800000), (2, 0x33800000)] 0 5 = 0x3F800000 := by decide +kernel
/-- FSUB: 1 - 1 is +0 under round to nearest (R128). -/
theorem test_step_fsub_zero : ranV (.fsub 5 1 2 0) [(1, 0x3F800000), (2, 0x3F800000)] 0 5 = 0 := by decide +kernel
/-- BSWAP (R201). -/
theorem test_step_bswap : ranV (.bswap 5 1 0) [(1, 0x11223344)] 0 5 = 0x44332211 := by decide +kernel
/-- LANEID (R205). -/
theorem test_step_laneid : ranV (.laneid 5 0) [] 15 5 = 15 := by decide +kernel
/-- RED.ADD over 16 lanes of 3 (R205). -/
theorem test_step_redAdd : ranV (.redAdd 5 1 0) [(1, 3)] 0 5 = 48 := by decide +kernel
/-- A predicate that no lane has leaves every register (R154). -/
theorem test_step_predicate_off : ranV (.iadd 5 1 2 3) [(1, 1), (2, 1), (5, 9)] 0 5 = 9 := by decide +kernel
/-- SADD of s1 and s2 (R173). -/
theorem test_step_sadd : (ran (.sadd 5 1 2) fun w => { w with s := (w.s.set 1 0xFFFFFFFFFFFFFFFF).set 2 2 }).s.getD 5 0 = 1 := by
  decide +kernel
/-- After a one-word clause the lanes are at the next 16-byte boundary (R150). -/
theorem test_step_pc : ((ran .nop id).lane 7).pc = placeAt + 16 := by decide +kernel
/-- A part of the value beyond the width is an illegal encoding (R252, Table 17-9): class 1 for every lane. -/
theorem test_step_illegal : ((ran (.vfpush 0 1 0) id).lane 0).fault.map (·.cls) = some 1 := by decide +kernel

end Sys2Proof.Tests
end

section
/-! PROOFS. Every step keeps the canonical form of memory (O58). Three layers over the model's definitions, each in their order:
the operations that leave memory as it is (_mem), those that write it and keep its form (_memOk), and the meanings of words and events
(_keeps). Memory changes in few places: a write at a home, the host's write to its own memory, and the two losses of memory; every
other change of it goes through these. -/

namespace Sys2Proof.Machine

/-! ### Branches and folds -/

@[simp] theorem State.mem_ite (c : Prop) [Decidable c] (s t : State) : (if c then s else t).mem = if c then s.mem else t.mem :=
  apply_ite State.mem c s t

@[simp] theorem Ctx.s_ite (c : Prop) [Decidable c] (x y : Ctx) : (if c then x else y).s = if c then x.s else y.s :=
  apply_ite Ctx.s c x y

/-- A fold whose every step keeps a measure keeps it. -/
theorem foldl_same {α β γ : Type} (φ : β → γ) {g : β → α → β} (hg : ∀ b a, φ (g b a) = φ b) (l : List α) (b : β) :
    φ (l.foldl g b) = φ b := by
  induction l generalizing b with
  | nil => rfl
  | cons a l ih => exact (ih _).trans (hg b a)

@[simp] theorem State.foldl_mem {α : Type} {g : State → α → State} (hg : ∀ s a, (g s a).mem = s.mem) (l : List α) (s : State) :
    (l.foldl g s).mem = s.mem :=
  foldl_same State.mem hg l s

@[simp] theorem Ctx.foldl_mem {α : Type} {g : Ctx → α → Ctx} (hg : ∀ x a, (g x a).s.mem = x.s.mem) (l : List α) (x : Ctx) :
    (l.foldl g x).s.mem = x.s.mem :=
  foldl_same (fun x : Ctx => x.s.mem) hg l x

@[simp] theorem foldl_fst_mem {α β : Type} {g : State × β → α → State × β} (hg : ∀ x a, (g x a).1.mem = x.1.mem) (l : List α)
    (x : State × β) : (l.foldl g x).1.mem = x.1.mem :=
  foldl_same (fun x : State × β => x.1.mem) hg l x

end Sys2Proof.Machine
end

section
/-! PROOFS. The operations that leave memory as it is. -/

namespace Sys2Proof.Machine

/-! ### Ops -/

@[simp] theorem State.requestAll_mem (s : State) (p : Wave → Bool) : (s.requestAll p).mem = s.mem := rfl
@[simp] theorem Ctx.put_mem (x : Ctx) (d : Dst) : (x.put d).s.mem = x.s.mem := rfl
@[simp] theorem Ctx.puts_mem (x : Ctx) (ds : List Dst) : (x.puts ds).s.mem = x.s.mem := by rw [(puts_state x ds).1]
@[simp] theorem Ctx.modW_mem (x : Ctx) (f : Wave → Wave) : (x.modW f).s.mem = x.s.mem := rfl
@[simp] theorem Ctx.raise_mem (x : Ctx) (amask : Mask) (fs : List LaneFault) :
    (x.raise amask fs).s.mem = x.s.mem := by simp [Ctx.raise]
@[simp] theorem Ctx.raiseAll_mem (x : Ctx) (m : Mask) (cls code addr : Nat) (raised : Flags) :
    (x.raiseAll m cls code addr raised).s.mem = x.s.mem := by simp [Ctx.raiseAll]
@[simp] theorem Ctx.raisePath_mem (x : Ctx) (m : Mask) (cls code addr : Nat) (late : Bool) :
    (x.raisePath m cls code addr late).s.mem = x.s.mem := by simp [Ctx.raisePath]
@[simp] theorem Ctx.illegal_mem (x : Ctx) : x.illegal.s.mem = x.s.mem := by simp [Ctx.illegal]
@[simp] theorem Ctx.newOp_mem (x : Ctx) (lanes : Mask) (wait : Wait) (dsts : List (Nat × Dst)) (regs : List Nat)
    (all : Option Mask) :
    (x.newOp lanes wait dsts regs all).1.s.mem = x.s.mem := rfl
@[simp] theorem State.modBarrier_mem (s : State) (a n : Nat) (f : Barrier → Barrier) : (s.modBarrier a n f).mem = s.mem := rfl

/-! ### Flags -/

@[simp] theorem Ctx.finish_mem (x : Ctx) (a : Mask) (rs : List LaneRes) : (x.finish a rs).s.mem = x.s.mem := by simp [Ctx.finish]
@[simp] theorem Ctx.mapV_mem (x : Ctx) (a : Mask) (d : VR) (f : Nat → Word × Flags) :
    (x.mapV a d f).s.mem = x.s.mem := by simp [Ctx.mapV]
@[simp] theorem Ctx.mapI_mem (x : Ctx) (a : Mask) (d : VR) (f : Nat → Word) : (x.mapI a d f).s.mem = x.s.mem := by simp [Ctx.mapI]
@[simp] theorem Ctx.mapP_mem (x : Ctx) (a : Mask) (d : PR) (f : Nat → Bool × Flags) :
    (x.mapP a d f).s.mem = x.s.mem := by simp [Ctx.mapP]
@[simp] theorem Ctx.finishS_mem (x : Ctx) (d : SR) (y : DWord) (g : Flags) :
    (x.finishS d y g).s.mem = x.s.mem := by simp [Ctx.finishS]

/-! ### Mesh -/

@[simp] theorem State.setSlice_mem (s : State) (n : Nat) (inSet : Bool) : (s.setSlice n inSet).mem = s.mem := rfl
@[simp] theorem State.bump_mem (s : State) (src home : Nat) : (s.bump src home).mem = s.mem := rfl
@[simp] theorem State.numberTo_mem (s : State) (src home line : Nat) (write : Bool) :
    (s.numberTo src home line write).mem = s.mem := by simp [State.numberTo]
@[simp] theorem State.number_mem (s : State) (src line : Nat) (write : Bool) :
    (s.number src line write).mem = s.mem := by simp [State.number]
@[simp] theorem State.stackWrite_mem (s : State) (home line : Nat) : (s.stackWrite home line).mem = s.mem := rfl
@[simp] theorem State.dropWay_mem (s : State) (line : Nat) : (s.dropWay line).mem = s.mem := by
  unfold State.dropWay
  split <;> simp
@[simp] theorem State.wayFor_mem (s : State) (line : Nat) (stream : Bool) : (s.wayFor line stream).mem = s.mem := by
  unfold State.wayFor
  dsimp only
  repeat' split
  all_goals simp
@[simp] theorem State.fromStack_mem (s : State) (line : Nat) : (s.fromStack line).mem = s.mem := by simp [State.fromStack]
@[simp] theorem State.unitWay_mem (s : State) (line policy : Nat) (write : Bool) :
    (s.unitWay line policy write).mem = s.mem := by simp [State.unitWay]

/-! ### Xlate -/

@[simp] theorem State.forgetPage_mem (s : State) (owner asid va : Nat) : (s.forgetPage owner asid va).mem = s.mem := rfl
@[simp] theorem State.freshen_mem (s : State) (owner asid va : Nat) (write : Bool) :
    (s.freshen owner asid va write).mem = s.mem := by
  unfold State.freshen
  split <;> simp
@[simp] theorem State.tlbPut_mem (s : State) (t : TlbEntry) : (s.tlbPut t).mem = s.mem := by
  unfold State.tlbPut
  dsimp only
  split
  · rfl
  · split <;> simp
@[simp] theorem State.count_mem (s : State) (ashlar ev n slot : Nat) :
    (s.count ashlar ev n slot).mem = s.mem := by simp [State.count]
@[simp] theorem State.noteMisses_mem (s : State) (ashlar slot : Nat) (vas : List Nat) :
    (s.noteMisses ashlar slot vas).mem = s.mem := by simp [State.noteMisses]
@[simp] theorem State.codeCopy_mem (s : State) (k l : CodeKey) : (s.codeCopy k l).mem = s.mem := rfl
@[simp] theorem State.codeEnd_mem (s : State) (k : CodeKey) : (s.codeEnd k).mem = s.mem := rfl
@[simp] theorem State.imemFill_mem (s0 : State) (ashlar slot run va : Nat) : (s0.imemFill ashlar slot run va).mem = s0.mem := by
  unfold State.imemFill
  dsimp only
  repeat' split
  all_goals simp

/-! ### Request -/

@[simp] theorem State.opReady_mem (s : State) (wave op : Nat) (m : Mask) (ds : List (Nat × Dst)) :
    (s.opReady wave op m ds).mem = s.mem := rfl
@[simp] theorem Ctx.onState_mem (x : Ctx) (f : State → State) : (x.onState f).s.mem = (f (x.s.setWave x.w)).mem := rfl
@[simp] theorem Ctx.addReq_mem (x : Ctx) (lanes : Mask) (path : Nat) (read write strong : Bool) (op : Option Nat)
    (extra : List (Nat × Mask)) (body : ReqBody) :
    (x.addReq lanes path read write strong op extra body).1.s.mem = x.s.mem := by
  unfold Ctx.addReq
  dsimp only
  split <;> simp
@[simp] theorem State.l1Invalidate_mem (s : State) (caches : List Nat) : (s.l1Invalidate caches).mem = s.mem := rfl
@[simp] theorem State.acquireAt_mem (s : State) (ashlar sc : Nat) :
    (s.acquireAt ashlar sc).mem = s.mem := by simp [State.acquireAt]
@[simp] theorem State.send_mem (s : State) (r : Req) (p : Packet) : (s.send r p).mem = s.mem := by simp [State.send]
@[simp] theorem State.writeBackLine_mem (s : State) (l : L1Line) :
    (s.writeBackLine l).mem = s.mem := by simp [State.writeBackLine]
@[simp] theorem State.allocL1_mem (s : State) (l : L1Line) : (s.allocL1 l).mem = s.mem := by
  unfold State.allocL1
  dsimp only
  split
  · rfl
  · split <;> simp
@[simp] theorem State.fillL1_mem (s : State) (cache line : Nat) (stream : Bool) :
    (s.fillL1 cache line stream).mem = s.mem := by simp [State.fillL1]
@[simp] theorem State.writeBack_mem (s : State) (caches : List Nat) :
    (s.writeBack caches).mem = s.mem := by simp [State.writeBack]
@[simp] theorem State.scratchPut_mem (s : State) (id a : Nat) (b : Byte) : (s.scratchPut id a b).mem = s.mem := by
  unfold State.scratchPut
  split <;> simp
@[simp] theorem State.scratchWrite_mem (s : State) (id a : Nat) (bs : List Byte) : (s.scratchWrite id a bs).mem = s.mem := by
  induction bs generalizing s a with
  | nil => rfl
  | cons b bs ih => simp [State.scratchWrite, ih]
@[simp] theorem State.released_mem (s : State) (f : Nat) : (s.released f).mem = s.mem := rfl
@[simp] theorem State.settleOne_mem (s : State) (r : Req) : (s.settleOne r).mem = s.mem := by
  unfold State.settleOne
  repeat' split
  all_goals simp
@[simp] theorem State.settle_mem (s : State) : s.settle.mem = s.mem := by simp [State.settle]
@[simp] theorem Ctx.addFence_mem (x : Ctx) (lanes : Mask) (before : List (Nat × Mask)) (rel acq full : Bool) (sc : Nat) :
    (x.addFence lanes before rel acq full sc).1.s.mem = x.s.mem := rfl
@[simp] theorem Ctx.release_mem (x : Ctx) (lanes : Mask) (sc : Nat) : (x.release lanes sc).1.s.mem = x.s.mem := rfl
@[simp] theorem Ctx.holdOn_mem (x : Ctx) (path on : Nat) (lanes : Mask) : (x.holdOn path on lanes).s.mem = x.s.mem := rfl
@[simp] theorem Ctx.settled_mem (x : Ctx) : x.settled.s.mem = x.s.mem := by simp [Ctx.settled]

/-! ### Home -/

@[simp] theorem State.logLine_mem (s : State) (line : Nat) : (s.logLine line).mem = s.mem := rfl

/-! ### Control -/

@[simp] theorem Ctx.transfer_mem (x : Ctx) (ts : List (Nat × Nat)) : (x.transfer ts).s.mem = x.s.mem := rfl
@[simp] theorem Ctx.transferAll_mem (x : Ctx) (m : Mask) (t : Nat) : (x.transferAll m t).s.mem = x.s.mem := rfl
@[simp] theorem Ctx.parkAtEnd_mem (x : Ctx) (m : Mask) (why : Park) : (x.parkAtEnd m why).s.mem = x.s.mem := rfl

/-! ### Power -/

@[simp] theorem State.beginTurn_mem (s : State) : s.beginTurn.mem = s.mem := by
  unfold State.beginTurn
  dsimp only
  split <;> simp
@[simp] theorem State.steer_mem (s : State) : s.steer.mem = s.mem := by simp [State.steer]
@[simp] theorem State.arbitrate_mem (s : State) : s.arbitrate.mem = s.mem := by
  unfold State.arbitrate
  split
  · simp
  · split <;> simp
@[simp] theorem State.endLease_mem (s : State) (slot : Nat) : (s.endLease slot).mem = s.mem := by
  unfold State.endLease
  split <;> simp
@[simp] theorem State.treq_mem (s : State) (slot die n : Nat) : (s.treq slot die n).1.mem = s.mem := by
  unfold State.treq
  dsimp only
  repeat' split
  all_goals simp
@[simp] theorem State.modGate_mem (s : State) (d layer : Nat) (f : Gate → Gate) : (s.modGate d layer f).mem = s.mem := rfl
@[simp] theorem State.toPlumb_mem (s : State) (die : Nat) : (s.toPlumb die).mem = s.mem := by simp [State.toPlumb]
@[simp] theorem State.gateReq_mem (s : State) (d layer : Nat) (gate : Bool) : (s.gateReq d layer gate).1.mem = s.mem := by
  unfold State.gateReq
  repeat' split
  all_goals simp
@[simp] theorem State.writeLayergate_mem (s : State) (d : Nat) (v : DWord) :
    (s.writeLayergate d v).mem = s.mem := by simp [State.writeLayergate]
@[simp] theorem State.dropShort_mem (s : State) (d n : Nat) : (s.dropShort d n).mem = s.mem := rfl
@[simp] theorem State.cornerBank_mem (s : State) (d n bank : Nat) (rejoined : Bool) :
    (s.cornerBank d n bank rejoined).mem = s.mem := rfl
@[simp] theorem State.writeMlpart_mem (s : State) (d n : Nat) (v : DWord) (slot : Option Nat) :
    (s.writeMlpart d n v slot).mem = s.mem := by simp [State.writeMlpart]
@[simp] theorem State.writeMlremap_mem (s : State) (d : Nat) (v : DWord) (slot : Option Nat) :
    (s.writeMlremap d v slot).mem = s.mem := by simp [State.writeMlremap]

/-! ### Scratch -/

@[simp] theorem State.copyArrive_mem (s : State) (a x run : Nat) (wide : Bool) :
    (s.copyArrive a x run wide).mem = s.mem := by simp [State.copyArrive]
@[simp] theorem State.modRing_mem (s : State) (id m : Nat) (f : CmRing → CmRing) : (s.modRing id m f).mem = s.mem := rfl
@[simp] theorem State.ringGo_mem (s : State) (id m n : Nat) : (s.ringGo id m n).mem = s.mem := by
  induction n generalizing s with
  | zero => rfl
  | succ n ih =>
    unfold State.ringGo
    split
    · rfl
    · dsimp only
      split
      · rfl
      · split
        · split
          · rw [ih]
            split <;> simp
          · rfl
        · rw [ih]
          split <;> simp
@[simp] theorem State.ringPost_mem (s : State) (id ring : Nat) (r : CmRec) (arrive : Option (Nat × Nat × Bool)) :
    (s.ringPost id ring r arrive).mem = s.mem := by
  unfold State.ringPost
  split
  · split <;> simp
  · simp
@[simp] theorem State.writeCmHead_mem (s : State) (id m : Nat) (v : DWord) :
    (s.writeCmHead id m v).mem = s.mem := by simp [State.writeCmHead]
@[simp] theorem State.writeCmCfg_mem (s : State) (id m : Nat) (v : DWord) :
    (s.writeCmCfg id m v).mem = s.mem := by simp [State.writeCmCfg]

/-! ### Section -/

@[simp] theorem State.answer_mem (s : State) (die wave op : Nat) (m : Mask) (ds : List (Nat × Dst)) :
    (s.answer die wave op m ds).mem = s.mem := by
  unfold State.answer
  split <;> simp
@[simp] theorem State.keyAlloc_mem (s : State) (run : Nat) (key : DWord) : (s.keyAlloc run key).mem = s.mem := by
  unfold State.keyAlloc
  split <;> rfl
@[simp] theorem State.keyGrant_mem (s : State) (run : Nat) (key : DWord) : (s.keyGrant run key).mem = s.mem := by
  unfold State.keyGrant
  repeat' split
  all_goals simp
@[simp] theorem State.keyFree_mem (s : State) (run : Nat) (key : DWord) : (s.keyFree run key).mem = s.mem := rfl
@[simp] theorem State.keyRequest_mem (s : State) (run : Nat) (op : OrdOp) (wave lane : Nat) (key : DWord) (seq : Word)
    (reg o : Nat) :
    (s.keyRequest run op wave lane key seq reg o).mem = s.mem := by
  unfold State.keyRequest
  dsimp only
  repeat' split
  all_goals simp
@[simp] theorem State.keyAbandon_mem (s : State) (run : Nat) (key : DWord) :
    (s.keyAbandon run key).mem = s.mem := by simp [State.keyAbandon]
@[simp] theorem State.withdraw_mem (s : State) (w : Wave) (m : Mask) : (s.withdraw w m).mem = s.mem :=
  State.foldl_mem (fun _ _ => State.keyFree_mem _ _ _) _ _

/-! ### Sregs -/

@[simp] theorem State.ssetEvent_mem (s : State) (id n : Nat) (v : DWord) : (s.ssetEvent id n v).mem = s.mem := by
  unfold State.ssetEvent
  split <;> simp

/-! ### LaneMem -/

@[simp] theorem Ctx.sendPart_mem (x : Ctx) (op : Nat) (lanes : Mask) (m : MemReq) : (x.sendPart op lanes m).s.mem = x.s.mem := by
  unfold Ctx.sendPart
  dsimp only
  repeat' split
  all_goals simp
@[simp] theorem Ctx.sendMem_mem (x : Ctx) (m : Mask) (items : List Item) (faults : List LaneFault) (kind : AccKind)
    (b : BufRec) (sc : Nat) (dst : LoadDst) (regs : List Nat) (scalar : Bool) (lanes : Mask) :
    (x.sendMem m items faults kind b sc dst regs scalar lanes).s.mem = x.s.mem := by simp [Ctx.sendMem]
@[simp] theorem Ctx.lateAll_mem (x : Ctx) (m : Mask) (cls code addr : Nat) (service : Bool) :
    (x.lateAll m cls code addr service).s.mem = x.s.mem := rfl

/-! ### Sync -/

@[simp] theorem Ctx.sendOrd_mem (x : Ctx) (lanes : List Nat) (op : OrdOp) (t k : VR) (regs : List Nat)
    (extra : Nat → List (Nat × Mask)) (hold : Bool) :
    (x.sendOrd lanes op t k regs extra hold).s.mem = x.s.mem := by
  unfold Ctx.sendOrd
  split
  · rfl
  · have hs : ∀ y : Ctx, (lanes.foldl (fun (y : Ctx) l =>
        (y.addReq (oneLane l) pathL true true true
          (some (x.newOp (maskOf lanes) (.request 0) [] regs).2) (extra l)
          (.order op l (x.vpair l k.toNat) (x.vr l t) t.toNat)).1) y).s.mem = y.s.mem :=
      Ctx.foldl_mem (fun _ _ => Ctx.addReq_mem ..) _
    dsimp only
    rw [Ctx.settled_mem]
    split
    · rw [Ctx.foldl_mem (by intros; rfl), hs]
      rfl
    · rw [hs]
      rfl
@[simp] theorem Ctx.sendBar_mem (x : Ctx) (m : Mask) (ashlar : Nat) (n : BX) (op : BarOp) (o : Option Nat)
    (extra : List (Nat × Mask)) :
    (x.sendBar m ashlar n op o extra).s.mem = x.s.mem := by simp [Ctx.sendBar]

/-! ### Engine -/

@[simp] theorem Ctx.sendMat_mem (x : Ctx) (m : Mask) (c : MatCmd) : (x.sendMat m c).s.mem = x.s.mem := rfl

/-! ### Record -/

@[simp] theorem Ctx.sendRecs_mem (x : Ctx) (lanes : Mask) (e : Nat) (recs : List (QRec × List Nat)) :
    (x.sendRecs lanes e recs).s.mem = x.s.mem := by simp [Ctx.sendRecs]

/-! ### Place -/

@[simp] theorem State.takeOn_mem (s : State) (w : Wave) (granule shared : Nat) : (s.takeOn w granule shared).mem = s.mem := rfl
@[simp] theorem State.makeResident_mem (s : State) (a run n : Nat) (nd : Node) (base : Nat) (ready : Bool) :
    (s.makeResident a run n nd base ready).mem = s.mem := rfl
@[simp] theorem State.closeGroup_mem (s : State) (w : Wave) (lane : Nat) : (s.closeGroup w lane).mem = s.mem := by
  unfold State.closeGroup
  split <;> rfl
@[simp] theorem State.closeGroups_mem (s : State) (w : Wave) (m : Mask) :
    (s.closeGroups w m).mem = s.mem := by simp [State.closeGroups]
/-- A lane filed in a bin: the state it answers, where there is room. -/
theorem State.fileLane_mem (s : State) (id lane pc : Nat) (t : State) (h : s.fileLane id lane pc = some t) : t.mem = s.mem := by
  unfold State.fileLane at h
  split at h
  · cases h
  · split at h
    · cases h
    · dsimp only at h
      split at h
      · cases h
      · cases h
        simp
@[simp] theorem State.fileLanes_mem (s : State) (id : Nat) : (s.fileLanes id).mem = s.mem := by
  unfold State.fileLanes
  split
  · rfl
  · dsimp only
    split
    · rfl
    · refine foldl_fst_mem (fun acc l => ?_) _ _
      split
      · rfl
      · split
        · split
          · next h => exact State.fileLane_mem _ _ _ _ _ h
          · rfl
        · rfl

/-! ### Clause -/

@[simp] theorem State.checkDrain_mem (s : State) (id : Nat) : (s.checkDrain id).mem = s.mem := by
  unfold State.checkDrain
  split <;> simp
@[simp] theorem State.takeLate_mem (s : State) (id : Nat) : (s.takeLate id).mem = s.mem := by
  unfold State.takeLate
  split <;> simp
@[simp] theorem State.boundary_mem (s : State) (id : Nat) : (s.boundary id).mem = s.mem := by simp [State.boundary]
@[simp] theorem Ctx.catchUp_mem (x : Ctx) : x.catchUp.s.mem = x.s.mem := rfl
@[simp] theorem Ctx.countWord_mem (x : Ctx) : x.countWord.mem = x.s.mem := by simp [Ctx.countWord]
@[simp] theorem Ctx.load_mem (x : Ctx) (w : Word) : (x.load w).s.mem = x.s.mem := by simp [Ctx.load]
@[simp] theorem State.headFault_mem (s : State) (w : Wave) (g : Sub) (f : FaultRec) :
    (s.headFault w g f).mem = s.mem := by simp [State.headFault]
@[simp] theorem State.focus_mem (s : State) (id : Nat) : (s.focus id).mem = s.mem := by
  unfold State.focus
  split <;> rfl

/-! ### Trap -/

@[simp] theorem State.deliver_mem (s : State) (w : Wave) (n : Nat) : (s.deliver w n).mem = s.mem :=
  (State.modWave_mem _ _ _).trans (State.scratchWrite_mem _ _ _ _)

/-! ### MemEvents -/

@[simp] theorem State.poke_mem (s : State) (id : Nat) : (s.poke id).mem = s.mem := by simp [State.poke]
@[simp] theorem State.lateLanes_mem (s : State) (r : Req) (m : Mask) (cls code : Nat) (service : Bool) (addr : Nat → Nat) :
    (s.lateLanes r m cls code service addr).mem = s.mem := by
  unfold State.lateLanes
  split
  · split <;> simp
  · rfl
@[simp] theorem State.endMem_mem (s : State) (id : Nat) : (s.endMem id).mem = s.mem := by
  unfold State.endMem
  repeat' split
  all_goals simp
@[simp] theorem State.itemDone_mem (s : State) (id lane off : Nat) (bs : List Byte) :
    (s.itemDone id lane off bs).mem = s.mem := by
  unfold State.itemDone
  dsimp only
  repeat' split
  all_goals simp
@[simp] theorem State.itemsFault_mem (s : State) (r : Req) (m : MemReq) (lanes : Mask) (cls code : Nat) (service : Bool) :
    (s.itemsFault r m lanes cls code service).mem = s.mem := by simp [State.itemsFault]
@[simp] theorem State.spaceWrite_mem (s : State) (w : Wave) (space a : Nat) (bs : List Byte) :
    (s.spaceWrite w space a bs).mem = s.mem := by
  unfold State.spaceWrite
  split
  · simp
  · split
    · exact State.foldl_mem (by intros; rfl) _ _
    · rfl
@[simp] theorem State.marked_mem (s : State) (k : LineKind) (line : Nat) (mark : Bool) (ashlar : Nat) :
    (s.marked k line mark ashlar).mem = s.mem := by simp [State.marked]
@[simp] theorem State.windowPacket_mem (s : State) (r : Req) (die va : Nat) (write : Bool) :
    (s.windowPacket r die va write).mem = s.mem := by simp [State.windowPacket]
@[simp] theorem State.arm_mem (s : State) (id : Nat) (x : Watch) (v : DWord) : (s.arm id x v).mem = s.mem := by
  unfold State.arm
  dsimp only
  repeat' split
  all_goals simp
@[simp] theorem State.cancelWatches_mem (s : State) (r : Req) (space addr : Nat) :
    (s.cancelWatches r space addr).mem = s.mem := rfl
@[simp] theorem State.directItem_mem (s : State) (r : Req) (m : MemReq) (it : Item) : (s.directItem r m it).mem = s.mem := by
  unfold State.directItem
  repeat' split
  all_goals simp
@[simp] theorem State.shortWrite_mem (s : State) (line bank : Nat) (ps : List (Nat × List Byte)) :
    (s.shortWrite line bank ps).mem = s.mem := rfl
@[simp] theorem State.modPacket_mem (s : State) (id : Nat) (f : Packet → Packet) : (s.modPacket id f).mem = s.mem := rfl
@[simp] theorem State.setStage_mem (s : State) (id : Nat) (g : Stage) : (s.setStage id g).mem = s.mem := rfl
@[simp] theorem State.performed_mem (s : State) (id : Nat) (bytes : Piece → List Byte) : (s.performed id bytes).mem = s.mem := rfl
@[simp] theorem State.piecesDone_mem (s : State) (p : Packet) (bytes : Piece → List Byte) :
    (s.piecesDone p bytes).mem = s.mem := by
  unfold State.piecesDone
  split <;> simp
@[simp] theorem State.packetFault_mem (s : State) (p : Packet) (cls code : Nat) : (s.packetFault p cls code).mem = s.mem := by
  unfold State.packetFault
  split
  · split <;> simp
  · rfl
@[simp] theorem State.homeWays_mem (s : State) (p : Packet) : (s.homeWays p).mem = s.mem := by simp [State.homeWays]
@[simp] theorem State.outdate_mem (s : State) (p : Packet) : (s.outdate p).mem = s.mem := rfl
@[simp] theorem State.wholeWrite_mem (s : State) (p : Packet) : (s.wholeWrite p).mem = s.mem := by simp [State.wholeWrite]
@[simp] theorem State.shortPacket_mem (s : State) (r : Req) (p : Packet) : (s.shortPacket r p).mem = s.mem := by
  have marked_if : ∀ (t : State) (c : Prop) [Decidable c] (k : LineKind) (l : Nat) (b : Bool) (a : Nat),
      (if c then t.marked k l b a else t).mem = t.mem := fun t c _ k l b a => by split <;> simp
  unfold State.shortPacket
  dsimp only
  split
  · simp
  · split
    · simp
    · split <;> simp
  · split
    · simp
    · rw [State.performed_mem]
      split
      · refine (marked_if _ _ _ _ _ _).trans (foldl_fst_mem (fun acc q => ?_) _ _)
        split <;> rfl
      · refine foldl_fst_mem (fun acc q => ?_) _ _
        split <;> rfl
@[simp] theorem State.storeLeft_mem (s : State) (id : Nat) : (s.storeLeft id).mem = s.mem := by
  unfold State.storeLeft
  split
  · split <;> simp
  · rfl
@[simp] theorem State.lineAccess_mem (s : State) (r : Req) (m : MemReq) (va : Nat) (ps : List Piece) :
    (s.lineAccess r m va ps).mem = s.mem := by
  unfold State.lineAccess
  dsimp only
  repeat' split
  all_goals simp

/-! ### Waves -/

@[simp] theorem State.barAcquire_mem (s : State) (a x : Nat) (token : BitVec 16) :
    (s.barAcquire a x token).mem = s.mem := by simp [State.barAcquire]
@[simp] theorem State.refillFifo_mem (s : State) (a : Nat) : (s.refillFifo a).mem = s.mem :=
  State.foldl_mem (by intros; rfl) _ _
@[simp] theorem State.poll_mem (s : State) (w : Wave) (o : Op) : (s.poll w o).mem = s.mem := by
  unfold State.poll
  repeat' split
  all_goals simp
@[simp] theorem State.arriveAcquire_mem (s : State) (w : Wave) (o : Op) (m : Mask) : (s.arriveAcquire w o m).mem = s.mem := by
  unfold State.arriveAcquire
  split <;> simp
@[simp] theorem State.startRestore_mem (s : State) (w : Wave) (a granule : Nat) : (s.startRestore w a granule).mem = s.mem := rfl
@[simp] theorem State.endRestore_mem (s : State) (w : Wave) : (s.endRestore w).mem = s.mem := by simp [State.endRestore]
@[simp] theorem State.moveAshlar_mem (s : State) (a b : Nat) : (s.moveAshlar a b).mem = s.mem := rfl
@[simp] theorem State.refile_mem (s : State) (a : Nat) : (s.refile a).mem = s.mem := by simp [State.refile]
@[simp] theorem State.prologueDone_mem (s : State) (a run n : Nat) : (s.prologueDone a run n).mem = s.mem := rfl
@[simp] theorem State.retire_mem (s : State) (w : Wave) : (s.retire w).mem = s.mem := by
  unfold State.retire
  split <;> simp
@[simp] theorem State.stopStream_mem (s : State) (w : Wave) (t : Stream) :
    (s.stopStream w t).mem = s.mem := by simp [State.stopStream]
@[simp] theorem State.releaseNode_mem (s : State) (a run n : Nat) : (s.releaseNode a run n).mem = s.mem := rfl
@[simp] theorem State.releaseBeyond_mem (s : State) (a limit : Nat) : (s.releaseBeyond a limit).mem = s.mem :=
  State.foldl_mem (by intros; rfl) _ _

/-! ### Launch -/

@[simp] theorem State.feedRoot_mem (s : State) (r : Run) (l : Launch) (chosen : Nat) (e : Root) :
    (s.feedRoot r l chosen e).mem = s.mem := by simp [State.feedRoot]
@[simp] theorem State.checkFed_mem (s : State) (run : Nat) : (s.checkFed run).mem = s.mem := by simp [State.checkFed]
@[simp] theorem State.bind_mem (s : State) (n : Nat) (j : JobRec) : (s.bind n j).mem = s.mem := rfl
@[simp] theorem State.passRecord_mem (s : State) : s.passRecord.mem = s.mem := by simp [State.passRecord]

/-! ### Schedule -/

@[simp] theorem State.giveUp_mem (s : State) (q : Want) (a : Nat) : (s.giveUp q a).mem = s.mem := by
  unfold State.giveUp
  dsimp only
  repeat' split
  all_goals simp
theorem State.spot_mem {s : State} {d : Nat} {c : Cand} {p : Nat × State} (h : s.spot d c = some p) : p.2.mem = s.mem := by
  unfold State.spot at h
  dsimp only at h
  split at h
  · cases h
    rfl
  · obtain ⟨a, -, rfl⟩ := Option.map_eq_some_iff.1 h
    simp
@[simp] theorem State.chargeWin_mem (s : State) (winner : Nat) (contenders : List Nat) :
    (s.chargeWin winner contenders).mem = s.mem := rfl
@[simp] theorem State.chargeOther_mem (s : State) (slot : Nat) (cs : List Cand) : (s.chargeOther slot cs).mem = s.mem := rfl
@[simp] theorem State.placedFor_mem (s : State) (d : Nat) (c : Cand) : (s.placedFor d c).mem = s.mem := rfl
@[simp] theorem State.enter_mem (s : State) (w : Wave) (granule shared : Nat) :
    (s.enter w granule shared).mem = s.mem := by simp [State.enter]
@[simp] theorem State.startPrologue_mem (s : State) (w : Wave) (nd : Node) (k b : List DWord) (shared : Nat) :
    (s.startPrologue w nd k b shared).mem = s.mem := by simp [State.startPrologue]
@[simp] theorem State.makeRoom_mem (s : State) (a run n : Nat) (nd : Node) (wave : Option Wave) :
    (s.makeRoom a run n nd wave).2.2.2.mem = s.mem := by
  unfold State.makeRoom
  split <;> rfl
@[simp] theorem State.settleIn_mem (s : State) (a : Nat) (nd : Node) (w : Wave) :
    (s.settleIn a nd w).mem = s.mem := by simp [State.settleIn]
@[simp] theorem State.reserveFor_mem (s : State) (d : Nat) (c : Cand) : (s.reserveFor d c).mem = s.mem := by
  unfold State.reserveFor
  dsimp only
  split
  · rfl
  · split <;> simp
@[simp] theorem State.markSplit_mem (s : State) (d : Nat) (c : Cand) : (s.markSplit d c).mem = s.mem := by
  unfold State.markSplit
  dsimp only
  split
  · rfl
  · split <;> simp
@[simp] theorem State.noteInsts_mem (s : State) (d : Nat) : (s.noteInsts d).mem = s.mem := rfl
@[simp] theorem State.noteEligible_mem (s : State) (d : Nat) (cs : List Cand) : (s.noteEligible d cs).mem = s.mem := rfl
@[simp] theorem State.clearReserved_mem (s : State) (d : Nat) : (s.clearReserved d).mem = s.mem := by
  refine State.foldl_mem (fun s a => ?_) _ _
  split
  · split
    · rfl
    · exact State.foldl_mem (by intros; rfl) _ _
  · rfl
@[simp] theorem State.rollWindow_mem (s : State) : s.rollWindow.mem = s.mem := by simp [State.rollWindow]

/-! ### Engines -/

@[simp] theorem State.cancelMat_mem (s : State) (r : Req) : (s.cancelMat r).mem = s.mem := by
  unfold State.cancelMat
  split
  · split <;> simp
  · rfl
@[simp] theorem State.sweepMat_mem (s : State) (a : Nat) : (s.sweepMat a).mem = s.mem := by simp [State.sweepMat]
@[simp] theorem State.issueRow_mem (s : State) (a : Nat) : (s.issueRow a).mem = s.mem := by
  unfold State.issueRow
  dsimp only
  split
  · rfl
  · split <;> simp
@[simp] theorem State.pipe_mem (s : State) (a n : Nat) : (s.pipe a n).mem = s.mem := by
  induction n generalizing s with
  | zero => rfl
  | succ n ih =>
    unfold State.pipe
    dsimp only
    split
    · rfl
    · split <;> simp [ih]
@[simp] theorem State.pipeAll_mem (s : State) (cycles : Nat → Nat) : (s.pipeAll cycles).mem = s.mem := by simp [State.pipeAll]
theorem State.putRow_mem (s : State) (w : Wave) (b : MatBlock) (m : Nat) (row : List Nat) (t : State)
    (h : s.putRow w b m row = some t) :
    t.mem = s.mem := by
  unfold State.putRow at h
  split at h
  · split at h
    · cases h
      rfl
    · split at h
      · cases h
      · cases h
        rfl
  · cases h
    simp
@[simp] theorem State.copyLine_mem (s : State) (r : Req) (c : Copy) (va : Nat) (write : Bool) :
    (s.copyLine r c va write).mem = s.mem := by simp [State.copyLine]
@[simp] theorem State.copyLoad_mem (s : State) (r : Req) (c : Copy) (va n : Nat) :
    (s.copyLoad r c va n).1.mem = s.mem := by simp [State.copyLoad]
@[simp] theorem State.copyWhole_mem (s : State) (r : Req) (c : Copy) (va n : Nat) : (s.copyWhole r c va n).1.mem = s.mem := by
  refine foldl_fst_mem (fun acc p => ?_) _ _
  dsimp only
  split <;> rfl

/-! ### Links -/

@[simp] theorem State.linkLost_mem (s : State) : s.linkLost.mem = s.mem := by simp [State.linkLost]
@[simp] theorem State.removeGroup_mem (s : State) (g : Nat) : (s.removeGroup g).mem = s.mem := by simp [State.removeGroup]
@[simp] theorem State.crossed_mem (s : State) (id : Nat) : (s.crossed id).mem = s.mem := by
  unfold State.crossed
  repeat' split
  all_goals simp

/-! ### Dies -/

@[simp] theorem State.rehome_mem (s : State) (r : Req) : (s.rehome r).mem = s.mem := by
  unfold State.rehome
  split
  · dsimp only
    split
    · cases (Packet.parent _) <;> simp
    · rfl
  · rfl
@[simp] theorem State.moveLines_mem (s : State) (n : Nat) : (s.moveLines n).mem = s.mem := by simp [State.moveLines]
@[simp] theorem State.evictWindow_mem (s : State) (n : Nat) : (s.evictWindow n).mem = s.mem := rfl
@[simp] theorem State.dropWays_mem (s : State) (d n : Nat) : (s.dropWays d n).mem = s.mem := by simp [State.dropWays]
@[simp] theorem State.modHealth_mem (s : State) (d n b : Nat) (f : BankHealth → BankHealth) :
    (s.modHealth d n b f).mem = s.mem := rfl
@[simp] theorem State.fixLine_mem (s : State) (at_ : Option (Nat × Nat × Nat)) : (s.fixLine at_).mem = s.mem := by
  unfold State.fixLine
  split <;> rfl
@[simp] theorem State.breakLine_mem (s : State) (line : Nat) : (s.breakLine line).mem = s.mem := by
  unfold State.breakLine
  split <;> rfl

/-! ### LinkPower -/

@[simp] theorem State.vfReq_mem (s : State) (course point : Nat) : (s.vfReq course point).1.mem = s.mem := by
  unfold State.vfReq
  split <;> rfl

/-! ### PlumbEvents -/

@[simp] theorem State.tickPoint_mem (s : State) (c : Nat) : (s.tickPoint c).mem = s.mem := by
  unfold State.tickPoint
  dsimp only
  repeat' split
  all_goals simp
@[simp] theorem State.tickBudget_mem (s : State) (c : Nat) : (s.tickBudget c).mem = s.mem := rfl
@[simp] theorem State.bootEnds_mem (s : State) (code : Nat) : (s.bootEnds code).mem = s.mem := rfl
@[simp] theorem State.mailAnswer_mem (s : State) (result : Nat) : (s.mailAnswer result).mem = s.mem := rfl

/-! ### HostEvents -/

@[simp] theorem State.modHost_mem (s : State) (f : HostRegs → HostRegs) : (s.modHost f).mem = s.mem := rfl
@[simp] theorem State.writeMailbox_mem (s : State) (off : Nat) (v : DWord) (management : Bool) :
    (s.writeMailbox off v management).mem = s.mem := by simp [State.writeMailbox]
@[simp] theorem State.pmcClear_mem (s : State) (a n : Nat) : (s.pmcClear a n).mem = s.mem := by simp [State.pmcClear]

/-! ### Raster -/

/-- Slots reserved on an edge by a unit change its run alone. -/
theorem State.unitReserve_mem {s : State} {r : Run} {n : Node} {e d : Nat} {own : Bool} {p : State × Resv}
    (h : s.unitReserve r n e d own = some p) :
    p.1.mem = s.mem := by
  unfold State.unitReserve at h
  split at h
  · cases h
    rfl
  · cases h
theorem State.reserveEdges_mem {s : State} {r : Run} {n : Node} {d : Nat} {own : Bool} {p : State × List Resv}
    (h : s.reserveEdges r n d own = some p) :
    p.1.mem = s.mem := by
  have inv : ∀ q ∈ s.reserveEdges r n d own, q.1.mem = s.mem := by
    refine List.foldlRecOn (motive := fun o : Option (State × List Resv) => ∀ q ∈ o, q.1.mem = s.mem) n.used _ ?_ fun o ih e _ => ?_
    · rintro _ ⟨⟩
      rfl
    · split
      · exact ih
      · split
        · next hr =>
          obtain ⟨r', -, hr'⟩ := Option.bind_eq_some_iff.1 hr
          rintro _ ⟨⟩
          exact (State.unitReserve_mem hr').trans (ih _ rfl)
        · rintro _ ⟨⟩
  exact inv p h
@[simp] theorem State.unitAppend_mem (s : State) (r : Run) (n : Node) (e d : Nat) (q : QRec) :
    (s.unitAppend r n e d q).mem = s.mem := rfl
@[simp] theorem State.emitTiles_mem (s : State) (run node n : Nat) : (s.emitTiles run node n).mem = s.mem := by
  induction n generalizing s with
  | zero => rfl
  | succ n ih =>
    unfold State.emitTiles
    split
    · rfl
    · split
      · split
        · rfl
        · dsimp only
          split
          · simp [ih]
          · split
            · next h => simpa [ih] using State.unitReserve_mem h
            · rfl
      · rfl
@[simp] theorem State.modTile_mem (s : State) (c k : Nat) (f : Tile → Tile) : (s.modTile c k f).mem = s.mem := rfl
@[simp] theorem State.emitTile_mem (s : State) (n : Node) (c k m : Nat) : (s.emitTile n c k m).mem = s.mem := by
  induction m generalizing s with
  | zero => rfl
  | succ m ih =>
    unfold State.emitTile
    dsimp only
    split
    · split
      · simp [ih]
      · split
        · next h => simpa [ih] using State.unitReserve_mem h
        · rfl
    · simp
    · rfl

/-! ### Fixed -/

@[simp] theorem State.batchResult_mem (s : State) (r : Run) (n : Node) (b : Batch) (e : Nat) (bytes : List Byte) :
    (s.batchResult r n b e bytes).1.mem = s.mem := by
  unfold State.batchResult
  split <;> rfl
@[simp] theorem State.batchEnd_mem (s : State) (n : Node) (b : Batch) : (s.batchEnd n b).mem = s.mem := rfl

/-! ### Inputs -/

@[simp] theorem State.logError_mem (s : State) (die source row : Nat) : (s.logError die source row).mem = s.mem := rfl
@[simp] theorem State.sliceTemp_mem (s : State) (n : Nat) (t : Int) : (s.sliceTemp n t).mem = s.mem := by simp [State.sliceTemp]
@[simp] theorem State.evictLine_mem (s : State) (cache line : Nat) : (s.evictLine cache line).mem = s.mem := by
  unfold State.evictLine
  split <;> simp
@[simp] theorem State.registerError_mem (s : State) (id lane row : Nat) : (s.registerError id lane row).mem = s.mem := by
  unfold State.registerError
  split <;> simp

/-! ### Agenda -/

@[simp] theorem State.tick_mem (s : State) (dt : Nat) : (s.tick dt).mem = s.mem := by simp [State.tick]

/-! ### HostReads -/

@[simp] theorem State.hostReads_mem (s : State) (off : Nat) : (s.hostReads off).mem = s.mem := rfl
@[simp] theorem State.vfReads_mem (s : State) (n off : Nat) : (s.vfReads n off).mem = s.mem := by simp [State.vfReads]

end Sys2Proof.Machine
end

section
/-! PROOFS. The operations that may write memory, and the events: each keeps its canonical form. -/

namespace Sys2Proof.Machine

/-! ### Outcomes, branches and folds -/

/-- An outcome keeps the form: the next state's memory has it, where there is a next state. -/
def Keeps (o : Out) : Prop := ∀ t, o = .next t → t.mem.wf = true

@[simp] theorem keeps_next (t : State) : Keeps (.next t) ↔ t.mem.wf = true :=
  ⟨fun h => h t rfl, fun h _ ht => Host.Outcome.next.inj ht ▸ h⟩

@[simp] theorem keeps_refused (r : Refusal) : Keeps (.refused r) := fun _ ht => nomatch ht

@[simp] theorem keeps_ite (c : Prop) [Decidable c] (a b : Out) : Keeps (if c then a else b) ↔ if c then Keeps a else Keeps b := by
  split <;> rfl

@[simp] theorem Mem.wf_ite (c : Prop) [Decidable c] (m n : Mem) : (if c then m else n).wf = if c then m.wf else n.wf :=
  apply_ite Mem.wf c m n

/-- A state with the memory of one in the form is in the form. -/
theorem wf_of_mem_eq {s t : State} (e : t.mem = s.mem) (h : s.mem.wf = true) : t.mem.wf = true := by rw [e, h]

/-- The state of a pair that an operation answers. -/
theorem fst_memOk {β : Type} {p : State × β} {t : State} {b : β} (e : p = (t, b)) (h : p.1.mem.wf = true) : t.mem.wf = true := by
  subst e
  exact h

/-- A fold whose every step keeps the form keeps it. -/
theorem State.foldl_memOk {α : Type} {g : State → α → State} (hg : ∀ s a, s.mem.wf = true → (g s a).mem.wf = true) (l : List α)
    {s : State} (h : s.mem.wf = true) : (l.foldl g s).mem.wf = true := by
  induction l generalizing s with
  | nil => exact h
  | cons a l ih => exact ih (hg s a h)

theorem foldl_fst_memOk {α β : Type} {g : State × β → α → State × β} (hg : ∀ x a, x.1.mem.wf = true → (g x a).1.mem.wf = true)
    (l : List α) {x : State × β} (h : x.1.mem.wf = true) : (l.foldl g x).1.mem.wf = true := by
  induction l generalizing x with
  | nil => exact h
  | cons a l ih => exact ih (hg x a h)

section
variable {s : State} (h : s.mem.wf = true)
include h

/-! ### Xlate -/

@[simp] theorem State.touch_memOk (ashlar slot va : Nat) (write : Bool) : (s.touch ashlar slot va write).mem.wf = true := by
  unfold State.touch
  dsimp only
  split <;> simp [h, homeWrite_memOk]
@[simp] theorem State.touchRange_memOk (ashlar slot va n : Nat) (write : Bool) :
    (s.touchRange ashlar slot va n write).mem.wf = true := by
  unfold State.touchRange
  exact State.foldl_memOk (fun t a ht => by simp [ht]) _ h
@[simp] theorem State.unitLine_memOk (src ashlar slot va : Nat) (write : Bool) :
    (s.unitLine src ashlar slot va write).mem.wf = true := by simp [State.unitLine, h]
@[simp] theorem State.unitTouch_memOk (src ashlar slot va n : Nat) (write : Bool) :
    (s.unitTouch src ashlar slot va n write).mem.wf = true := by
  unfold State.unitTouch
  exact State.foldl_memOk (fun t a ht => by simp [ht]) _ h

/-! ### Home -/

@[simp] theorem State.writeVa_memOk (src ashlar slot va : Nat) (bs : List Byte) (strong : Bool) :
    (s.writeVa src ashlar slot va bs strong).mem.wf = true := by
  unfold State.writeVa
  exact State.foldl_memOk (fun t p ht => homeWrite_memOk (by simp [ht])) _ h
@[simp] theorem State.postTo_memOk (slot : Nat) (desc : Option (List Byte)) (record : List Byte) :
    (s.postTo slot desc record).1.mem.wf = true := by
  unfold State.postTo
  dsimp only
  repeat' split
  all_goals simp [h]
@[simp] theorem State.post_memOk (slot desc : Nat) (record : List Byte) : (s.post slot desc record).1.mem.wf = true := by
  unfold State.post
  split <;> simp [h]
@[simp] theorem State.postErr_memOk (r : ErrRec) : (s.postErr r).mem.wf = true := by simp [State.postErr, h]

/-! ### Control -/

omit h in
@[simp] theorem Ctx.readTarget_memOk {x : Ctx} (h : x.s.mem.wf = true) (target : Nat) :
    (x.readTarget target).s.mem.wf = true := by simp [Ctx.readTarget, h]

/-! ### Power -/

@[simp] theorem State.scratchLost_memOk (d : Nat) (but : Option Nat) : (s.scratchLost d but).mem.wf = true := by
  unfold State.scratchLost
  exact State.foldl_memOk (fun t a ht => by simp [ht]) _ h
@[simp] theorem State.rebuildWindow_memOk (d : Nat) (by_ : Option Nat) :
    (s.rebuildWindow d by_).mem.wf = true := by simp [State.rebuildWindow, h]

/-! ### Scratch -/

@[simp] theorem State.completeReduction_memOk (r : Reduction) (short : Bool) : (s.completeReduction r short).mem.wf = true := by
  simp [State.completeReduction, h, homeWrite_memOk]

/-! ### Section -/

@[simp] theorem State.abandonAll_memOk (id : Nat) (m exits : Mask) : (s.abandonAll id m exits).mem.wf = true := by
  unfold State.abandonAll
  split
  · exact h
  · exact State.foldl_memOk (fun t x ht => by simp [ht]) _ (by simp [h])
@[simp] theorem State.killLanes_memOk (id : Nat) (m : Mask) : (s.killLanes id m).mem.wf = true := by simp [State.killLanes, h]

/-! ### Sched -/

/-- The reductions a cancel ends write their values and records (R225); nothing else of it reaches memory. -/
@[simp] theorem State.cancelRun_memOk (run : Nat) (st : Status) (node : Nat) : (s.cancelRun run st node).mem.wf = true := by
  unfold State.cancelRun
  split
  · exact h
  · split
    · exact h
    · exact State.foldl_memOk (fun t x ht => State.completeReduction_memOk ht ..) _ h
@[simp] theorem State.askCancel_memOk (run : Nat) : (s.askCancel run).mem.wf = true := by
  unfold State.askCancel
  split <;> simp [h]
@[simp] theorem State.abortRun_memOk (run code node addr : Nat) : (s.abortRun run code node addr).mem.wf = true := by
  unfold State.abortRun
  split <;> simp [h]
@[simp] theorem State.controlError_memOk (run code ashlar node : Nat) : (s.controlError run code ashlar node).mem.wf = true := by
  unfold State.controlError
  split <;> simp [h]

/-! ### Place -/

@[simp] theorem State.touchTables_memOk (d slot : Nat) (n : Node) :
    (s.touchTables d slot n).mem.wf = true := by simp [State.touchTables, h]

/-! ### Clause -/

omit h in
@[simp] theorem Ctx.endClause_memOk {x : Ctx} (h : x.s.mem.wf = true) : x.endClause.mem.wf = true := by simp [Ctx.endClause, h]
omit h in
@[simp] theorem Ctx.advance_memOk {x : Ctx} (h : x.s.mem.wf = true) : x.advance.mem.wf = true := by simp [Ctx.advance, h]
@[simp] theorem State.fetched_memOk (w : Wave) (g : Sub) (raw : Word) :
    (s.fetched w g raw).mem.wf = true := by simp [State.fetched, h]
@[simp] theorem State.fetchFault_memOk (w : Wave) (g : Sub) (cls code addr : Nat) :
    (s.fetchFault w g cls code addr).mem.wf = true := by simp [State.fetchFault, h]
@[simp] theorem State.clauseFault_memOk (w : Wave) (g : Sub) (index : Nat) (raw word0 : Word) :
    (s.clauseFault w g index raw word0).mem.wf = true := by simp [State.clauseFault, h]
@[simp] theorem State.enterClause_memOk (w : Wave) (g : Sub) (raw : Word) :
    (s.enterClause w g raw).mem.wf = true := by simp [State.enterClause, h]
@[simp] theorem State.beginClause_memOk (w : Wave) (g : Sub) (raw : Word) : (s.beginClause w g raw).mem.wf = true := by
  unfold State.beginClause
  split <;> simp [h]
theorem execClauseHeader_keeps (n : BX) (e : PR) (w : SR) (s1 v : PR) (r : BitVec 2) (f y d : BitVec 1) :
    Keeps (execClauseHeader n e w s1 v r f y d s) := by
  unfold execClauseHeader
  split
  · next x hx => simp [ctx_state hx, h]
  · split
    · simp
    · split
      · simp [h]
      · split <;> simp [h]
@[simp] theorem State.fetchInstr_memOk (id : Nat) : (s.fetchInstr id).1.mem.wf = true := by
  unfold State.fetchInstr
  dsimp only
  repeat' split
  all_goals simp [h]
@[simp] theorem State.finishInstr_memOk (id : Nat) (began : Bool) : (s.finishInstr id began).mem.wf = true := by
  unfold State.finishInstr
  repeat' split
  all_goals simp [h]

/-! ### Trap -/

@[simp] theorem State.endByFault_memOk (w : Wave) (n : Nat) : (s.endByFault w n).mem.wf = true := by
  unfold State.endByFault
  split <;> simp [h]
@[simp] theorem State.beginService_memOk (id : Nat) : (s.beginService id).mem.wf = true := by
  unfold State.beginService
  split <;> simp [h]
@[simp] theorem State.sendService_memOk (w : Wave) (n : Nat) : (s.sendService w n).mem.wf = true := by simp [State.sendService, h]
@[simp] theorem State.routeFault_memOk (id : Nat) : (s.routeFault id).mem.wf = true := by
  unfold State.routeFault
  split
  · simp [h]
  · split <;> simp [h]
theorem execFaultRouting_keeps : Keeps (execFaultRouting s) := by simp [execFaultRouting, h]
theorem execFsvcreplyResume_keeps : Keeps (execFsvcreplyResume s) := by
  unfold execFsvcreplyResume
  split <;> simp [h]
theorem execFsvcreplyKill_keeps : Keeps (execFsvcreplyKill s) := by
  unfold execFsvcreplyKill
  split <;> simp [h]
theorem execLaneKill_keeps : Keeps (execLaneKill s) := by
  unfold execLaneKill
  dsimp only
  split <;> simp [h]
theorem execSleepEnd_keeps : Keeps (execSleepEnd s) := by simp [execSleepEnd, h]
theorem execWatchdog_keeps : Keeps (execWatchdog s) := by
  unfold execWatchdog
  dsimp only
  split <;> simp [h]

/-! ### MemEvents -/

/-- The home writes at most the pieces of a store and the results of an atomic; a packet of another kind reads. -/
@[simp] theorem State.homePacket_memOk (r : Req) (p : Packet) : (s.homePacket r p).mem.wf = true := by
  unfold State.homePacket
  extract_lets s1 s2 write bad mark s3 byte
  have h2 : s2.mem.wf = true := by simp only [s2]; split <;> simp [s1, h]
  have hw : ∀ b, (write s2 b).mem.wf = true := fun b => by
    rw [State.wholeWrite_mem]
    exact State.foldl_memOk (fun t q ht => homeWrite_memOk ht) _ h2
  have hm : ∀ t : State, (mark t).mem = t.mem := fun t => by
    dsimp only [mark]
    split <;> simp
  split
  · simp [hw]
  · simp [hm, hw]
  · split
    · simp [h2]
    · rw [State.performed_mem]
      simp only [s3]
      split <;> simp [h2]
  · split <;> simp [h2]
  · split
    · simp [h2]
    · split
      next s4 old e =>
      have h4 : s4.mem.wf = true := fst_memOk e (foldl_fst_memOk (fun x q hx => homeWrite_memOk hx) _ h2)
      simp [hm, h4]
  · split
    · simp [h2]
    · rw [State.performed_mem]
      exact State.foldl_memOk (fun t q ht => by simpa using ht) _ h2
@[simp] theorem State.packetArrive_memOk (r : Req) (p : Packet) :
    (s.packetArrive r p).mem.wf = true := by simp [State.packetArrive, h]
@[simp] theorem State.packetMove_memOk (r : Req) (p : Packet) : (s.packetMove r p).mem.wf = true := by
  unfold State.packetMove
  repeat' split
  all_goals simp [h]
theorem execMemoryPacket_keeps : Keeps (execMemoryPacket s) := by
  unfold execMemoryPacket
  repeat' split
  all_goals simp [h]
theorem execPacketAcknowledgement_keeps : Keeps (execPacketAcknowledgement s) := by
  unfold execPacketAcknowledgement
  split
  · simp [h]
  · split
    · split
      · simp [h]
      · dsimp only
        rw [keeps_next, State.settle_mem]
        split
        · split
          · cases (Packet.parent _) <;> simp [h]
          · simp [h]
        · simp [h]
    · simp [h]
theorem execShortStoreWaitEnd_keeps : Keeps (execShortStoreWaitEnd s) := by
  unfold execShortStoreWaitEnd
  split
  · simp [h]
  · split <;> simp [h]
theorem execPromotionRequest_keeps : Keeps (execPromotionRequest s) := by
  unfold execPromotionRequest
  split <;> simp [h]
theorem execPromotionReply_keeps : Keeps (execPromotionReply s) := by
  unfold execPromotionReply
  split
  · split
    · simp [h]
    · rw [keeps_next, State.settle_mem]
      refine State.foldl_memOk (fun t r ht => ?_) _ (by simp [h])
      split
      · split <;> simp [ht]
      · exact ht
  · simp [h]
theorem execPageWalk_keeps : Keeps (execPageWalk s) := by
  unfold execPageWalk
  split
  · exact (keeps_next _).2 h
  · split
    · split
      · exact (keeps_next _).2 h
      · extract_lets need fault bad good s1 kinds s2 s3 m1
        have h2 : s2.mem.wf = true := State.foldl_memOk (fun t k ht => by simpa using ht) _ (by simpa [s1] using h)
        have h3 : s3.mem.wf = true := State.foldl_memOk (fun t it ht => State.touchRange_memOk ht ..) _ h2
        rw [keeps_next, State.settle_mem, State.storeLeft_mem]
        exact State.foldl_memOk (fun t p ht => by simpa using ht) _ h3
    · exact (keeps_next _).2 h
theorem execMwaitTimeout_keeps : Keeps (execMwaitTimeout s) := by
  unfold execMwaitTimeout
  split <;> simp [h]

/-! ### Waves -/

theorem execResultArrival_keeps : Keeps (execResultArrival s) := by
  unfold execResultArrival
  dsimp only
  repeat' split
  all_goals simp [h]
@[simp] theorem State.spillWrite_memOk (r : Run) (u k : Nat) : (s.spillWrite r u k).mem.wf = true := by simp [State.spillWrite, h]
@[simp] theorem State.spillRead_memOk (r : Run) (u k : Nat) : (s.spillRead r u k).mem.wf = true := by simp [State.spillRead, h]
@[simp] theorem State.takeAway_memOk (w : Wave) (cause : Nat) (units : Option (Nat × Nat)) :
    (s.takeAway w cause units).mem.wf = true := by simp [State.takeAway, h]
theorem execWaitSaveTimeout_keeps : Keeps (execWaitSaveTimeout s) := by
  unfold execWaitSaveTimeout
  split <;> simp [h]
/-- Contexts are read in order until one fails; both outcomes keep the form. -/
theorem State.contextsRead_memOk (ws : List Wave) : ((s.contextsRead ws).elim id id).mem.wf = true := by
  refine List.foldlRecOn (motive := fun o : State ⊕ State => (o.elim id id).mem.wf = true) ws _ h fun o ho w _ => ?_
  cases o with
  | inl t => exact ho
  | inr t =>
    dsimp only
    split
    · split
      · exact State.abortRun_memOk ho ..
      · exact State.spillRead_memOk ho ..
    · exact ho
/-- The move f between the reading of the contexts and the end of their restore must keep the form itself. -/
theorem State.bringBack_memOk (ws : List Wave) {f : State → State} (hf : ∀ t, t.mem.wf = true → (f t).mem.wf = true) :
    (s.bringBack ws f).mem.wf = true := by
  have hr := State.contextsRead_memOk h ws
  unfold State.bringBack
  split
  · next e => simpa [e] using hr
  · next t e =>
    rw [e] at hr
    refine State.foldl_memOk (fun t v ht => ?_) _ (hf t hr)
    split <;> simp [ht]
theorem execContextRestore_keeps : Keeps (execContextRestore s) := by
  have hid := fun w => State.bringBack_memOk h [w] (f := id) fun _ ht => ht
  have hmove := fun ws a b => State.bringBack_memOk h ws (f := fun t => t.moveAshlar a b) fun t ht => by simpa using ht
  unfold execContextRestore
  dsimp only
  split <;> simp [h, hid, hmove]
theorem execReformBinClose_keeps : Keeps (execReformBinClose s) := by
  unfold execReformBinClose
  dsimp only
  repeat' split
  all_goals simp [h]
theorem execWaveRetirement_keeps : Keeps (execWaveRetirement s) := by
  unfold execWaveRetirement
  split <;> simp [h]
theorem execDrainingStreamTimeout_keeps : Keeps (execDrainingStreamTimeout s) := by
  unfold execDrainingStreamTimeout
  split
  · simp [h]
  · next w _ =>
    split
    · simp [h]
    · have h1 := State.foldl_memOk (g := fun t x => t.stopStream w x) (fun t x ht => by simpa using ht)
        ((s.wavesStreams w).filter fun t => decide (t.planes.length < (matBlock t.block).kch)) h
      dsimp only
      split
      · exact (keeps_next _).2 h1
      · split
        · exact (keeps_next _).2 h1
        · refine (keeps_next _).2 (State.cancelRun_memOk ?_ _ _ _)
          rw [State.modRun_mem]
          exact State.postErr_memOk h1 _
theorem execSplitChange_keeps : Keeps (execSplitChange s) := by
  unfold execSplitChange
  dsimp only
  split <;> simp [h]
theorem execRetentionEntry_keeps : Keeps (execRetentionEntry s) := by simp [execRetentionEntry, h]

/-! ### Launch -/

@[simp] theorem State.launchTouch_memOk (slot va n : Nat) :
    (s.launchTouch slot va n).mem.wf = true := by simp [State.launchTouch, h]
@[simp] theorem State.endJob_memOk (n : Nat) (st : Status) (node : Nat) :
    (s.endJob n st node).mem.wf = true := by simp [State.endJob, h]
@[simp] theorem State.endPhase_memOk (n : Nat) : (s.endPhase n).mem.wf = true := by simp [State.endPhase, h]
@[simp] theorem State.checkPhase_memOk (n : Nat) : (s.checkPhase n).mem.wf = true := by simp [State.checkPhase, h]
@[simp] theorem State.runEnded_memOk (n run : Nat) (st : Status) (node : Nat) :
    (s.runEnded n run st node).mem.wf = true := by simp [State.runEnded, h]
@[simp] theorem State.invalidRun_memOk (l : Launch) (d : RunDesc) (id node : Nat) :
    (s.invalidRun l d id node).mem.wf = true := by simp [State.invalidRun, h]
@[simp] theorem State.launchRun_memOk (l : Launch) (dies : Mask) : (s.launchRun l dies).mem.wf = true := by
  unfold State.launchRun
  split
  next id c _ =>
  extract_lets live k s1
  split
  · exact State.runEnded_memOk (by simpa [s1] using h) ..
  · extract_lets d s2 s3 r s4 es size s5 s6
    have h1 : s1.mem.wf = true := h
    have h2 : s2.mem.wf = true := State.launchTouch_memOk (State.launchTouch_memOk h1 ..) ..
    split
    · exact State.invalidRun_memOk (wf_of_mem_eq (State.codeEnd_mem ..) h2) ..
    · have h4 : s4.mem.wf = true := State.foldl_memOk (fun t n ht => State.launchTouch_memOk ht ..) _ (State.launchTouch_memOk h2 ..)
      split
      · exact State.invalidRun_memOk (wf_of_mem_eq (State.codeEnd_mem ..) h4) ..
      · have h5 : s5.mem.wf = true := State.foldl_memOk (fun t e ht => State.launchTouch_memOk ht ..) _ h4
        rw [State.checkFed_mem]
        exact State.foldl_memOk (fun t i ht => by simpa using ht) _ h5
@[simp] theorem State.dropLaunch_memOk (l : Launch) : (s.dropLaunch l).mem.wf = true := by
  unfold State.dropLaunch
  dsimp only
  split <;> simp [h]
theorem execRunLaunch_keeps : Keeps (execRunLaunch s) := by
  unfold execRunLaunch
  split
  · simp [h]
  · split <;> simp [h]
theorem execPhaseStart_keeps : Keeps (execPhaseStart s) := by
  unfold execPhaseStart
  dsimp only
  split
  · simp [h]
  · split
    · split
      · rw [keeps_next, State.codeEnd_mem, State.foldl_mem (by intros; rfl)]
        simp [h]
      · simp [h]
    · simp [h]
theorem execRootQueueBind_keeps : Keeps (execRootQueueBind s) := by
  unfold execRootQueueBind
  dsimp only
  repeat' split
  all_goals simp [h]
@[simp] theorem State.writeBinCounts_memOk (r : Run) : (s.writeBinCounts r).mem.wf = true := by
  refine State.foldl_memOk (fun t b ht => ?_) _ h
  split
  · split <;> simp [ht]
  · exact ht
@[simp] theorem State.freeRun_memOk (r : Run) : (s.freeRun r).mem.wf = true := by
  unfold State.freeRun
  exact State.foldl_memOk (fun t a ht => by simp [ht]) _ h
theorem execRunCompletion_keeps : Keeps (execRunCompletion s) := by
  unfold execRunCompletion
  split
  · simp [h]
  · next r _ =>
    have h1 : ((s.freeRun r).writeBinCounts r).mem.wf = true := by simp [h]
    split
    · simp [h]
    · dsimp only
      split
      · simp [h]
      · split
        · simp [h]
        · simp [h1]

/-! ### Schedule -/

theorem execBatchageExpiry_keeps : Keeps (execBatchageExpiry s) := by
  unfold execBatchageExpiry
  repeat' split
  all_goals simp [h]
@[simp] theorem State.readBatches_memOk (r : Run) (recsize d : Nat) (read : List (Nat × Nat)) :
    (s.readBatches r recsize d read).mem.wf = true := by
  unfold State.readBatches
  exact State.foldl_memOk (fun t a ht => by simp [ht]) _ h
@[simp] theorem State.placeNew_memOk (d a : Nat) (c : Cand) : (s.placeNew d a c).mem.wf = true := by
  unfold State.placeNew
  dsimp only
  repeat' split
  all_goals simp [h]
@[simp] theorem State.placeSaved_memOk (d a : Nat) (c : Cand) (w : Wave) : (s.placeSaved d a c w).mem.wf = true := by
  unfold State.placeSaved
  dsimp only
  split
  · simp [h]
  · split <;> simp [h]
/-- The candidate goes to the ashlar that State.spot finds, which gives up residents there and no memory. -/
theorem State.tryPlace_memOk {d : Nat} {c : Cand} {t : State} (ht : s.tryPlace d c = some t) : t.mem.wf = true := by
  obtain ⟨p, hp, rfl⟩ := Option.map_eq_some_iff.1 ht
  have h1 : p.2.mem.wf = true := by rw [State.spot_mem hp, h]
  dsimp only
  split <;> simp [h1]
@[simp] theorem State.placeOrReserve_memOk (d : Nat) (c : Cand) : (s.placeOrReserve d c).1.mem.wf = true := by
  unfold State.placeOrReserve
  split
  · next ht => exact State.tryPlace_memOk h ht
  · simp [h]
@[simp] theorem State.step1_memOk (d : Nat) (cs : List Cand) : (s.step1 d cs).1.mem.wf = true := by
  unfold State.step1
  dsimp only
  split
  · split
    · exact h
    · split
      · next e => simpa using fst_memOk e (State.placeOrReserve_memOk h ..)
      · exact State.placeOrReserve_memOk h ..
  · exact h
@[simp] theorem State.step2_memOk (d : Nat) (cs : List Cand) : (s.step2 d cs).1.mem.wf = true := by
  unfold State.step2
  dsimp only
  repeat' split
  all_goals simp [h]
@[simp] theorem State.step3_memOk (d : Nat) (cs : List Cand) : (s.step3 d cs).1.mem.wf = true := by
  unfold State.step3
  dsimp only
  split
  · exact h
  · split
    · next e => simpa using fst_memOk e (State.placeOrReserve_memOk h ..)
    · exact State.placeOrReserve_memOk h ..
@[simp] theorem State.step4_memOk (d : Nat) (cs : List Cand) : (s.step4 d cs).mem.wf = true := by
  unfold State.step4
  dsimp only
  split
  · exact h
  · split
    · exact h
    · split
      · exact h
      · cases ht : State.tryPlace _ d _ with
        | none => exact h
        | some t => exact State.tryPlace_memOk (by simp [h]) ht
@[simp] theorem State.reserveGroup_memOk (d a : Nat) : (s.reserveGroup d a).mem.wf = true := by
  unfold State.reserveGroup
  split
  · exact h
  · dsimp only
    split
    · exact State.foldl_memOk (fun t r ht => State.abortRun_memOk ht ..) _ h
    · split
      · exact h
      · exact h
@[simp] theorem State.beforeDecision_memOk (d : Nat) : (s.beforeDecision d).mem.wf = true := by
  have h0 := State.foldl_memOk (fun t a ht => State.reserveGroup_memOk ht d a) ((dieAshlars d).filter fun a => (s.ashlar a).retired)
    (s := s.rollWindow) (by simp [h])
  simp [State.beforeDecision, h0]
/-- The steps of R68 are taken in order until one places a wave; each starts from what the one before left. -/
@[simp] theorem State.decision_memOk (d : Nat) : (s.decision d).mem.wf = true := by
  have h3 := State.foldl_memOk (g := fun t c => t.markSplit d c) (fun t c ht => by simpa using ht)
    (((s.beforeDecision d).cands d).filter fun c => ((s.beforeDecision d).spot d c).isNone) (State.beforeDecision_memOk h d)
  unfold State.decision
  dsimp only
  split
  · next e => exact fst_memOk e (State.step1_memOk h3 ..)
  · next e =>
    have h4 := fst_memOk e (State.step1_memOk h3 ..)
    split
    · next e => exact fst_memOk e (State.step2_memOk h4 ..)
    · next e =>
      have h5 := fst_memOk e (State.step2_memOk h4 ..)
      split
      · next e => exact fst_memOk e (State.step3_memOk h5 ..)
      · next e => exact State.step4_memOk (fst_memOk e (State.step3_memOk h5 ..)) ..
theorem execPlacement_keeps : Keeps (execPlacement s) := by simp [execPlacement, h]
theorem execRtWindowStart_keeps : Keeps (execRtWindowStart s) := by simp [execRtWindowStart, h]
/-- Records leave in batches, each written to the spill area. -/
@[simp] theorem State.spillOut_memOk (run t d w left n : Nat) : (s.spillOut run t d w left n).mem.wf = true := by
  induction n generalizing s left with
  | zero => exact h
  | succ n ih =>
    unfold State.spillOut
    split
    · exact h
    · dsimp only
      split
      · exact h
      · split
        · simp [h]
        · exact ih (by simp [h]) _
@[simp] theorem State.shedUpTo_memOk (q : Nat) (own : Option Nat) (n : Nat) : (s.shedUpTo q own n).mem.wf = true := by
  induction n generalizing s with
  | zero => exact h
  | succ n ih =>
    unfold State.shedUpTo
    split
    · exact h
    · split
      · exact h
      · exact ih (by simp [h])
@[simp] theorem State.shedRecords_memOk (q : Nat) (own : Option Nat) :
    (s.shedRecords q own).mem.wf = true := by simp [State.shedRecords, h]
theorem execSpillTimeout_keeps : Keeps (execSpillTimeout s) := by
  unfold execSpillTimeout
  dsimp only
  repeat' split
  all_goals simp [h]
@[simp] theorem State.saveFails_memOk (w : Wave) (cause code addr : Nat) :
    (s.saveFails w cause code addr).mem.wf = true := by simp [State.saveFails, h]
@[simp] theorem State.save_memOk (w : Wave) : (s.save w).mem.wf = true := by
  unfold State.save
  dsimp only
  repeat' split
  all_goals simp [h]
theorem execContextSave_keeps : Keeps (execContextSave s) := by
  unfold execContextSave
  split <;> simp [h]
theorem execRecordArrival_keeps : Keeps (execRecordArrival s) := by
  unfold execRecordArrival
  repeat' split
  all_goals simp [h]

/-! ### Homes -/

@[simp] theorem State.placeOverflow_memOk (run : Nat) (key : DWord) : (s.placeOverflow run key).mem.wf = true := by
  unfold State.placeOverflow
  split
  · simp [h]
  · split <;> simp [h]
@[simp] theorem State.readOverflow_memOk (run : Nat) (key : DWord) (node : Nat) :
    (s.readOverflow run key node).mem.wf = true := by
  unfold State.readOverflow
  split
  · split <;> simp [h]
  · simp [h]
theorem execKeystoneRequest_keeps : Keeps (execKeystoneRequest s) := by
  unfold execKeystoneRequest
  split
  · simp [h]
  · split <;> simp [h]
theorem execSectionStall_keeps : Keeps (execSectionStall s) := by
  unfold execSectionStall
  split <;> simp [h]
theorem execBarrierRequest_keeps : Keeps (execBarrierRequest s) := by
  unfold execBarrierRequest
  repeat' split
  all_goals simp [h]
theorem execReductionRequest_keeps : Keeps (execReductionRequest s) := by
  unfold execReductionRequest
  repeat' split
  all_goals simp [h]

/-! ### Engines -/

theorem execEngineCommandArrival_keeps : Keeps (execEngineCommandArrival s) := by
  unfold execEngineCommandArrival
  repeat' split
  all_goals simp [h]
theorem execMldwFinish_keeps : Keeps (execMldwFinish s) := by
  unfold execMldwFinish
  dsimp only
  split
  · split <;> simp [h]
  · simp [h]
theorem execMswapEffect_keeps : Keeps (execMswapEffect s) := by
  unfold execMswapEffect
  dsimp only
  split <;> simp [h]
theorem execStreamStart_keeps : Keeps (execStreamStart s) := by
  unfold execStreamStart
  dsimp only
  split <;> simp [h]
theorem execMatrixRowFinish_keeps : Keeps (execMatrixRowFinish s) := by
  unfold execMatrixRowFinish
  dsimp only
  split
  · split
    · simp [h]
    · split
      · simp [h]
      · split
        · simp [h]
        · next hs =>
          have h1 := State.putRow_mem _ _ _ _ _ _ hs
          split <;> simp [h1, h]
  · simp [h]
@[simp] theorem State.copyTouch_memOk (r : Req) (c : Copy) (va : Nat) (write : Bool) :
    (s.copyTouch r c va write).1.mem.wf = true := by
  unfold State.copyTouch
  dsimp only
  split
  · simp [h]
  · split <;> simp [h]
@[simp] theorem State.copyStore_memOk (r : Req) (c : Copy) (va : Nat) (bs : List Byte) :
    (s.copyStore r c va bs).mem.wf = true := by
  refine State.foldl_memOk (fun t p ht => ?_) _ h
  dsimp only
  split <;> simp [ht, homeWrite_memOk]
/-- One element of a copy: a store writes its bytes at their home, a load writes scratch. -/
theorem State.copyElem_memOk {r : Req} {w : Wave} {c : Copy} {p : State × Copy} (hp : s.copyElem r w c = some p) :
    p.1.mem.wf = true := by
  unfold State.copyElem at hp
  dsimp only at hp
  split at hp
  · split at hp
    · cases hp
      exact h
    · split at hp <;> cases hp
      · exact h
      · simp [h]
  · split at hp
    · cases hp
      exact h
    · have h2 := fun g c b v d e => State.copyTouch_memOk (State.copyTouch_memOk h r c g b) r d v e
      split at hp
      · cases hp
      · split at hp
        · cases hp
          rw [State.copyWhole_mem]
          refine State.copyStore_memOk ?_ ..
          rw [State.count_mem]
          exact h2 ..
        · split at hp <;> cases hp
          · simp [h]
          · simp [h]
@[simp] theorem State.copyRun_memOk (id n : Nat) : (s.copyRun id n).mem.wf = true := by
  induction n generalizing s with
  | zero => exact h
  | succ n ih =>
    unfold State.copyRun
    split
    · exact h
    · split
      · split
        · exact h
        · split
          · exact h
          · next hp => exact ih (State.copyElem_memOk h hp)
      · exact h
theorem execMulticastDelivery_keeps : Keeps (execMulticastDelivery s) := by
  unfold execMulticastDelivery
  dsimp only
  repeat' split
  all_goals simp [h]
theorem execCopyCompletion_keeps : Keeps (execCopyCompletion s) := by
  unfold execCopyCompletion
  dsimp only
  repeat' split
  all_goals simp [h]
theorem execVfifoEntryAvailable_keeps : Keeps (execVfifoEntryAvailable s) := by
  unfold execVfifoEntryAvailable
  dsimp only
  split <;> simp [h]
theorem execVfifoBeatFail_keeps : Keeps (execVfifoBeatFail s) := by
  unfold execVfifoBeatFail
  extract_lets a x
  split
  · exact (keeps_next _).2 h
  · extract_lets stop s1 s2
    have h2 : s2.mem.wf = true := by simp [s2, s1, h]
    split
    · exact (keeps_next _).2 h
    · split
      · exact (keeps_next _).2 h
      · split
        · exact (keeps_next _).2 (State.foldl_memOk (fun t r ht => State.abortRun_memOk ht ..) _ h2)
        · exact (keeps_next _).2 h2
theorem execVfifoRepairComplete_keeps : Keeps (execVfifoRepairComplete s) := by simp [execVfifoRepairComplete, h]

/-! ### Links -/

theorem execLinkTurnEnd_keeps : Keeps (execLinkTurnEnd s) := by
  unfold execLinkTurnEnd
  split <;> simp [h]
theorem execLeaseTimeout_keeps : Keeps (execLeaseTimeout s) := by
  unfold execLeaseTimeout
  split <;> simp [h]
theorem execTurnWaitEnd_keeps : Keeps (execTurnWaitEnd s) := by simp [execTurnWaitEnd, h]
theorem execFlitReceive_keeps : Keeps (execFlitReceive s) := by simp [execFlitReceive, h]
theorem execLinkRecalibration_keeps : Keeps (execLinkRecalibration s) := by simp [execLinkRecalibration, h]
theorem execRecalibrationEnd_keeps : Keeps (execRecalibrationEnd s) := by
  unfold execRecalibrationEnd
  split <;> simp [h]

/-! ### Dies -/

theorem execDieParkComplete_keeps : Keeps (execDieParkComplete s) := by simp [execDieParkComplete, h]
theorem execRailOff_keeps : Keeps (execRailOff s) := by simp [execRailOff, h]
theorem execRailReady_keeps : Keeps (execRailReady s) := by simp [execRailReady, h]
@[simp] theorem State.shedContexts_memOk (d : Nat) : (s.shedContexts d).mem.wf = true := by
  refine State.foldl_memOk (fun t w ht => ?_) _ h
  split
  · exact ht
  · split
    · exact ht
    · dsimp only
      split <;> simp [ht]
@[simp] theorem State.shedEntries_memOk (d : Nat) : (s.shedEntries d).mem.wf = true := by
  unfold State.shedEntries
  exact State.foldl_memOk (fun t a ht => by simp [ht]) _ h
@[simp] theorem State.shed_memOk (d : Nat) : (s.shed d).mem.wf = true :=
  State.shedEntries_memOk (State.shedContexts_memOk (State.shedRecords_memOk h d none) d) d
theorem execSliceLeave_keeps : Keeps (execSliceLeave s) := by simp [execSliceLeave, h]
theorem execSliceJoin_keeps : Keeps (execSliceJoin s) := by simp [execSliceJoin, h]
theorem execBankRetirement_keeps : Keeps (execBankRetirement s) := by simp [execBankRetirement, h]
theorem execGainCellRefresh_keeps : Keeps (execGainCellRefresh s) := by simp [execGainCellRefresh, h]
theorem execPatrolScrub_keeps : Keeps (execPatrolScrub s) := by
  unfold execPatrolScrub
  split <;> simp [h]
theorem execPartitionChangeComplete_keeps : Keeps (execPartitionChangeComplete s) := by simp [execPartitionChangeComplete, h]
theorem execRemapComplete_keeps : Keeps (execRemapComplete s) := by simp [execRemapComplete, h]
@[simp] theorem State.writeNow_keeps (n : Nat) (v : DWord) (p : Wave → Bool) : Keeps (s.writeNow n v p) := by
  unfold State.writeNow
  split <;> simp [h]
theorem execMlpartWrite_keeps : Keeps (execMlpartWrite s) := by simp [execMlpartWrite, h]
theorem execMlremapWrite_keeps : Keeps (execMlremapWrite s) := State.writeNow_keeps h _ _ _
theorem execCmcfgWrite_keeps : Keeps (execCmcfgWrite s) := by simp [execCmcfgWrite, h]
theorem execCmheadWrite_keeps : Keeps (execCmheadWrite s) := by simp [execCmheadWrite, h]
theorem execLayergateReqWrite_keeps : Keeps (execLayergateReqWrite s) := State.writeNow_keeps h _ _ _

/-! ### PlumbEvents -/

theorem execPlumbTick_keeps : Keeps (execPlumbTick s) := by
  unfold execPlumbTick
  dsimp only
  split
  · simp [h]
  · split <;> simp [h]
theorem execVoltageRampEnd_keeps : Keeps (execVoltageRampEnd s) := by simp [execVoltageRampEnd, h]
theorem execVfChangeComplete_keeps : Keeps (execVfChangeComplete s) := by simp [execVfChangeComplete, h]
@[simp] theorem State.lose_memOk : s.lose.mem.wf = true := memAfterLoss_wf h
@[simp] theorem State.warmReset_memOk (cause : Nat) : (s.warmReset cause).mem.wf = true := by simp [State.warmReset, h]
theorem execHardwareTrip_keeps : Keeps (execHardwareTrip s) := by simp [execHardwareTrip, h]
theorem execHeartbeatMiss_keeps : Keeps (execHeartbeatMiss s) := by simp [execHeartbeatMiss, h]
theorem execWarmReset_keeps : Keeps (execWarmReset s) := by
  unfold execWarmReset
  split <;> simp [h]
theorem execPowerOnReset_keeps : Keeps (execPowerOnReset s) := (keeps_next _).2 (clear_wf h)
theorem execBootImage_keeps : Keeps (execBootImage s) := by simp [execBootImage, h]
theorem execFlashReadTimeout_keeps : Keeps (execFlashReadTimeout s) := by simp [execFlashReadTimeout, h]
/-- A command of the mailbox that is not the one asked for changes nothing. -/
theorem mailbox_keeps (c : Nat) {f : State → State} (hf : (f s).mem.wf = true) : Keeps (mailbox s c f) := by
  unfold mailbox
  split <;> simp [h, hf]
@[simp] theorem State.hostWrite_memOk (pa : Nat) (bs : List Byte) : (s.hostWrite pa bs).mem.wf = true := by
  unfold State.hostWrite
  exact State.foldl_memOk (fun t p ht => homeWrite_memOk (by simp [ht])) _ h
theorem execSetvf_keeps : Keeps (execSetvf s) :=
  mailbox_keeps h _ (by simp [h])
theorem execSetcap_keeps : Keeps (execSetcap s) :=
  mailbox_keeps h _ (by simp [h])
theorem execMeasure_keeps : Keeps (execMeasure s) :=
  mailbox_keeps h _ (by simp [h])
theorem execQuote_keeps : Keeps (execQuote s) :=
  mailbox_keeps h _ (by simp [h])
/-- The branches are taken under State.memOk, not under its unfolding: comparing memories across them would have the kernel compute
with the addresses of the host window. -/
theorem execTelemetry_keeps : Keeps (execTelemetry s) := by
  refine mailbox_keeps h _ (show State.memOk _ from ?_)
  dsimp only
  split
  · simp [State.memOk, h]
  · exact wf_of_mem_eq (State.mailAnswer_mem ..) (wf_of_mem_eq (State.modPlumb_mem ..) (State.hostWrite_memOk h _ _))
theorem execFlashRead_keeps : Keeps (execFlashRead s) :=
  mailbox_keeps h _ (by simp [h])
theorem execFlashProgram_keeps : Keeps (execFlashProgram s) :=
  mailbox_keeps h _ (by simp [h])
theorem execFlashReboot_keeps : Keeps (execFlashReboot s) :=
  mailbox_keeps h _ (by simp [h])
theorem execCornerread_keeps : Keeps (execCornerread s) :=
  mailbox_keeps h _ (by simp [h])
theorem execMailboxCompletion_keeps : Keeps (execMailboxCompletion s) := by
  unfold execMailboxCompletion
  repeat' split
  all_goals simp [h]

/-! ### HostEvents -/

/-- A write of a host register while no firmware runs changes nothing. -/
theorem hostWord_keeps {f : State → State} (hf : (f s).mem.wf = true) : Keeps (hostWord s f) := by
  unfold hostWord
  split <;> simp [h, hf]
theorem execRqtailWrite_keeps : Keeps (execRqtailWrite s) :=
  hostWord_keeps h (by simp [h])
theorem execRqbaseWrite_keeps : Keeps (execRqbaseWrite s) := by
  refine hostWord_keeps h ?_
  split
  · exact h
  · rw [State.modHost_mem]
    refine State.foldl_memOk (fun t k ht => ?_) _ h
    split <;> simp [ht]
theorem execRqsizeWrite_keeps : Keeps (execRqsizeWrite s) :=
  hostWord_keeps h (by simp [h])
theorem execHostBar2Access_keeps : Keeps (execHostBar2Access s) := by
  have hn : ∀ (ls : List Nat) (w : Bool), (ls.foldl (fun (s : State) l => s.number pcieSrc l w) s).mem.wf = true := fun ls w =>
    State.foldl_memOk (fun t l ht => by simp [ht]) _ h
  unfold execHostBar2Access
  dsimp only
  split
  · split
    · split
      · simp [h]
      · split
        · exact (keeps_next _).2 (hn _ _)
        · simp [h]
    · simp [h]
  · split
    · simp [h]
    · split
      · refine (keeps_next _).2 (State.foldl_memOk (fun t p ht => ?_) _ (hn _ _))
        split <;> simp [ht, homeWrite_memOk]
      · simp [h]
/-- As for TELEMETRY, the branches over register offsets are taken under State.memOk. -/
theorem execRegisterWrite_keeps : Keeps (execRegisterWrite s) := by
  unfold execRegisterWrite
  extract_lets off v
  split
  · exact (keeps_next _).2 h
  · split
    · simp [h]
    · split
      · simp [h]
      · split
        · exact (keeps_next _).2 h
        · refine hostWord_keeps h (show State.memOk _ from ?_)
          split
          · exact h
          · split
            · exact wf_of_mem_eq (State.modSlot_mem ..) h
            · split
              · exact h
              · split <;> exact h
@[simp] theorem State.cancelPhase_memOk (n : Nat) : (s.cancelPhase n).mem.wf = true := by
  have h1 := State.foldl_memOk (fun t l ht => State.dropLaunch_memOk ht l) (s.launches.filter fun l => l.slot == n) h
  exact State.checkPhase_memOk (State.foldl_memOk (fun t r ht => State.askCancel_memOk ht r.id) _ h1) n
@[simp] theorem State.askPhase_memOk (n : Nat) : (s.askPhase n).mem.wf = true := by simp [State.askPhase, h]
@[simp] theorem State.askJob_memOk (n : Nat) : (s.askJob n).mem.wf = true := by simp [State.askJob, h]
theorem execSlotcmdPhase_keeps : Keeps (execSlotcmdPhase s) :=
  hostWord_keeps h (by simp [h])
theorem execSlotcmdJob_keeps : Keeps (execSlotcmdJob s) :=
  hostWord_keeps h (by simp [h])
theorem execInvctlGo_keeps : Keeps (execInvctlGo s) :=
  hostWord_keeps h (by simp [h])
theorem execInvalidationComplete_keeps : Keeps (execInvalidationComplete s) := by simp [execInvalidationComplete, h]
theorem execL1modeWrite_keeps : Keeps (execL1modeWrite s) :=
  hostWord_keeps h (by simp [h])
theorem execL1modeChangeComplete_keeps : Keeps (execL1modeChangeComplete s) := by
  unfold execL1modeChangeComplete
  dsimp only
  split <;> simp [h]
theorem execPmcselWrite_keeps : Keeps (execPmcselWrite s) :=
  hostWord_keeps h (by simp [h])
theorem execPmcClear_keeps : Keeps (execPmcClear s) :=
  hostWord_keeps h (by simp [h])

/-! ### Raster -/

theorem State.fixedRead_memOk {src : Nat} {r : Run} {va n : Nat} {q : State × List Byte}
    (hq : s.fixedRead src r va n = .inr q) :
    q.1.mem.wf = true := by
  unfold State.fixedRead at hq
  split at hq
  · cases hq
  · cases hq
    simp [h]
@[simp] theorem State.fixedFault_memOk (run node addr : Nat) :
    (s.fixedFault run node addr).mem.wf = true := by simp [State.fixedFault, h]
theorem State.binParam_memOk {src : Nat} {r : Run} {node : Nat} {q : State × BinParam} (hq : s.binParam src r node = .inr q) :
    q.1.mem.wf = true := by
  unfold State.binParam at hq
  split at hq
  · cases hq
  · next hr =>
    cases hq
    exact State.fixedRead_memOk h hr
@[simp] theorem State.binWrite_memOk (src slot : Nat) (l : List (Nat × Nat)) : (s.binWrite src slot l).mem.wf = true := by
  unfold State.binWrite
  exact State.foldl_memOk (fun t a ht => by simp [ht]) _ h
@[simp] theorem State.binGroup_memOk (r : Run) (b : Binning) (p : BinParam) (g : Nat) (recs : List (List Byte)) :
    (s.binGroup r b p g recs).mem.wf = true := by
  unfold State.binGroup
  dsimp only
  split
  · simp [h]
  · split <;> simp [h]
theorem execBinGroup_keeps : Keeps (execBinGroup s) := by
  unfold execBinGroup
  split
  · simp [h]
  · split
    · simp [h]
    · split
      · simp [h]
      · dsimp only
        split
        · simp [h]
        · split
          · split <;> simp [h]
          · split
            · simp [h]
            · split
              · simp [h]
              · next hb =>
                have hs := State.binParam_memOk h hb
                dsimp only at hs
                split
                · simp [hs]
                · split <;> simp [hs]
@[simp] theorem State.unitTake_memOk (r : Run) (n : Node) (i d : Nat) (p : QRec → Bool) (c : Nat) :
    (s.unitTake r n i d p c).1.mem.wf = true := by
  unfold State.unitTake
  dsimp only
  split <;> simp [h]
theorem execViewportClose_keeps : Keeps (execViewportClose s) := by
  unfold execViewportClose
  split
  · simp [h]
  · split
    · simp [h]
    · dsimp only
      split
      · simp [h]
      · split
        · simp [h]
        · split
          · simp [h]
          · split
            · simp [h]
            · next hb =>
              have hs := State.binParam_memOk h hb
              dsimp only at hs
              split
              · simp [hs]
              · split <;> simp [hs]
theorem State.targets_memOk {src : Nat} {r : Run} {p : BinParam} {q : State × List Target} (hq : s.targets src r p = .inr q) :
    q.1.mem.wf = true := by
  unfold State.targets at hq
  split at hq
  · cases hq
  · next hr =>
    cases hq
    exact State.fixedRead_memOk h hr
theorem State.fillTile_memOk {r : Run} {c k : Nat} {p : BinParam} {ts : List Target} {t : Tile} {u : State}
    (hu : s.fillTile r c k p ts t = .inr u) :
    u.mem.wf = true := by
  unfold State.fillTile at hu
  dsimp only at hu
  split at hu
  · cases hu
  · cases hu
    exact State.foldl_memOk (fun v g hv => State.foldl_memOk (fun w q hw => State.unitTouch_memOk hw ..) _ hv) _ h
theorem execTileFill_keeps : Keeps (execTileFill s) := by
  unfold execTileFill
  dsimp only
  split
  · split
    · simp [h]
    · split
      · simp [h]
      · split
        · simp [h]
        · split
          · simp [h]
          · next hr =>
            have h0 := wf_of_mem_eq (State.unitReserve_mem hr) h
            split
            · simp [h]
            · next hb =>
              have h1 := State.binParam_memOk h0 hb
              split
              · simp [h]
              · next ht =>
                have h2 := State.targets_memOk h1 ht
                split
                · next e => exact (keeps_next _).2 (fst_memOk e (State.unitTake_memOk h2 ..))
                · next e =>
                  have h3 := fst_memOk e (State.unitTake_memOk h2 ..)
                  split
                  · simp [h]
                  · next hf => exact (keeps_next _).2 (State.fillTile_memOk h3 hf)
  · simp [h]
theorem execTileVisibility_keeps : Keeps (execTileVisibility s) := by
  unfold execTileVisibility
  dsimp only
  split
  · simp [h]
  · split
    · simp [h]
    · split
      · simp [h]
      · split
        · simp [h]
        · next hb => simpa using State.binParam_memOk h hb
theorem State.clsParam_memOk {src : Nat} {r : Run} {node : Nat} {q : State × ClsParam} (hq : s.clsParam src r node = .inr q) :
    q.1.mem.wf = true := by
  unfold State.clsParam at hq
  split at hq
  · cases hq
  · next hr =>
    cases hq
    exact State.fixedRead_memOk h hr
theorem execClassifierEmit_keeps : Keeps (execClassifierEmit s) := by
  unfold execClassifierEmit
  dsimp only
  split
  · simp [h]
  · split
    · simp [h]
    · split
      · simp [h]
      · split
        · split
          · simp [h]
          · next hr =>
            have h1 := fun f => wf_of_mem_eq (State.modTile_mem _ s.evt.a s.evt.b f) (wf_of_mem_eq (State.reserveEdges_mem hr) h)
            split
            · next e => exact (keeps_next _).2 (fst_memOk e (State.unitTake_memOk (h1 _) ..))
            · next e =>
              have h2 := fst_memOk e (State.unitTake_memOk (h1 _) ..)
              split
              · simp [h2]
              · next hb =>
                have h3 := State.binParam_memOk h2 hb
                split
                · exact (keeps_next _).2 (State.fixedFault_memOk h3 ..)
                · next hc =>
                  have h4 := State.clsParam_memOk h3 hc
                  split
                  · exact (keeps_next _).2 (State.fixedFault_memOk h4 ..)
                  · rw [keeps_next, State.emitTile_mem, State.modTile_mem]
                    refine State.foldl_memOk (fun t m ht => ?_) _ h4
                    exact State.unitTouch_memOk ht ..
        · split <;> simp [h]
theorem execTileWriteback_keeps : Keeps (execTileWriteback s) := by
  unfold execTileWriteback
  dsimp only
  split
  · simp [h]
  · split
    · simp [h]
    · split
      · simp [h]
      · next hb =>
        have h1 := State.binParam_memOk h hb
        split
        · exact (keeps_next _).2 (State.fixedFault_memOk h1 ..)
        · next ht =>
          have h2 := State.targets_memOk h1 ht
          split
          · exact (keeps_next _).2 (State.fixedFault_memOk h2 ..)
          · exact (keeps_next _).2 (State.foldl_memOk (fun t q ht => State.writeVa_memOk ht ..) _ h2)

/-! ### Fixed -/

@[simp] theorem State.takeBatch_memOk (r : Run) (n : Node) (i d : Nat) (resv : List Resv) :
    (s.takeBatch r n i d resv).1.mem.wf = true := by
  have ht := State.unitTake_memOk h r n i d (fun _ => true) batchMax
  unfold State.takeBatch
  split
  · next e => exact fst_memOk e ht
  · next e => exact fst_memOk e ht
theorem execRayBatch_keeps : Keeps (execRayBatch s) := by
  unfold execRayBatch
  dsimp only
  split
  · simp [h]
  · split
    · simp [h]
    · split
      · simp [h]
      · split
        · simp [h]
        · next hr =>
          have h1 := wf_of_mem_eq (State.reserveEdges_mem hr) h
          split
          · exact (keeps_next _).2 h
          · split
            · next e =>
              have h2 := fst_memOk e (State.takeBatch_memOk h1 ..)
              simp [h2]
            · next e => exact (keeps_next _).2 (fst_memOk e (State.takeBatch_memOk h1 ..))
@[simp] theorem State.touchAll_memOk (src slot : Nat) (l : List (Nat × Nat)) : (s.touchAll src slot l).mem.wf = true := by
  induction l with
  | nil => exact h
  | cons p l ih => exact State.unitTouch_memOk ih ..
theorem execRayResult_keeps : Keeps (execRayResult s) := by
  unfold execRayResult
  dsimp only
  repeat' split
  all_goals simp [h]
theorem execMatrixNodeBatch_keeps : Keeps (execMatrixNodeBatch s) := by
  unfold execMatrixNodeBatch
  dsimp only
  split
  · simp [h]
  · split
    · simp [h]
    · split
      · simp [h]
      · split
        · simp [h]
        · next hr =>
          have h1 := wf_of_mem_eq (State.reserveEdges_mem hr) (wf_of_mem_eq (State.giveUp_mem ..) h)
          split
          · exact (keeps_next _).2 h
          · split
            · next e =>
              have h2 := fst_memOk e (State.takeBatch_memOk h1 ..)
              simp [h2]
            · next e => exact (keeps_next _).2 (fst_memOk e (State.takeBatch_memOk h1 ..))
theorem State.readNet_memOk {src : Nat} {r : Run} {va : Nat} {q : State × Network} (hq : s.readNet src r va = .inr q) :
    q.1.mem.wf = true := by
  unfold State.readNet at hq
  split at hq
  · cases hq
  · split at hq
    · cases hq
    · next hr =>
      cases hq
      exact State.fixedRead_memOk h hr
theorem execMatrixNodeResult_keeps : Keeps (execMatrixNodeResult s) := by
  unfold execMatrixNodeResult
  dsimp only
  split
  · simp [h]
  · split
    · split
      · simp [h]
      · next hn =>
        have h1 := State.readNet_memOk h hn
        dsimp only at h1
        split
        · simp [h1]
        · split <;> simp [h1]
    · simp [h]

/-! ### Inputs -/

@[simp] theorem State.parityError_memOk (id : Nat) : (s.parityError id).mem.wf = true := by
  unfold State.parityError
  split <;> simp [h]
@[simp] theorem State.checksumError_memOk (n : Nat) : (s.checksumError n).mem.wf = true :=
  State.askJob_memOk (State.foldl_memOk (fun t r ht => State.controlError_memOk ht ..) _ (by simpa using h)) n
/-- Two inputs reach memory: the host writes its own memory, and a record error may end a run. -/
@[simp] theorem State.input_memOk (x : Input) : (s.input x).mem.wf = true := by
  cases x with
  | hostMemory a d =>
    unfold State.input
    dsimp only
    split
    · exact writeN_wf h
    · exact h
  | recordError r n d =>
    unfold State.input
    dsimp only
    split
    · split <;> simp [h]
    · exact h
  | _ => simp [State.input, h]

/-! ### Agenda -/

@[simp] theorem State.nextAct_memOk : (s.nextAct).1.mem.wf = true := by
  unfold State.nextAct
  split <;> simp [h]

/-! ### HostReads -/

@[simp] theorem State.outside_memOk (x : Input) : (s.outside x).mem.wf = true := by
  unfold State.outside
  split <;> simp [h]

end

end Sys2Proof.Machine
end

section
/-! PROOFS. The words, whose state is that of their context, and from them every step. -/

namespace Sys2Proof.Machine

/-- A word that issues keeps the form where its effect on the context does: a fault at issue, or an empty Active, writes nothing. -/
theorem issue_keeps {s : State} (h : s.mem.wf = true) {k : Chk} {f : Ctx → Mask → Ctx}
    (hf : ∀ x m, x.s.mem.wf = true → (f x m).s.mem.wf = true) : Keeps (issue s k f) := by
  intro t ht
  obtain ⟨x, hx, hc⟩ := issue_cases ht
  have hs : x.s.mem.wf = true := by rw [ctx_state hx, h]
  obtain rfl | rfl | rfl | rfl | ⟨-, rfl⟩ := hc
  · simpa using hs
  · simpa using hs
  · simpa using hs
  · exact h
  · exact hf x _ hs

section
variable {s : State} (h : s.mem.wf = true)
include h

/-! ### Control -/

theorem branchOn_keeps {d : B8} {r : SR} {p : PR} {test : DWord → Bool} : Keeps (branchOn s d r p test) := by
  unfold branchOn
  exact issue_keeps h fun x m hx => by simpa using hx
/-- A call reads its target clauses, which marks their pages accessed (R84). -/
theorem callTo_keeps {a : VR} {p : PR} {ct indirect : Bool} {target : Ctx → Nat → Nat} :
    Keeps (callTo s a p ct indirect target) := by
  unfold callTo
  refine issue_keeps h fun x m hx => ?_
  have hy : ((nub ((lanesOf m).map (target x))).foldl Ctx.readTarget x).s.mem.wf = true :=
    List.foldlRecOn (motive := fun y : Ctx => y.s.mem.wf = true) _ _ hx fun y hy t _ => Ctx.readTarget_memOk hy t
  simp [hy]
theorem stackWord_keeps {f : Ctx → Mask → Ctx} (hf : ∀ x m, (f x m).s.mem = x.s.mem) : Keeps (stackWord s f) :=
  issue_keeps h fun x m hx => by rw [hf, hx]
theorem maskWord_keeps {f : Ctx → Mask → Ctx} (hf : ∀ x m, (f x m).s.mem = x.s.mem) : Keeps (maskWord s f) :=
  issue_keeps h fun x m hx => by rw [hf, hx]
theorem execMarkPush_keeps {d : B8} : Keeps (execMarkPush d s) :=
  stackWord_keeps h fun x m => by simp
theorem execJoinLanes_keeps : Keeps (execJoinLanes s) :=
  stackWord_keeps h fun x m => by simp
theorem execEnrol_keeps {j : PR} : Keeps (execEnrol j s) :=
  maskWord_keeps h fun x m => by simp
theorem execRejoin_keeps {j : PR} : Keeps (execRejoin j s) :=
  maskWord_keeps h fun x m => by simp
theorem execStrike_keeps {j : PR} : Keeps (execStrike j s) :=
  maskWord_keeps h fun x m => by simp
theorem execJclr_keeps {j : PR} : Keeps (execJclr j s) :=
  maskWord_keeps h fun x m => by simp
theorem trapReturn_keeps {k : Nat} : Keeps (trapReturn s k) := by
  unfold trapReturn
  exact issue_keeps h fun x m hx => hx
theorem execPref_keeps {level : BitVec 2} {n : SR} : Keeps (execPref level n s) := by
  unfold execPref
  refine issue_keeps h fun x m hx => ?_
  dsimp only
  split <;> simp [hx]

/-! ### LaneMem -/

theorem loadWord_keeps {t : VR} {b : BX} {i : VR} {o : BX} {p : PR} {size : Nat} {signed : Bool} :
    Keeps (loadWord s t b i o p size signed) := by
  unfold loadWord
  exact issue_keeps h fun x m hx => by simpa using hx
theorem storeWord_keeps {t : VR} {b : BX} {i : VR} {o : BX} {p : PR} {size : Nat} : Keeps (storeWord s t b i o p size) := by
  unfold storeWord
  exact issue_keeps h fun x m hx => by simpa using hx
theorem atomicWord_keeps {t : VR} {b : BX} {i : VR} {sc : PR} {r : BitVec 1} {p : PR} {op : AtomOp} {size n : Nat} :
    Keeps (atomicWord s t b i sc r p op size n) := by
  unfold atomicWord
  exact issue_keeps h fun x m hx => by simpa using hx
theorem scalarMem_keeps {d a : SR} {b : BX} {i : BitVec 5} {size : Nat} {kind : AccKind} :
    Keeps (scalarMem s d a b i size kind) := by
  unfold scalarMem
  refine issue_keeps h fun x m hx => ?_
  dsimp only
  split <;> simp [hx]
theorem execFence_keeps {sc : PR} {src dst : SR} {kind : BitVec 2} : Keeps (execFence sc src dst kind s) := by
  unfold execFence
  refine issue_keeps h fun x m hx => ?_
  split
  · exact hx
  · extract_lets rel acq paths part x2 x3
    have hp : ∀ y p, (part y p).s.mem = y.s.mem := fun y p => by
      dsimp only [part]
      rw [Ctx.foldl_mem (by intros; rfl), Ctx.addFence_mem]
    have h2 : x2.s.mem = x.s.mem := Ctx.foldl_mem hp _ _
    have h3 : x3.s.mem = x2.s.mem := by simp only [x3]; split <;> rfl
    rw [Ctx.settled_mem, h3, h2, hx]
theorem execMonitor_keeps {d a : SR} {b : BX} {c : BitVec 5} : Keeps (execMonitor d a b c s) := by
  unfold execMonitor
  refine issue_keeps h fun x m hx => ?_
  dsimp only
  repeat' split
  all_goals simp [hx]
theorem execMcancel_keeps {a : SR} {b : BX} : Keeps (execMcancel a b s) := by
  unfold execMcancel
  refine issue_keeps h fun x m hx => ?_
  dsimp only
  repeat' split
  all_goals simp [hx]

/-! ### Sync -/

theorem ordFree_keeps {t k : VR} {p : PR} {op : OrdOp} {regs : List Nat} {named : List (Nat × Nat)} :
    Keeps (ordFree s t k p op regs named) := by
  unfold ordFree
  exact issue_keeps h fun x m hx => by simpa using hx
theorem ordEnter_keeps {t k : VR} {p : PR} {op : OrdOp} : Keeps (ordEnter s t k p op) := by
  unfold ordEnter
  exact issue_keeps h fun x m hx => by simpa using hx
theorem execOleave_keeps {k : VR} {p : PR} : Keeps (execOleave k p s) := by
  unfold execOleave
  refine issue_keeps h fun x m hx => ?_
  extract_lets ls holds good
  split
  next x1 ends e =>
  have h1 : x1.s.mem = x.s.mem := by
    rw [← foldl_same (fun q : Ctx × List (Mask × List (Nat × Mask)) => q.1.s.mem) _ (x.parts (maskOf good)) (x, []), e]
    exact fun y p => Ctx.release_mem ..
  simp [h1, hx]
/-- A barrier word adds requests and outstanding instructions alone. -/
theorem barWord_keeps {p : PR} {regs : List (Nat × Nat)} {own : Bool} {n : BX} {f : Ctx → Mask → Ctx}
    (hf : ∀ x m, (f x m).s.mem = x.s.mem) :
    Keeps (barWord s p regs own n f) := by
  unfold barWord
  refine issue_keeps h fun x m hx => ?_
  split <;> simp [hx, hf]
theorem execBinit_keeps {a : VR} {n : BX} {p : PR} : Keeps (execBinit a n p s) :=
  barWord_keeps h fun x m => by simp
theorem execBarrive_keeps {a : VR} {n : BX} {i : VR} {p : PR} : Keeps (execBarrive a n i p s) :=
  barWord_keeps h fun x m => by simp
theorem execBwait_keeps {a : VR} {n : BX} {p : PR} : Keeps (execBwait a n p s) :=
  barWord_keeps h fun x m => by simp
theorem execBsync_keeps {n : BX} {p : PR} : Keeps (execBsync n p s) :=
  barWord_keeps h fun x m => by simp
theorem execBrarrive_keeps {a : VR} {n : BX} {i : SR} {p : PR} : Keeps (execBrarrive a n i p s) :=
  barWord_keeps h fun x m => by simp
theorem execBtest_keeps {a : VR} {n : BX} {p : PR} : Keeps (execBtest a n p s) :=
  barWord_keeps h fun x m => by simp
theorem redWord_keeps {p : PR} {a : VR} {n : Nat} {ring : Bool} {f : Ctx → Nat → RedOp} {rel : Bool} :
    Keeps (redWord s p a n ring f rel) := by
  unfold redWord
  refine issue_keeps h fun x m hx => ?_
  dsimp only
  repeat' split
  all_goals simp [hx]

/-! ### Engine -/

theorem matWord_keeps {p : PR} {regs : List (Nat × Nat)} {f : Ctx → Mask → Option Ctx}
    (hf : ∀ x m, ∀ y ∈ f x m, y.s.mem = x.s.mem) :
    Keeps (matWord s p regs f) := by
  unfold matWord
  refine issue_keeps h fun x m hx => ?_
  split
  · simp [hx]
  · split
    · next y hy => rw [hf x m y hy, hx]
    · simp [hx]
theorem execMldw_keeps {a : VR} {p : PR} : Keeps (execMldw a p s) := by
  refine matWord_keeps h fun x m y hy => ?_
  dsimp only at hy
  split at hy
  · cases hy
    simp
  · cases hy
theorem execMswap_keeps {p : PR} : Keeps (execMswap p s) := by
  refine matWord_keeps h fun x m y hy => ?_
  cases hy
  simp
theorem execMstream_keeps {a : VR} {p : PR} : Keeps (execMstream a p s) := by
  refine matWord_keeps h fun x m y hy => ?_
  dsimp only at hy
  split at hy
  · split at hy
    · cases hy
      simp
    · cases hy
  · cases hy
theorem execMdrain_keeps {p : PR} : Keeps (execMdrain p s) := by
  refine matWord_keeps h fun x m y hy => ?_
  cases hy
  simp
theorem copyWord_keeps {a : VR} {p : PR} {kind : Nat} : Keeps (copyWord s a p kind) := by
  unfold copyWord
  exact issue_keeps h fun x m hx => by simpa using hx

/-! ### Record -/

theorem popWord_keeps {a : VR} {q : BX} {part : BitVec 2} {p : PR} {keep : Bool} : Keeps (popWord s a q part p keep) := by
  unfold popWord
  exact issue_keeps h fun x m hx => hx
theorem execQappend_keeps {a : VR} {e : PR} {c : BX} {p : PR} : Keeps (execQappend a e c p s) := by
  unfold execQappend
  exact issue_keeps h fun x m hx => by simpa using hx
theorem execQappendl_keeps {a : VR} {e : PR} {c : BX} {p : PR} : Keeps (execQappendl a e c p s) := by
  unfold execQappendl
  exact issue_keeps h fun x m hx => by simpa using hx
theorem edgeWord_keeps {e p : PR} {regs : List (Nat × Nat)} {f : Ctx → Mask → Ctx} (hf : ∀ x m, (f x m).s.mem = x.s.mem) :
    Keeps (edgeWord s e p regs f) := by
  unfold edgeWord
  refine issue_keeps h fun x m hx => ?_
  split <;> simp [hx, hf]
theorem execQrsv_keeps {a : VR} {e : PR} {n : B8} {p : PR} : Keeps (execQrsv a e n p s) :=
  edgeWord_keeps h fun x m => by simp
theorem execQflush_keeps {e p : PR} : Keeps (execQflush e p s) :=
  edgeWord_keeps h fun _ _ => rfl
theorem execQleft_keeps {a : VR} {e p : PR} : Keeps (execQleft a e p s) :=
  edgeWord_keeps h fun x m => by simp
/-- A graph word marks the pages of its descriptor accessed (R84), and then does f. -/
theorem graphWord_keeps {a : VR} {p : PR} {f : Ctx → Mask → Nat → Ctx}
    (hf : ∀ x m va, x.s.mem.wf = true → (f x m va).s.mem.wf = true) :
    Keeps (graphWord s a p f) := by
  unfold graphWord
  refine issue_keeps h fun x m hx => ?_
  dsimp only
  split
  · simp [hx]
  · split
    · simp [hx]
    · exact hf _ _ _ (by simp [hx])
theorem execGlaunch_keeps {a : VR} {p : PR} : Keeps (execGlaunch a p s) :=
  graphWord_keeps h fun x m va hx => by simp [hx]
theorem execGcancel_keeps {a : VR} {p : PR} : Keeps (execGcancel a p s) := by
  refine graphWord_keeps h fun x m va hx => ?_
  dsimp only
  split <;> simp [hx]
theorem execGstatus_keeps {a : VR} {p : PR} : Keeps (execGstatus a p s) :=
  graphWord_keeps h fun x m va hx => by simp [hx]

/-! ### LinkPower -/

theorem gateWord_keeps {d a : SR} {gate : Bool} : Keeps (gateWord s d a gate) := by
  unfold gateWord
  exact issue_keeps h fun x m hx => by simpa using hx

/-! ### VectorInt -/

theorem vecInt_keeps {d a : VR} {b : B8} {p : PR} {op : Word → Word → Word → Word} : Keeps (vecInt s d a b p op) := by
  unfold vecInt
  exact issue_keeps h fun x m hx => by simpa using hx
theorem vecInt1_keeps {d a : VR} {p : PR} {op : Word → Word} : Keeps (vecInt1 s d a p op) := by
  unfold vecInt1
  exact issue_keeps h fun x m hx => by simpa using hx
theorem predOp_keeps {d p : PR} {op : Ctx → Mask → Nat → Bool} : Keeps (predOp s d p op) := by
  unfold predOp
  exact issue_keeps h fun x m hx => by simpa using hx
theorem redMinMax_keeps {d a : VR} {k p : PR} {isMax : Bool} : Keeps (redMinMax s d a k p isMax) := by
  unfold redMinMax
  exact issue_keeps h fun x m hx => by simpa using hx

/-! ### Scalar -/

theorem scalarOp_keeps {d : SR} {f : Ctx → DWord} : Keeps (scalarOp s d f) := by
  unfold scalarOp
  exact issue_keeps h fun x m hx => hx
theorem scalarBin_keeps {d a : SR} {b : B8} {op : DWord → DWord → DWord} : Keeps (scalarBin s d a b op) := by
  unfold scalarBin
  exact issue_keeps h fun x m hx => hx
theorem scalarUn_keeps {d : SR} {b : B8} {op : DWord → DWord} : Keeps (scalarUn s d b op) := by
  unfold scalarUn
  exact issue_keeps h fun x m hx => hx
theorem scalarDiv_keeps {d a : SR} {b : B8} {op : DWord → DWord → DWord} : Keeps (scalarDiv s d a b op) := by
  unfold scalarDiv
  exact issue_keeps h fun x m hx => hx
theorem scalarFloat_keeps {d a : SR} {b : B8} {op : Rm → Bool → Nat → Nat → Nat → Nat × Flags} :
    Keeps (scalarFloat s d a b op) := by
  unfold scalarFloat
  exact issue_keeps h fun x m hx => by simpa using hx
theorem scalarFloat1_keeps {d : SR} {b : B8} {op : Rm → Bool → Nat → Nat × Flags} : Keeps (scalarFloat1 s d b op) := by
  unfold scalarFloat1
  exact issue_keeps h fun x m hx => by simpa using hx

/-! ### VectorFloat -/

theorem vecFloat_keeps {d a : VR} {b : B8} {p : PR} {op : Fmt → Rm → Bool → Nat → Nat → Nat → Nat × Flags} :
    Keeps (vecFloat s d a b p op) := by
  unfold vecFloat
  exact issue_keeps h fun x m hx => by simpa using hx
theorem vecUnary_keeps {d a : VR} {p : PR} {op : Fmt → Rm → Bool → Nat → Nat × Flags} : Keeps (vecUnary s d a p op) := by
  unfold vecUnary
  exact issue_keeps h fun x m hx => by simpa using hx
theorem sfu_keeps {d a : VR} {p : PR} {f : Sfu} : Keeps (sfu s d a p f) := by
  unfold sfu
  exact issue_keeps h fun x m hx => by simpa using hx

end

/-! ### Steps -/

/-- The meaning of every word and event keeps the form, by the operation its meaning is made of. -/
theorem exec_keeps {s : State} (h : s.mem.wf = true) (i : Instr) : Keeps (exec i s) := by
  cases i
  all_goals unfold exec
  case clauseHeader => exact execClauseHeader_keeps h _ _ _ _ _ _ _ _ _
  case fadd | fsub | fmul | ffma | ffnma | fmin | fmax | fscale | fcopysign => exact vecFloat_keeps h
  case fdot2 | fcmp | cvt | cvtpk | vwri | icmp | sel | vmov | vshfl | laneid | redAdd | redFadd | scanAdd | ballot | bcast | vrdi
    | sld | sst | mwait | sget | sset | sreadv | sreadp | cpcommit | cpwait | bra | brk | jmpv | retLink | reform | exitLanes | yield
    | sbwait | fdecl | vfpush | vfpop | vffree | qpush | qlevel | treq | tstat | phint | pvf | trapi | tpred | nop | clock | sleep
    | brkpt => exact issue_keeps h fun x m hx => by simpa using hx
  case rcp | rsq | sqrt | exp2 | log2 | sin | cos | tanh => exact sfu_keeps h
  case floor | ceil | trunc | rint | fract | fabs | fneg | fclass | fsat => exact vecUnary_keeps h
  case iadd | isub | imul | imulhi | umulhi | imad | imin | imax | umin | umax | vand | vor | vxor | andn | shl | shr | sar | bfe
    | bfi | idot4 => exact vecInt_keeps h
  case iaddi | andi | shli | shri | sari | rotri | popc | clz | ctz | brev | iabs | ineg | bswap => exact vecInt1_keeps h
  case pand | por | pxor | pnot | pmov | pset | pclr | pleader => exact predOp_keeps h
  case redMin | redMax => exact redMinMax_keeps h
  case ldb | ldsb | ldh | ldsh | ldw | ldw2 | ldw4 => exact loadWord_keeps h
  case stb | sth | stw | stw2 | stw4 => exact storeWord_keeps h
  case aadd | aimin | aimax | aumin | aumax | aand | aor | axor | axch | acas | afadd | aor8w => exact atomicWord_keeps h
  case fence => exact execFence_keeps h
  case monitor => exact execMonitor_keeps h
  case mcancel => exact execMcancel_keeps h
  case otake | obase | oclose => exact ordFree_keeps h
  case oenter | otry => exact ordEnter_keeps h
  case oleave => exact execOleave_keeps h
  case binit => exact execBinit_keeps h
  case barrive => exact execBarrive_keeps h
  case bwait => exact execBwait_keeps h
  case bsync => exact execBsync_keeps h
  case brarrive => exact execBrarrive_keeps h
  case btest => exact execBtest_keeps h
  case ropen | rcontrib | rclose => exact redWord_keeps h
  case sadd | ssub | smul | smulhi | sumulhi | sand | sor | sxor | sandn | sshl | sshr | ssar | smin | smax | sumin | sumax | sbfe
    | sseq | sne | slt | sle | sltu | sleu => exact scalarBin_keeps h
  case smov | snot | sclz | sctz | spopc | ssext32 | szext32 => exact scalarUn_keeps h
  case sdiv | sdivu | srem | sremu => exact scalarDiv_keeps h
  case ssel | sbyte => exact scalarOp_keeps h
  case sldw | sldd | sstw | sstd | sldwa | sstdr => exact scalarMem_keeps h
  case sfadd | sfsub | sfmul | sffma | sfmin | sfmax | sflt | sfeq => exact scalarFloat_keeps h
  case sfcvtfi | sfcvtif | sfrcp => exact scalarFloat1_keeps h
  case mldw => exact execMldw_keeps h
  case mswap => exact execMswap_keeps h
  case mstream => exact execMstream_keeps h
  case mdrain => exact execMdrain_keeps h
  case cpload | cploadm | cpstore | cpgath | cpscat => exact copyWord_keeps h
  case qappend => exact execQappend_keeps h
  case qappendl => exact execQappendl_keeps h
  case qrsv => exact execQrsv_keeps h
  case qflush => exact execQflush_keeps h
  case qleft => exact execQleft_keeps h
  case glaunch => exact execGlaunch_keeps h
  case gcancel => exact execGcancel_keeps h
  case gstatus => exact execGstatus_keeps h
  case braZ | braNz | braLt | braGe => exact branchOn_keeps h
  case callDisp | callk | icall => exact callTo_keeps h
  case markPush => exact execMarkPush_keeps h
  case joinLanes => exact execJoinLanes_keeps h
  case enrol => exact execEnrol_keeps h
  case rejoin => exact execRejoin_keeps h
  case strike => exact execStrike_keeps h
  case jclr => exact execJclr_keeps h
  case qpop | qpeek => exact popWord_keeps h
  case pgate | pungate => exact gateWord_keeps h
  case tretRetry | tretAdvance | tretSkiplanes => exact trapReturn_keeps h
  case pref => exact execPref_keeps h
  case sleepEnd => exact execSleepEnd_keeps h
  case resultArrival => exact execResultArrival_keeps h
  case faultRouting => exact execFaultRouting_keeps h
  case watchdog => exact execWatchdog_keeps h
  case fsvcreplyResume => exact execFsvcreplyResume_keeps h
  case fsvcreplyKill => exact execFsvcreplyKill_keeps h
  case recordArrival => exact execRecordArrival_keeps h
  case batchageExpiry => exact execBatchageExpiry_keeps h
  case placement => exact execPlacement_keeps h
  case rtWindowStart => exact execRtWindowStart_keeps h
  case reformBinClose => exact execReformBinClose_keeps h
  case waveRetirement => exact execWaveRetirement_keeps h
  case drainingStreamTimeout => exact execDrainingStreamTimeout_keeps h
  case runCompletion => exact execRunCompletion_keeps h
  case phaseStart => exact execPhaseStart_keeps h
  case runLaunch => exact execRunLaunch_keeps h
  case laneKill => exact execLaneKill_keeps h
  case rootQueueBind => exact execRootQueueBind_keeps h
  case spillTimeout => exact execSpillTimeout_keeps h
  case splitChange => exact execSplitChange_keeps h
  case waitSaveTimeout => exact execWaitSaveTimeout_keeps h
  case contextSave => exact execContextSave_keeps h
  case contextRestore => exact execContextRestore_keeps h
  case memoryPacket => exact execMemoryPacket_keeps h
  case pageWalk => exact execPageWalk_keeps h
  case shortStoreWaitEnd => exact execShortStoreWaitEnd_keeps h
  case promotionRequest => exact execPromotionRequest_keeps h
  case promotionReply => exact execPromotionReply_keeps h
  case mwaitTimeout => exact execMwaitTimeout_keeps h
  case keystoneRequest => exact execKeystoneRequest_keeps h
  case sectionStall => exact execSectionStall_keeps h
  case barrierRequest => exact execBarrierRequest_keeps h
  case reductionRequest => exact execReductionRequest_keeps h
  case engineCommandArrival => exact execEngineCommandArrival_keeps h
  case mldwFinish => exact execMldwFinish_keeps h
  case mswapEffect => exact execMswapEffect_keeps h
  case streamStart => exact execStreamStart_keeps h
  case matrixRowFinish => exact execMatrixRowFinish_keeps h
  case copyCompletion => exact execCopyCompletion_keeps h
  case multicastDelivery => exact execMulticastDelivery_keeps h
  case vfifoEntryAvailable => exact execVfifoEntryAvailable_keeps h
  case vfifoBeatFail => exact execVfifoBeatFail_keeps h
  case vfifoRepairComplete => exact execVfifoRepairComplete_keeps h
  case linkTurnEnd => exact execLinkTurnEnd_keeps h
  case leaseTimeout => exact execLeaseTimeout_keeps h
  case flitReceive => exact execFlitReceive_keeps h
  case linkRecalibration => exact execLinkRecalibration_keeps h
  case recalibrationEnd => exact execRecalibrationEnd_keeps h
  case dieParkComplete => exact execDieParkComplete_keeps h
  case railOff => exact execRailOff_keeps h
  case railReady => exact execRailReady_keeps h
  case sliceLeave => exact execSliceLeave_keeps h
  case sliceJoin => exact execSliceJoin_keeps h
  case bankRetirement => exact execBankRetirement_keeps h
  case gainCellRefresh => exact execGainCellRefresh_keeps h
  case patrolScrub => exact execPatrolScrub_keeps h
  case plumbTick => exact execPlumbTick_keeps h
  case vfChangeComplete => exact execVfChangeComplete_keeps h
  case retentionEntry => exact execRetentionEntry_keeps h
  case hardwareTrip => exact execHardwareTrip_keeps h
  case heartbeatMiss => exact execHeartbeatMiss_keeps h
  case warmReset => exact execWarmReset_keeps h
  case powerOnReset => exact execPowerOnReset_keeps h
  case bootImage => exact execBootImage_keeps h
  case flashReadTimeout => exact execFlashReadTimeout_keeps h
  case setvf => exact execSetvf_keeps h
  case setcap => exact execSetcap_keeps h
  case measure => exact execMeasure_keeps h
  case quote => exact execQuote_keeps h
  case telemetry => exact execTelemetry_keeps h
  case flashRead => exact execFlashRead_keeps h
  case flashProgram => exact execFlashProgram_keeps h
  case flashReboot => exact execFlashReboot_keeps h
  case cornerread => exact execCornerread_keeps h
  case mailboxCompletion => exact execMailboxCompletion_keeps h
  case rqtailWrite => exact execRqtailWrite_keeps h
  case rqbaseWrite => exact execRqbaseWrite_keeps h
  case rqsizeWrite => exact execRqsizeWrite_keeps h
  case hostBar2Access => exact execHostBar2Access_keeps h
  case registerWrite => exact execRegisterWrite_keeps h
  case slotcmdPhase => exact execSlotcmdPhase_keeps h
  case slotcmdJob => exact execSlotcmdJob_keeps h
  case invctlGo => exact execInvctlGo_keeps h
  case invalidationComplete => exact execInvalidationComplete_keeps h
  case l1modeWrite => exact execL1modeWrite_keeps h
  case l1modeChangeComplete => exact execL1modeChangeComplete_keeps h
  case pmcselWrite => exact execPmcselWrite_keeps h
  case pmcClear => exact execPmcClear_keeps h
  case mlpartWrite => exact execMlpartWrite_keeps h
  case partitionChangeComplete => exact execPartitionChangeComplete_keeps h
  case mlremapWrite => exact execMlremapWrite_keeps h
  case remapComplete => exact execRemapComplete_keeps h
  case cmcfgWrite => exact execCmcfgWrite_keeps h
  case cmheadWrite => exact execCmheadWrite_keeps h
  case layergateReqWrite => exact execLayergateReqWrite_keeps h
  case binGroup => exact execBinGroup_keeps h
  case viewportClose => exact execViewportClose_keeps h
  case tileFill => exact execTileFill_keeps h
  case tileVisibility => exact execTileVisibility_keeps h
  case classifierEmit => exact execClassifierEmit_keeps h
  case tileWriteback => exact execTileWriteback_keeps h
  case rayBatch => exact execRayBatch_keeps h
  case rayResult => exact execRayResult_keeps h
  case matrixNodeBatch => exact execMatrixNodeBatch_keeps h
  case matrixNodeResult => exact execMatrixNodeResult_keeps h
  case packetAcknowledgement => exact execPacketAcknowledgement_keeps h
  case turnWaitEnd => exact execTurnWaitEnd_keeps h
  case voltageRampEnd => exact execVoltageRampEnd_keeps h

/-- An issue keeps the form: the fetch of the word, its meaning, and the end of the instruction do. -/
theorem issueStep_keeps {s : State} (h : s.mem.wf = true) (id : Nat) : Keeps (issueStep s id) := by
  intro t ht
  have hf := State.fetchInstr_memOk h id
  obtain ⟨u, hu, rfl⟩ | ⟨u, i, v, hu, hv, rfl⟩ := issueStep_cases ht
  · exact fst_memOk hu hf
  · exact State.finishInstr_memOk (exec_keeps (fst_memOk hu hf) i v hv) _ _

/-- A step keeps the form, whatever move comes next: an issue, an event, an input or none. -/
theorem step_keeps {s : State} (h : s.mem.wf = true) : Keeps (step s) := by
  intro t ht
  have hn := State.nextAct_memOk h
  obtain ⟨u, id, hu, hi⟩ | ⟨u, i, e, hu, ⟨-, rfl⟩ | ⟨-, hi⟩⟩ | ⟨u, v, hu, rfl⟩ | ⟨u, hu, rfl⟩ := step_cases ht
  · exact issueStep_keeps (fst_memOk hu hn) id t hi
  · exact fst_memOk hu hn
  · have hm := fst_memOk hu hn
    exact exec_keeps (s := { u with evt := e }) hm i t hi
  · exact State.outside_memOk (fst_memOk hu hn) v
  · exact fst_memOk hu hn

/-- Settles O58: the canonical form is kept by every operation that writes memory, through the meaning of every word and event. -/
theorem stepKeepsMemoryForm : Obligations.StepKeepsMemoryForm := by
  unfold Obligations.StepKeepsMemoryForm
  exact fun s t h => step_keeps h t

end Sys2Proof.Machine
end
